-- ==== Sys2Proof/Word.lean ====
section
/-!
DEFINITION. Word.lean: the word types of the L9 (R4, R16) and nothing else.
-/
namespace Sys2Proof

/-- A byte, the unit that memory is addressed in (R92, R98). -/
abbrev Byte := BitVec 8

/-- A scalar register, a system register, a doubleword (R16). -/
abbrev Word := BitVec 64

/-- A vector lane, an instruction memory word (R16, R291). -/
abbrev Lane := BitVec 32

/-- A predicate register: one bit for each of the 128 lanes (R16). -/
abbrev Pred := BitVec 128

/-- An accumulator entry: eight digits and an exponent (R68). -/
abbrev AccEntry := BitVec 48

end Sys2Proof
end

