-- ==== Sys2Proof/Machine/Crypto.lean ====
section
/-!
DEFINITION. Machine/Crypto.lean: AES-256-XTS as IEEE 1619 defines it (R117), SHA-256 (R248, R281) and the check of an LMS
signature under LMS_SHA256_M32_H10 with LMOTS_SHA256_N32_W4 as RFC 8554 defines it (R230, R274). Bytes are naturals below 256.
-/
namespace Sys2Proof.Machine

/-! ## AES-256 -/

/-- A byte of GF(2^8) doubled. -/
def gfDouble (x : Nat) : Nat := if 128 ≤ x then (2 * x ^^^ 0x11B) % 256 else 2 * x

/-- The product of two bytes of GF(2^8), over the bits of the second. -/
def gfMulBits : Nat → Nat → Nat → Nat
  | 0, _, _ => 0
  | n + 1, a, b => (if b % 2 == 1 then a else 0) ^^^ gfMulBits n (gfDouble a) (b / 2)

/-- The product of two bytes of GF(2^8). -/
def gfMul (a b : Nat) : Nat := gfMulBits 8 a b

/-- The square of a byte, `n` times. -/
def gfSquares : Nat → Nat → Nat
  | 0, a => a
  | n + 1, a => gfSquares n (gfMul a a)

/-- The inverse in GF(2^8), a ^ 254; 0 for 0. -/
def gfInv (a : Nat) : Nat :=
  (List.range 7).foldl (fun p i => gfMul p (gfSquares (i + 1) a)) 1

/-- A byte rotated left. -/
def rotl8 (x n : Nat) : Nat := x * 2 ^ n % 256 + x / 2 ^ (8 - n)

/-- The S-box. -/
def aesSub (x : Nat) : Nat :=
  let b := gfInv x
  b ^^^ rotl8 b 1 ^^^ rotl8 b 2 ^^^ rotl8 b 3 ^^^ rotl8 b 4 ^^^ 0x63

/-- The inverse S-box. -/
def aesUnsub (x : Nat) : Nat := gfInv (rotl8 x 1 ^^^ rotl8 x 3 ^^^ rotl8 x 6 ^^^ 0x05)

/-- Two lists of bytes added bit by bit. -/
def xorBytes (a b : List Nat) : List Nat := List.zipWith (· ^^^ ·) a b

/-- The key schedule, words of 4 bytes, latest first: word `i` follows the words before it. -/
def aesExpand : Nat → Nat → Nat → List (List Nat) → List (List Nat)
  | 0, _, _, ws => ws
  | n + 1, i, rcon, ws =>
    let prev := ws.headD []
    let back := ws.getD 7 []
    if i % 8 == 0 then
      let t := (prev.drop 1 ++ prev.take 1).map aesSub
      aesExpand n (i + 1) (gfDouble rcon) (xorBytes back (xorBytes t [rcon, 0, 0, 0]) :: ws)
    else if i % 8 == 4 then aesExpand n (i + 1) rcon (xorBytes back (prev.map aesSub) :: ws)
    else aesExpand n (i + 1) rcon (xorBytes back prev :: ws)

/-- A list cut into words of 4 bytes. -/
def inWords (l : List Nat) (n : Nat) : List (List Nat) := (List.range n).map (fun i => (l.drop (4 * i)).take 4)

/-- The 15 round keys of a 32-byte key. -/
def aesKeys (key : List Nat) : List (List Nat) :=
  let ws := (aesExpand 52 8 1 (inWords key 8).reverse).reverse
  (List.range 15).map (fun r => ((ws.drop (4 * r)).take 4).flatMap id)

/-- Row `r` moves left by `r`: the block is held column by column. -/
def aesShift (b : List Nat) : List Nat := (List.range 16).map (fun i => b.getD ((i + 4 * (i % 4)) % 16) 0)

/-- The inverse of the row shift. -/
def aesUnshift (b : List Nat) : List Nat := (List.range 16).map (fun i => b.getD ((i + 12 * (i % 4)) % 16) 0)

/-- A column mixed by a row of coefficients. -/
def aesMixWith (c0 c1 c2 c3 : Nat) (b : List Nat) : List Nat :=
  (List.range 16).map (fun i =>
    let at_ (k : Nat) : Nat := b.getD (i / 4 * 4 + (i + k) % 4) 0
    gfMul c0 (at_ 0) ^^^ gfMul c1 (at_ 1) ^^^ gfMul c2 (at_ 2) ^^^ gfMul c3 (at_ 3))

/-- AES-256 of one 16-byte block. -/
def aesEncrypt (keys : List (List Nat)) (b : List Nat) : List Nat :=
  let b := xorBytes b (keys.getD 0 [])
  let b := (List.range 13).foldl (fun b r => xorBytes (aesMixWith 2 3 1 1 (aesShift (b.map aesSub))) (keys.getD (r + 1) [])) b
  xorBytes (aesShift (b.map aesSub)) (keys.getD 14 [])

/-- The inverse of AES-256 on one block. -/
def aesDecrypt (keys : List (List Nat)) (b : List Nat) : List Nat :=
  let b := (aesUnshift (xorBytes b (keys.getD 14 []))).map aesUnsub
  let b := (List.range 13).foldl (fun b r =>
    (aesUnshift (aesMixWith 14 11 13 9 (xorBytes b (keys.getD (13 - r) [])))).map aesUnsub) b
  xorBytes b (keys.getD 0 [])

/-! ## XTS -/

/-- `n` bytes of a natural, lowest first. -/
def lowBytes (x n : Nat) : List Nat := (List.range n).map (fun i => x / 256 ^ i % 256)

/-- The natural that bytes spell, lowest first. -/
def ofLowBytes (l : List Nat) : Nat := l.foldr (fun b n => b + 256 * n) 0

/-- A tweak multiplied by the primitive element, `n` times. -/
def xtsStep : Nat → Nat → Nat
  | 0, t => t
  | n + 1, t => xtsStep n (if 2 ^ 127 ≤ t then (2 * t) % 2 ^ 128 ^^^ 0x87 else 2 * t)

/-- The mask of the 16-byte block at canonical physical address `pa` under a key pair (R117): the data unit is the 4 KiB
frame, the tweak its address over 4,096, the block number its place in the frame. -/
def xtsMask (key pa : Nat) : List Nat :=
  let k2 := aesKeys (lowBytes (key / 2 ^ 256) 32)
  lowBytes (xtsStep (pa / 16 % 256) (ofLowBytes (aesEncrypt k2 (lowBytes (pa / 4096) 16)))) 16

/-- A block as it is stored under a key pair. -/
def xtsEncrypt (key pa : Nat) (b : List Nat) : List Nat :=
  let m := xtsMask key pa
  xorBytes m (aesEncrypt (aesKeys (lowBytes (key % 2 ^ 256) 32)) (xorBytes m b))

/-- A stored block as it reads under a key pair. -/
def xtsDecrypt (key pa : Nat) (b : List Nat) : List Nat :=
  let m := xtsMask key pa
  xorBytes m (aesDecrypt (aesKeys (lowBytes (key % 2 ^ 256) 32)) (xorBytes m b))

/-! ## SHA-256 -/

/-- A prime's place in the constants of SHA-256: the first 32 bits of the fraction of a root, by search. -/
def rootFraction (pow p : Nat) : Nat → Nat → Nat
  | 0, r => r
  | n + 1, r =>
    let c := r + 2 ^ n
    if c ^ pow ≤ p * 2 ^ (32 * pow) then rootFraction pow p n c else rootFraction pow p n r

/-- The first 32 bits of the fraction of the square root (2) or cube root (3) of `p`. -/
def rootBits (pow p : Nat) : BitVec 32 := BitVec.ofNat 32 (rootFraction pow p 38 0)

/-- The first 64 primes. -/
def primes64 : List Nat :=
  [2, 3, 5, 7, 11, 13, 17, 19, 23, 29, 31, 37, 41, 43, 47, 53, 59, 61, 67, 71, 73, 79, 83, 89, 97, 101, 103, 107, 109, 113,
   127, 131] ++
  [137, 139, 149, 151, 157, 163, 167, 173, 179, 181, 191, 193, 197, 199, 211, 223, 227, 229, 233, 239, 241, 251, 257, 263,
   269, 271, 277, 281, 283, 293, 307, 311]

/-- The round constants. -/
def shaK : List (BitVec 32) := primes64.map (rootBits 3)

/-- The initial hash value. -/
def shaInit : List (BitVec 32) := (primes64.take 8).map (rootBits 2)

/-- A big-endian word of 4 bytes. -/
def beWord (l : List Nat) : BitVec 32 := BitVec.ofNat 32 (l.foldl (fun n b => 256 * n + b) 0)

/-- `n` bytes of a natural, highest first. -/
def beBytes (x n : Nat) : List Nat := (lowBytes x n).reverse

/-- The message schedule, latest word first. -/
def shaSchedule : Nat → List (BitVec 32) → List (BitVec 32)
  | 0, ws => ws
  | n + 1, ws =>
    let w15 := ws.getD 14 0
    let w2 := ws.getD 1 0
    let s0 := w15.rotateRight 7 ^^^ w15.rotateRight 18 ^^^ w15 >>> 3
    let s1 := w2.rotateRight 17 ^^^ w2.rotateRight 19 ^^^ w2 >>> 10
    shaSchedule n ((ws.getD 15 0 + s0 + ws.getD 6 0 + s1) :: ws)

/-- One round of the compression function. -/
def shaRound (h : List (BitVec 32)) (kw : BitVec 32 × BitVec 32) : List (BitVec 32) :=
  let at_ (i : Nat) : BitVec 32 := h.getD i 0
  let a := at_ 0
  let e := at_ 4
  let s1 := e.rotateRight 6 ^^^ e.rotateRight 11 ^^^ e.rotateRight 25
  let ch := (e &&& at_ 5) ^^^ (~~~e &&& at_ 6)
  let t1 := at_ 7 + s1 + ch + kw.1 + kw.2
  let s0 := a.rotateRight 2 ^^^ a.rotateRight 13 ^^^ a.rotateRight 22
  let maj := (a &&& at_ 1) ^^^ (a &&& at_ 2) ^^^ (at_ 1 &&& at_ 2)
  [t1 + (s0 + maj), a, at_ 1, at_ 2, at_ 3 + t1, e, at_ 5, at_ 6]

/-- One block of 64 bytes. -/
def shaBlock (h : List (BitVec 32)) (b : List Nat) : List (BitVec 32) :=
  let ws := (shaSchedule 48 ((inWords b 16).map beWord).reverse).reverse
  List.zipWith (· + ·) h ((List.zip shaK ws).foldl shaRound h)

/-- The blocks of a padded message. -/
def shaBlocks : Nat → List Nat → List (BitVec 32) → List (BitVec 32)
  | 0, _, h => h
  | n + 1, m, h => shaBlocks n (m.drop 64) (shaBlock h (m.take 64))

/-- The SHA-256 digest of a list of bytes, as 32 bytes. -/
def sha256 (m : List Nat) : List Nat :=
  let n := m.length
  let pad := m ++ [0x80] ++ List.replicate ((119 - n % 64) % 64) 0 ++ beBytes (8 * n) 8
  (shaBlocks (pad.length / 64) pad shaInit).flatMap (fun w => beBytes w.toNat 4)

/-! ## LMS -/

/-- A part of a list of bytes. -/
def bytesOf (l : List Nat) (at_ n : Nat) : List Nat := (l.drop at_).take n

/-- A Winternitz digit of 4 bits: the high half of a byte first. -/
def nibbleAt (l : List Nat) (i : Nat) : Nat := if i % 2 == 0 then l.getD (i / 2) 0 / 16 else l.getD (i / 2) 0 % 16

/-- The hash chain of one digit from step `a` up to 15. -/
def lmsChain (pre : List Nat) : Nat → List Nat → List Nat
  | 0, t => t
  | n + 1, t => lmsChain pre n (sha256 (pre ++ [14 - n] ++ t))

/-- The candidate of the one-time public key from message and signature. -/
def lmsCandidate (id q : List Nat) (msg ots : List Nat) : List Nat :=
  let c := bytesOf ots 4 32
  let h := sha256 (id ++ q ++ [0x81, 0x81] ++ c ++ msg)
  let sum := (List.range 64).foldl (fun n i => n + (15 - nibbleAt h i)) 0
  let digits := h ++ beBytes (sum * 16) 2
  let z := (List.range 67).flatMap (fun i =>
    lmsChain (id ++ q ++ beBytes i 2) (15 - nibbleAt digits i) (bytesOf ots (36 + 32 * i) 32))
  sha256 (id ++ q ++ [0x80, 0x80] ++ z)

/-- The path of a leaf up to the root. -/
def lmsRoot (id path : List Nat) : Nat → Nat → Nat → List Nat → List Nat
  | 0, _, _, t => t
  | n + 1, i, node, t =>
    let sib := bytesOf path (32 * i) 32
    let pre := id ++ beBytes (node / 2) 4 ++ [0x83, 0x83]
    lmsRoot id path n (i + 1) (node / 2) (sha256 (if node % 2 == 1 then pre ++ sib ++ t else pre ++ t ++ sib))

/-- The LMS signature of 2,508 bytes verifies over a message under a 56-byte public key (R230, R274). -/
def lmsVerify (pub msg sig : List Nat) : Bool :=
  let id := bytesOf pub 8 16
  let q := bytesOf sig 0 4
  let leaf := q.foldl (fun n b => 256 * n + b) 0
  let ots := bytesOf sig 4 2180
  let k := lmsCandidate id q msg ots
  let t := sha256 (id ++ beBytes (1024 + leaf) 4 ++ [0x82, 0x82] ++ k)
  bytesOf pub 0 8 == [0, 0, 0, 6, 0, 0, 0, 3] && sig.length == 2508 && decide (leaf < 1024)
    && bytesOf ots 0 4 == [0, 0, 0, 3] && bytesOf sig 2184 4 == [0, 0, 0, 6]
    && lmsRoot id (bytesOf sig 2188 320) 10 0 (1024 + leaf) t == bytesOf pub 24 32

end Sys2Proof.Machine
end

