-- ==== Sys2Proof/Config.lean ====
section
/-!
DEFINITION. Config.lean: what a module fixes for itself and the values the spec leaves open. Each is an opaque constant:
nothing can evaluate it, so a statement about it holds for every value.
-/
namespace Sys2Proof

/-- The device's free choices, one after the other: which pending access, acknowledgement, page walk or lane decision comes
next (R154, R157, R127, R63, R110). Log 8. -/
opaque Config.deviceChoice : Nat → Nat

/-- The choice of the scheduler firmware among free cells, by launch and candidate: cells with lower numbers are taken first
(R190). Log 8. -/
opaque Config.cellPreference : Nat → Nat → Nat

/-- How many items of work beyond the first one slot (1 poll, 2 dispatch, 3 completion) has time for, by minor frame (R180, log 59). -/
opaque Config.slotWork : Nat → Nat → Nat

/-- The contribution of a peer device's member to a collective: by table entry, group, round and element (R143). Log 8. -/
opaque Config.peerElement : Nat → Nat → Nat → Nat → Nat

/-- SPREAD and RANK that XSKEW shows for a collective that ended without all its arrivals: by issue number (R144, R440). Log 74. -/
opaque Config.endedSkew : Nat → BitVec 44

/-- The TSTAMP at which a peer device's member arrived: by table entry, group and round (R145). Log 8. -/
opaque Config.peerArrival : Nat → Nat → Nat → Nat

/-- The one-way delay in cycles between an issuing cell and the engine of another cell (R43). Log 52. -/
opaque Config.oneWay : Nat → Nat → Nat

/-- The outcome of the power-on steps when no other is given: images that pass, dies that pass, mantles that pass, HBM4
stacks that train (R25). Log 8. -/
opaque Config.bootOutcome : Nat → Nat

/-- The firmware images on the package: LAYOUT, OLDLAY, VERSION, SVN and LEN by role and field (R25, R274). Log 8. -/
opaque Config.bootImage : Nat → Nat → Nat

/-- Their bodies: by role and byte (R25, R274). Log 8. -/
opaque Config.bootBody : Nat → Nat → BitVec 8

/-- Their digests: by role and byte (R25, R281). Log 8. -/
opaque Config.bootDigest : Nat → Nat → BitVec 8

/-- The fused serial number (R27). Log 8. -/
opaque Config.serial : BitVec 64

/-- DMPCAL: idle power in W of one ungated die at a rail level (R244). Log 8. -/
opaque Config.idlePower : Nat → Nat

/-- The energy in pJ that the sensor hub measures for a cell over a period of 10 µs: by CID and period (R257). Log 8. -/
opaque Config.measuredEnergy : Nat → Nat → Nat

/-- The samples of the thermal sensors, in quarter degrees: by sensor and period of 10 µs (R21, R224). Log 8. -/
opaque Config.temperature : Nat → Nat → Nat

/-- The mean of the module power over the last 100 samples, in µW: by tick (R241). Log 8. -/
opaque Config.modulePower : Nat → Nat

/-- ECOST0 to ECOST4 in pJ, by the levels of the compute and fabric rails and index (R258). Log 8. -/
opaque Config.energyCost : Nat → Nat → Nat → Nat

/-- How this revision's units hold the online residual of a lane: by entry and lane, the word that masks what it carries (R72). Log 8, 50. -/
opaque Config.residualMask : Nat → Nat → BitVec 64

/-- The units' choices in forming a lane's digits: by issue number, lane and digit, 0 for the stream exponent (R55, R452). Log 50. -/
opaque Config.digitChoice : Nat → Nat → Nat → Nat

/-- The flags of a result that resumes from an entry which no stop of this device wrote: by the entry's header (R72, R73). Log 10. -/
opaque Config.resumedFlags : Nat → BitVec 7

/-- Operand `i` of a matrix operation that a restored KIND 4 entry with header `h` holds: the entry stores none (R353, log 10). -/
opaque Config.resumedOperand : Nat → Nat → Nat

/-- Body of a hand-over block, defined by the image alone: by layout, major frame and place (R277). Log 8. -/
opaque Config.blockBody : Nat → Nat → Nat → BitVec 8

/-- Bytes of the body of a hand-over block, modulo 32,705: by layout and major frame (R277). Log 8. -/
opaque Config.blockLen : Nat → Nat → Nat

/-- Bytes of the vendor-signed identity certificate (R282). Log 8. -/
opaque Config.certificate : Nat → BitVec 8

/-- The vendor key fused at manufacture, as the 56 bytes of an LMS public key (R274). Log 8. -/
opaque Config.vendorKey : Nat → BitVec 8

/-- The HSS signature of the device identity key over a quote: by signature index, the digest of the quote's bytes 0 to 287,
and the byte's place. The private key is fused (R282). Log 8. -/
opaque Config.quoteSignature : Nat → Nat → Nat → BitVec 8

/-- The key of slot 127, derived from the fused secret (R248). Log 8. -/
opaque Config.hamperKey : Nat

end Sys2Proof
end

