-- ==== Sys2Proof/Syntax.lean ====
section
/-!
DEFINITION. Syntax.lean: the instructions and steps of the L9, one constructor for each row of the opcode table.
The rows with an encoding carry their fields at the width of R296 to R305; the rows that are steps of the device
(R180 to R290, "What each step holds") carry the choices that the environment or the device makes in that step.
-/
namespace Sys2Proof

/-- The token fields of V64, M64 and X64 payloads (R295). -/
structure Tokens where
  tp  : BitVec 5
  tc0 : BitVec 5
  tc1 : BitVec 5
  tc2 : BitVec 5
  deriving DecidableEq, Repr

/-- Layout VA of the VEC slot (R299, R300). -/
structure FieldsVA where
  d   : BitVec 6
  a   : BitVec 6
  b   : BitVec 6
  c   : BitVec 6
  chs : BitVec 2
  p   : BitVec 3
  td  : BitVec 1
  t   : BitVec 4
  eph : BitVec 1
  cut : BitVec 1
  deriving DecidableEq, Repr

/-- Layout VM of the VEC slot (R299, R301). -/
structure FieldsVM where
  d   : BitVec 6
  p   : BitVec 3
  w   : BitVec 2
  x   : BitVec 1
  g   : BitVec 1
  a   : BitVec 6
  ofs : BitVec 11
  str : BitVec 6
  tok : Tokens
  deriving DecidableEq, Repr

/-- Layout VG of the VEC slot (R299, R301). -/
structure FieldsVG where
  d   : BitVec 6
  p   : BitVec 3
  w   : BitVec 2
  x   : BitVec 1
  g   : BitVec 1
  a   : BitVec 6
  b   : BitVec 6
  tok : Tokens
  deriving DecidableEq, Repr

/-- Layout MX of the MAT slot: MMA and MMAS (R303). -/
structure FieldsMX where
  tl   : BitVec 2
  ks   : BitVec 6
  o    : BitVec 6
  bofs : BitVec 16
  bstr : BitVec 6
  tok  : Tokens
  deriving DecidableEq, Repr

/-- Layout MT of the MAT slot: MLDACC and MSTACC (R303). -/
structure FieldsMT where
  tl  : BitVec 2
  f   : BitVec 4
  ofs : BitVec 16
  str : BitVec 6
  tok : Tokens
  deriving DecidableEq, Repr

/-- Layout MR of the MAT slot: MRDACC (R303). -/
structure FieldsMR where
  tl  : BitVec 2
  d   : BitVec 6
  e   : BitVec 6
  row : BitVec 7
  f   : BitVec 4
  tok : Tokens
  deriving DecidableEq, Repr

/-- The seven slots of a bundle, in the fixed order of R291. -/
inductive Slot where
  | ctl | sa | sb | vec | mat | xfr | cfg
  deriving DecidableEq, Repr


/-- The instructions and steps of the L9: one constructor for each row of the opcode table. -/
inductive Instr where
  | nopCtl  -- R369
  | br (cnd : BitVec 2) (c : BitVec 6) (tgt : BitVec 16)  -- R322
  | bri (cnd : BitVec 2) (c b : BitVec 6)  -- R324
  | call (d : BitVec 6) (tgt : BitVec 16)  -- R325
  | ret (a : BitVec 6)  -- R378
  | loopReg (a : BitVec 6) (e : BitVec 16)  -- R347
  | loopImm (n : BitVec 7) (e : BitVec 16)  -- R347
  | lbrk  -- R343
  | halt  -- R338
  | wait (ldl stl cpl tll : BitVec 4)  -- R434
  | waitpred  -- R435
  | handoff  -- R340
  | yield  -- R443
  | trap (code : BitVec 8)  -- R398
  | eret  -- R336
  | drain (ord scp : BitVec 3)  -- R334
  | bar (scp : BitVec 3)  -- R320
  | release (a : BitVec 6)  -- R375
  | ctxs (a b : BitVec 6)  -- R330
  | ctxr (a b : BitVec 6)  -- R331
  | nopS  -- R369
  | addSr (d a b : BitVec 6) (t : BitVec 4)  -- R317
  | addSi (d a : BitVec 6) (imm : BitVec 11)  -- R317
  | subSr (d a b : BitVec 6) (t : BitVec 4)  -- R394
  | subSi (d a : BitVec 6) (imm : BitVec 11)  -- R394
  | mulSr (d a b : BitVec 6) (t : BitVec 4)  -- R367
  | mulSi (d a : BitVec 6) (imm : BitVec 11)  -- R367
  | mulh (d a b : BitVec 6) (t : BitVec 4)  -- R367
  | div (d a b : BitVec 6) (t : BitVec 4)  -- R332
  | rem (d a b : BitVec 6) (t : BitVec 4)  -- R377
  | andSr (d a b : BitVec 6) (t : BitVec 4)  -- R317
  | andSi (d a : BitVec 6) (imm : BitVec 11)  -- R317
  | orSr (d a b : BitVec 6) (t : BitVec 4)  -- R370
  | orSi (d a : BitVec 6) (imm : BitVec 11)  -- R370
  | xorSr (d a b : BitVec 6) (t : BitVec 4)  -- R439
  | xorSi (d a : BitVec 6) (imm : BitVec 11)  -- R439
  | andnSr (d a b : BitVec 6) (t : BitVec 4)  -- R317
  | andnSi (d a : BitVec 6) (imm : BitVec 11)  -- R317
  | shlSr (d a b : BitVec 6) (t : BitVec 4)  -- R385
  | shlSi (d a : BitVec 6) (imm : BitVec 11)  -- R385
  | shrSr (d a b : BitVec 6) (t : BitVec 4)  -- R385
  | shrSi (d a : BitVec 6) (imm : BitVec 11)  -- R385
  | sraSr (d a b : BitVec 6) (t : BitVec 4)  -- R385
  | sraSi (d a : BitVec 6) (imm : BitVec 11)  -- R385
  | clz (d a : BitVec 6) (t : BitVec 4)  -- R327
  | popc (d a : BitVec 6) (t : BitVec 4)  -- R371
  | minSr (d a b : BitVec 6) (t : BitVec 4)  -- R356
  | minSi (d a : BitVec 6) (imm : BitVec 11)  -- R356
  | maxSr (d a b : BitVec 6) (t : BitVec 4)  -- R356
  | maxSi (d a : BitVec 6) (imm : BitVec 11)  -- R356
  | cmpSc (d a b : BitVec 6) (cnd : BitVec 4)  -- R328
  | cmpSci (d a : BitVec 6) (cnd : BitVec 4) (imm : BitVec 7)  -- R328
  | sel (d a b : BitVec 6) (c : BitVec 5)  -- R383
  | movSm (d a : BitVec 6) (k : BitVec 3)  -- R362
  | movSwi (d : BitVec 6) (imm : BitVec 17)  -- R362
  | movh (d : BitVec 6) (imm : BitVec 16)  -- R363
  | ext (d a pos : BitVec 6) (len : BitVec 5)  -- R337
  | ins (d a pos : BitVec 6) (len : BitVec 5)  -- R337
  | ld (d a : BitVec 6) (sz : BitVec 2) (sx : BitVec 1) (ord scp : BitVec 3) (g : BitVec 1)  -- R344
  | st (d a : BitVec 6) (sz : BitVec 2) (ord scp : BitVec 3) (g : BitVec 1)  -- R391
  | amo (d a : BitVec 6) (aop : BitVec 4) (w : BitVec 1) (ord scp : BitVec 3)  -- R318
  | cas (d a : BitVec 6) (w : BitVec 1) (ords ordf scp : BitVec 3)  -- R326
  | tagl (d a : BitVec 6)  -- R397
  | tags (a b : BitVec 6)  -- R397
  | tagi (a : BitVec 6)  -- R397
  | mfsr (d : BitVec 6) (sys : BitVec 11)  -- R357
  | mtsr (a : BitVec 6) (sys : BitVec 11)  -- R366
  | qpoll (d a : BitVec 6)  -- R372
  | sigw (a b : BitVec 6)  -- R386
  | nopCfg  -- R369
  | sfmtReg (a : BitVec 6)  -- R384
  | sfmtField (fld : BitVec 3) (val : BitVec 4)  -- R384
  | sscl (a : BitVec 6) (grp : BitVec 2)  -- R387
  | sunf (a b : BitVec 6)  -- R395
  | sswzReg (a : BitVec 6)  -- R390
  | sswzImm (v : BitVec 13)  -- R390
  | sapxKnob (qk : BitVec 4)  -- R381
  | sapxExplicit (ovs ndig : BitVec 3) (theta : BitVec 8)  -- R381
  | sbind (e : BitVec 4) (sl : BitVec 2)  -- R382
  | sskew (k : BitVec 6) (sl : BitVec 2)  -- R388
  | sslk (xfr mat vec : BitVec 4)  -- R389
  | nopVec  -- R369
  | vadd (f : FieldsVA)  -- R403
  | vsub (f : FieldsVA)  -- R429
  | vmul (f : FieldsVA)  -- R419
  | vfma (f : FieldsVA)  -- R412
  | vdiv (f : FieldsVA)  -- R410
  | vsqrt (f : FieldsVA)  -- R426
  | vrsq (f : FieldsVA)  -- R426
  | vexp (f : FieldsVA)  -- R411
  | vmin (f : FieldsVA)  -- R417
  | vmax (f : FieldsVA)  -- R417
  | vabs (f : FieldsVA)  -- R402
  | vneg (f : FieldsVA)  -- R421
  | vcmp (f : FieldsVA)  -- R407
  | vthr (f : FieldsVA)  -- R430
  | vsel (f : FieldsVA)  -- R427
  | vand (f : FieldsVA)  -- R405
  | vor (f : FieldsVA)  -- R422
  | vxor (f : FieldsVA)  -- R422
  | vshl (f : FieldsVA)  -- R428
  | vshr (f : FieldsVA)  -- R428
  | vcvt (f : FieldsVA)  -- R409
  | vqnt (f : FieldsVA)  -- R424
  | vamax (f : FieldsVA)  -- R404
  | vred (f : FieldsVA)  -- R425
  | vmov (f : FieldsVA)  -- R418
  | vbcst (f : FieldsVA)  -- R406
  | vperm (f : FieldsVA)  -- R423
  | vidx (f : FieldsVA)  -- R416
  | vld (f : FieldsVM)  -- R415
  | vst (f : FieldsVM)  -- R433
  | vgth (f : FieldsVG)  -- R414
  | vsct (f : FieldsVG)  -- R432
  | nopMat  -- R369
  | mma (f : FieldsMX)  -- R359
  | mmas (f : FieldsMX)  -- R361
  | mzero (tl : BitVec 2) (tok : Tokens)  -- R368
  | mldacc (f : FieldsMT)  -- R358
  | mstacc (f : FieldsMT)  -- R365
  | mrdacc (f : FieldsMR)  -- R364
  | mabort (tl : BitVec 2) (tok : Tokens)  -- R355
  | nopXfr  -- R369
  | xstart (xs : BitVec 3) (dr : BitVec 6) (rofs : BitVec 16) (str : BitVec 6) (tok : Tokens)  -- R441
  | xstep (xs : BitVec 3) (n : BitVec 6) (tok : Tokens)  -- R442
  | xkill (xs : BitVec 3)  -- R438
  | xgath (dr : BitVec 6) (gofs : BitVec 17) (tok : Tokens)  -- R437
  | xcoll (dr : BitVec 6) (gofs : BitVec 17) (tok : Tokens)  -- R437
  | xskew (d : BitVec 6)  -- R440
  | rawait (d : BitVec 6) (hofs : BitVec 16) (j : BitVec 8)  -- R373
  | rrel (hofs : BitVec 16) (n : BitVec 8)  -- R379
  | invr (d a v l : BitVec 6)  -- R341
  | powerOnReset  -- R25
  | thermalSample (cid sample : Nat)  -- R21
  | emergencySaveClear  -- R262
  | damperTick (p : Nat)  -- R242
  | railLevelStep  -- R229
  | bucketRefill  -- R255
  | bucketSettle (cid : Nat)  -- R257
  | curveSubmit (v : Nat)  -- R232
  | curveVerify  -- R233
  | curveTakeover  -- R235
  | curvePoint  -- R231
  | curveExpire  -- R235
  | utcofsWrite (v : Nat)  -- R231
  | parkYieldLimit (team : Nat)  -- R247
  | hamperWrite (team : Nat)  -- R248
  | deepPark (team : Nat)  -- R250
  | dieGatingRamp (die : Nat)  -- R254
  | dieUngatingRamp (die : Nat)  -- R254
  | dieRampEnd (die : Nat)  -- R254
  | droopEvent (die : Nat)  -- R259
  | droopSignatureMatch (die : Nat)  -- R259
  | prethrottleEnd (die : Nat)  -- R260
  | timingErrorReplay (cid : Nat)  -- R272
  | minorFrame  -- R180
  | loadPhaseDone (team : Nat)  -- R192
  | teamFirstCycle (team : Nat)  -- R376
  | teamEnd (team : Nat)  -- R215
  | qctlEnable (q : Nat)  -- R185
  | qctlDestroy (q : Nat)  -- R202
  | qctlClearSticky (q : Nat)  -- R185
  | qctlNoAction (q : Nat)  -- R183
  | queueDestroyFinish (q : Nat)  -- R202
  | qdbWrite (q v : Nat)  -- R184
  | swapOut (team : Nat)  -- R49
  | ccmdFstop (cid v : Nat)  -- R179
  | ccmdYset (cid : Nat)  -- R220
  | ccmdYclr (cid : Nat)  -- R179
  | ccmdMset (cid v : Nat)  -- R225
  | ccmdMclr (cid : Nat)  -- R179
  | srimgWrite (cid reg v : Nat)  -- R179
  | forcedStop (cid : Nat)  -- R204
  | stopLands (cid : Nat)  -- R204
  | faultTeamEnd (team : Nat)  -- R208
  | asyncFaultReport (cid : Nat)  -- R214
  | holdLimit (cid : Nat)  -- R201
  | yieldLands (cid : Nat)  -- R221
  | forcedEpilogue (cid : Nat)  -- R221
  | yieldLimit (team : Nat)  -- R222
  | sliceExpiry (team : Nat)  -- R223
  | migrationLands (cid : Nat)  -- R226
  | migrationComplete (cid : Nat)  -- R226
  | lateOperationStart (cid slot : Nat)  -- R36
  | waitEnd (cid : Nat)  -- R45
  | holdEnd (cid : Nat)  -- R45
  | operationResultWrite (cid : Nat)  -- R32
  | ephLaneDecide (cid lane : Nat)  -- R453
  | matOperationBegin (cid : Nat)  -- R349
  | kStepWrite (cid : Nat)  -- R352
  | transferMoveStart (key : Nat)  -- R131
  | transferAccessDone (key n : Nat)  -- R147
  | pageWalk (holder : Nat)  -- R105
  | transferComplete (key : Nat)  -- R132
  | ringSlotReserve (key : Nat)  -- R137
  | ringWptrAdvance (key : Nat)  -- R137
  | collectiveArrival (n : Nat)  -- R145
  | collectiveComplete (n : Nat)  -- R143
  | invrHolderAck (stk holder : Nat)  -- R110
  | invrComplete (stk : Nat)  -- R110
  | writeAdvance (n : Nat)  -- R150
  | remoteReadPerform (n : Nat)  -- R157
  | atomicExecute (n : Nat)  -- R165
  | accessHoldRelease (cid : Nat)  -- R162
  | barrierComplete (cid scp : Nat)  -- R321
  | keydatWrite (i v : Nat)  -- R120
  | keyctlLoad (v : Nat)  -- R120
  | keyctlEmpty (v : Nat)  -- R120
  | keySlotUpdate  -- R120
  | fwSubmit (v : Nat)  -- R275
  | handoverStage  -- R276
  | handoverQuiesce  -- R276
  | handoverAdopt  -- R276
  | handoverConfirm  -- R276
  | fallBack  -- R278
  | heartbeatCheck  -- R273
  | roleMoveTakeover  -- R273
  | quoteSubmit (v : Nat)  -- R282
  | quoteDone  -- R283
  | watchArm (n v : Nat)  -- R285
  | linkAccessTimeout (n : Nat)  -- R285
  | hostAccess (kind addr v : Nat)  -- R284
  | flitReceive (link v : Nat)  -- R288
  | flitNakReceive (link v : Nat)  -- R288
  | linkRetrain (link : Nat)  -- R288
  | laneRepairStart (link : Nat)  -- R289
  | laneSpareSwap (link : Nat)  -- R289
  | linkNarrow (link : Nat)  -- R289
  | dieIsolation (die : Nat)  -- R290
  | registerWrite (off v : Nat)  -- R6
  | bundleIssue (cid : Nat)  -- R291
  | inputPowerLoss  -- R263
  | linkTrainingLost (link : Nat)  -- R285
  | contextSaveComplete (cid : Nat)  -- R330
  | contextRestoreComplete (cid : Nat)  -- R331
  | cellClearDone (cid : Nat)  -- R121
  deriving DecidableEq, Repr

end Sys2Proof
end

