-- ==== Sys2Proof/WellFormed.lean ====
section
/-!
DEFINITION. WellFormed.lean: what R293 and R296 to R305 ask of the fields of one instruction before any state is looked at.
-/
namespace Sys2Proof

/-- Operand formats that arithmetic accepts: codes 4 to 11 (R297, field T). -/
def arithType (t : BitVec 4) : Bool := decide (4 ≤ t.toNat) && decide (t.toNat ≤ 11)

/-- Operand formats that bitwise operations, shifts, CLZ and POPC accept: codes 4 to 15 (R297, field T). -/
def logicType (t : BitVec 4) : Bool := decide (4 ≤ t.toNat)

/-- SFMT's field form: FLD 0 to 4 and a VAL in the field's range (R305, R384). -/
def sfmtFieldOk (f : BitVec 3) (v : BitVec 4) : Bool :=
  decide (f.toNat ≤ 2) || (f == 3 && decide (v.toNat ≤ 3)) || (f == 4 && decide (v.toNat ≤ 7))

/-- Lane width and sign extension of layouts VM and VG (R301). -/
def laneWidthOk (w : BitVec 2) (x : BitVec 1) (store : Bool) : Bool :=
  !(w == 3) && !(x == 1 && (w == 0 || store))

/-- The operations of layout VA, by name (R302). -/
inductive VAOp where
  | vadd | vsub | vmul | vfma | vdiv | vsqrt | vrsq | vexp | vmin | vmax | vabs | vneg | vcmp | vthr | vsel | vand | vor
  | vxor | vshl | vshr | vcvt | vqnt | vamax | vred | vmov | vbcst | vperm | vidx
  deriving DecidableEq, Repr

/-- May carry `.eph`: the digit-serial producers (R300). -/
def VAOp.mayEph : VAOp → Bool
  | .vadd | .vsub | .vmul | .vfma | .vdiv | .vsqrt | .vrsq | .vexp => true
  | _ => false

/-- May carry `.cut` (R300). -/
def VAOp.mayCut : VAOp → Bool
  | .vcmp | .vthr => true
  | _ => false

/-- How many leading fields of A, B, C name vector registers and may be chained (R59, R300, R302); 0 where R59 accepts no
chained consumer. -/
def VAOp.chainFields : VAOp → Nat
  | .vadd | .vsub | .vmul | .vdiv | .vcmp => 2
  | .vfma => 3
  | .vsqrt | .vrsq | .vexp | .vthr => 1
  | _ => 0

/-- CHS names a field that the opcode may chain (R300). -/
def vaChainFieldOk (op : VAOp) (f : FieldsVA) : Bool := decide (f.chs.toNat ≤ op.chainFields)

/-- The chain distance that the selected field holds (R300). -/
def FieldsVA.distance (f : FieldsVA) : Nat :=
  match f.chs.toNat with
  | 1 => f.a.toNat
  | 2 => f.b.toNat
  | _ => f.c.toNat

/-- A chain distance runs from 1 to 15 (R300). -/
def vaDistanceOk (f : FieldsVA) : Bool :=
  f.chs == 0 || (decide (1 ≤ f.distance) && decide (f.distance ≤ 15))

/-- The field rules of one opcode of layout VA: unused fields zero, codes in range (R302 and the reference entries). -/
def vaOpFieldsOk (op : VAOp) (f : FieldsVA) : Bool :=
  match op with
  | .vadd | .vsub | .vmul | .vdiv | .vmin | .vmax | .vand | .vor | .vxor | .vshl | .vshr => f.c == 0
  | .vfma => true
  | .vsqrt | .vrsq | .vexp | .vabs | .vneg | .vamax | .vred => f.b == 0 && f.c == 0
  | .vcmp => decide (f.d.toNat < 8) && decide (f.c.toNat < 10)
  | .vthr => f.c == 0
  | .vsel => decide (f.c.toNat < 8) && f.td == 0
  | .vcvt => decide (f.b.toNat < 5) && decide (f.c.toNat < 16)
  | .vqnt => decide (f.b.toNat < 16) && f.c == 0 && f.p == 0
  | .vmov => f.b == 0 && f.c == 0 && f.td == 0
  | .vbcst => f.a == 0 && f.c == 0
  | .vperm => f.c == 0 && f.td == 0
  | .vidx => f.a == 0 && f.b == 0 && f.c == 0 && f.td == 0

/-- The field rules of R300 and R302 on a VA payload. -/
def vaFieldsOk (op : VAOp) (f : FieldsVA) : Bool :=
  vaOpFieldsOk op f && (f.td == 1 || f.t == 0) && (op.mayEph || f.eph == 0) && (op.mayCut || f.cut == 0)

/-- A well-formed VA payload. -/
def vaOk (op : VAOp) (f : FieldsVA) : Bool := vaChainFieldOk op f && vaFieldsOk op f && vaDistanceOk f

/-- The instruction has fields that its layout allows (R293). The steps of the device carry no encoded field. -/
def WellFormed : Instr → Bool
  | .br cnd c _ => cnd != 0 || c == 0
  | .bri cnd c _ => cnd != 0 || c == 0
  | .cmpSc _ _ _ cnd => decide (cnd.toNat < 10)
  | .cmpSci _ _ cnd _ => decide (cnd.toNat < 10)
  | .movSm _ a k => decide (k.toNat < 7) && (k == 0 || a == 0)
  | .ext _ _ pos len => decide (pos.toNat + len.toNat < 64)
  | .ins _ _ pos len => decide (pos.toNat + len.toNat < 64)
  | .ld _ _ sz sx _ _ _ => !(sx == 1 && sz == 3)
  | .amo _ _ aop _ _ _ => decide (aop.toNat < 9)
  | .cas d _ _ _ _ _ => d.toNat % 2 == 0
  | .sigw _ b => b.toNat % 4 == 0
  | .sfmtField f v => sfmtFieldOk f v
  | .sskew _ sl => !(sl == 3)
  | .vadd f => vaOk .vadd f
  | .vsub f => vaOk .vsub f
  | .vmul f => vaOk .vmul f
  | .vfma f => vaOk .vfma f
  | .vdiv f => vaOk .vdiv f
  | .vsqrt f => vaOk .vsqrt f
  | .vrsq f => vaOk .vrsq f
  | .vexp f => vaOk .vexp f
  | .vmin f => vaOk .vmin f
  | .vmax f => vaOk .vmax f
  | .vabs f => vaOk .vabs f
  | .vneg f => vaOk .vneg f
  | .vcmp f => vaOk .vcmp f
  | .vthr f => vaOk .vthr f
  | .vsel f => vaOk .vsel f
  | .vand f => vaOk .vand f
  | .vor f => vaOk .vor f
  | .vxor f => vaOk .vxor f
  | .vshl f => vaOk .vshl f
  | .vshr f => vaOk .vshr f
  | .vcvt f => vaOk .vcvt f
  | .vqnt f => vaOk .vqnt f
  | .vamax f => vaOk .vamax f
  | .vred f => vaOk .vred f
  | .vmov f => vaOk .vmov f
  | .vbcst f => vaOk .vbcst f
  | .vperm f => vaOk .vperm f
  | .vidx f => vaOk .vidx f
  | .vld f => laneWidthOk f.w f.x false
  | .vst f => laneWidthOk f.w f.x true
  | .vgth f => laneWidthOk f.w f.x false
  | .vsct f => laneWidthOk f.w f.x true
  | .mldacc f => f.f == 0
  | _ => true

end Sys2Proof
end

