-- ==== Sys2Proof/Decode.lean ====
section
/-!
DEFINITION. Decode.lean: decoding the payload words of R291 to R305 into instructions, total on any word and rejecting by
name, and after it the encoder, from the same layouts. Words are natural numbers; a 64-bit payload is its low word plus
2^32 times its high word (R291).
-/
namespace Sys2Proof

/-- The payload formats of R296 to R305; SA and SB share S32. -/
inductive Format where
  | c32 | s32 | v64 | m64 | x64 | g32
  deriving DecidableEq, Repr

/-- Why a payload is refused: IL with detail ENCODING (R293), or with detail CHAIN (R300). -/
inductive DecodeError where
  | encoding | chain
  deriving DecidableEq, Repr

/-- What decoding answers. -/
inductive Decoded where
  | ok (i : Instr)
  | bad (e : DecodeError)
  deriving DecidableEq, Repr

/-- The instruction, if decoding gives one. -/
def Decoded.instr? : Decoded → Option Instr
  | .ok i => some i
  | .bad _ => none

/-- Field of `n` bits from bit `lo` of a word. -/
def fld (w lo n : Nat) : BitVec n := BitVec.ofNat n (w / 2 ^ lo)

/-- The `n` bits from bit `lo` are zero. -/
def zeroAt (w lo n : Nat) : Bool := w / 2 ^ lo % 2 ^ n == 0

/-- The instruction, or ENCODING where the condition fails. -/
def need (c : Bool) (i : Instr) : Decoded := if c then .ok i else .bad .encoding

/-- The token fields of R295. -/
def fldTokens (w : Nat) : Tokens := ⟨fld w 51 5, fld w 46 5, fld w 41 5, fld w 36 5⟩

/-- The C32 map of R296. -/
def decodeCtl (w : Nat) : Decoded :=
  match w / 2 ^ 24 with
  | 0x00 => need (zeroAt w 0 24) .nopCtl
  | 0x01 => need (fld w 22 2 != 0 || zeroAt w 16 6) (.br (fld w 22 2) (fld w 16 6) (fld w 0 16))
  | 0x02 => need (zeroAt w 0 10 && (fld w 22 2 != 0 || zeroAt w 16 6)) (.bri (fld w 22 2) (fld w 16 6) (fld w 10 6))
  | 0x03 => need (zeroAt w 22 2) (.call (fld w 16 6) (fld w 0 16))
  | 0x04 => need (zeroAt w 22 2 && zeroAt w 0 16) (.ret (fld w 16 6))
  | 0x05 => if zeroAt w 23 1 then need (zeroAt w 22 1) (.loopReg (fld w 16 6) (fld w 0 16))
            else .ok (.loopImm (fld w 16 7) (fld w 0 16))
  | 0x06 => need (zeroAt w 0 24) .lbrk
  | 0x07 => need (zeroAt w 0 24) .halt
  | 0x08 => need (zeroAt w 0 8) (.wait (fld w 20 4) (fld w 16 4) (fld w 12 4) (fld w 8 4))
  | 0x09 => need (zeroAt w 0 24) .waitpred
  | 0x0A => need (zeroAt w 0 24) .handoff
  | 0x0B => need (zeroAt w 0 24) .yield
  | 0x0C => need (zeroAt w 8 16) (.trap (fld w 0 8))
  | 0x0D => need (zeroAt w 0 24) .eret
  | 0x0E => need (zeroAt w 0 18) (.drain (fld w 21 3) (fld w 18 3))
  | 0x0F => need (zeroAt w 0 21) (.bar (fld w 21 3))
  | 0x10 => need (zeroAt w 22 2 && zeroAt w 0 16) (.release (fld w 16 6))
  | 0x11 => need (zeroAt w 22 2 && zeroAt w 0 10) (.ctxs (fld w 16 6) (fld w 10 6))
  | 0x12 => need (zeroAt w 22 2 && zeroAt w 0 10) (.ctxr (fld w 16 6) (fld w 10 6))
  | _ => .bad .encoding

/-- Layout SR or, with I = 1, layout SI (R297). -/
def decodeArith (w : Nat) (sr : BitVec 6 → BitVec 6 → BitVec 6 → BitVec 4 → Instr)
    (si : BitVec 6 → BitVec 6 → BitVec 11 → Instr) : Decoded :=
  if zeroAt w 23 1 then need (zeroAt w 0 1) (sr (fld w 17 6) (fld w 11 6) (fld w 5 6) (fld w 1 4))
  else .ok (si (fld w 17 6) (fld w 11 6) (fld w 0 11))

/-- Layout SR alone (R297): an I bit of 1 is refused. -/
def decodeReg (w : Nat) (sr : BitVec 6 → BitVec 6 → BitVec 6 → BitVec 4 → Instr) : Decoded :=
  need (zeroAt w 23 1 && zeroAt w 0 1) (sr (fld w 17 6) (fld w 11 6) (fld w 5 6) (fld w 1 4))

/-- The S32 map of R298 over the layouts of R297. -/
def decodeS (w : Nat) : Decoded :=
  match w / 2 ^ 24 with
  | 0x00 => need (zeroAt w 0 24) .nopS
  | 0x01 => decodeArith w .addSr .addSi
  | 0x02 => decodeArith w .subSr .subSi
  | 0x03 => decodeArith w .mulSr .mulSi
  | 0x04 => decodeReg w .mulh
  | 0x05 => decodeReg w .div
  | 0x06 => decodeReg w .rem
  | 0x07 => decodeArith w .andSr .andSi
  | 0x08 => decodeArith w .orSr .orSi
  | 0x09 => decodeArith w .xorSr .xorSi
  | 0x0A => decodeArith w .andnSr .andnSi
  | 0x0B => decodeArith w .shlSr .shlSi
  | 0x0C => decodeArith w .shrSr .shrSi
  | 0x0D => decodeArith w .sraSr .sraSi
  | 0x0E => need (zeroAt w 23 1 && zeroAt w 5 6 && zeroAt w 0 1) (.clz (fld w 17 6) (fld w 11 6) (fld w 1 4))
  | 0x0F => need (zeroAt w 23 1 && zeroAt w 5 6 && zeroAt w 0 1) (.popc (fld w 17 6) (fld w 11 6) (fld w 1 4))
  | 0x10 => decodeArith w .minSr .minSi
  | 0x11 => decodeArith w .maxSr .maxSi
  | 0x12 => if zeroAt w 23 1 then
              need (zeroAt w 4 1 && decide ((fld w 0 4).toNat < 10))
                (.cmpSc (fld w 17 6) (fld w 11 6) (fld w 5 6) (fld w 0 4))
            else need (decide ((fld w 7 4).toNat < 10)) (.cmpSci (fld w 17 6) (fld w 11 6) (fld w 7 4) (fld w 0 7))
  | 0x13 => need (zeroAt w 23 1) (.sel (fld w 17 6) (fld w 11 6) (fld w 5 6) (fld w 0 5))
  | 0x14 => if zeroAt w 23 1 then
              need (zeroAt w 3 8 && decide ((fld w 0 3).toNat < 7) && (zeroAt w 0 3 || zeroAt w 11 6))
                (.movSm (fld w 17 6) (fld w 11 6) (fld w 0 3))
            else .ok (.movSwi (fld w 17 6) (fld w 0 17))
  | 0x15 => need (!zeroAt w 23 1 && zeroAt w 16 1) (.movh (fld w 17 6) (fld w 0 16))
  | 0x16 => need (!zeroAt w 23 1 && decide ((fld w 5 6).toNat + (fld w 0 5).toNat < 64))
              (.ext (fld w 17 6) (fld w 11 6) (fld w 5 6) (fld w 0 5))
  | 0x17 => need (!zeroAt w 23 1 && decide ((fld w 5 6).toNat + (fld w 0 5).toNat < 64))
              (.ins (fld w 17 6) (fld w 11 6) (fld w 5 6) (fld w 0 5))
  | 0x20 => need (zeroAt w 23 1 && zeroAt w 0 1 && !(fld w 8 1 == 1 && fld w 9 2 == 3))
              (.ld (fld w 17 6) (fld w 11 6) (fld w 9 2) (fld w 8 1) (fld w 5 3) (fld w 2 3) (fld w 1 1))
  | 0x21 => need (zeroAt w 23 1 && zeroAt w 0 1 && zeroAt w 8 1)
              (.st (fld w 17 6) (fld w 11 6) (fld w 9 2) (fld w 5 3) (fld w 2 3) (fld w 1 1))
  | 0x22 => need (zeroAt w 23 1 && decide ((fld w 7 4).toNat < 9))
              (.amo (fld w 17 6) (fld w 11 6) (fld w 7 4) (fld w 6 1) (fld w 3 3) (fld w 0 3))
  | 0x23 => need (zeroAt w 23 1 && zeroAt w 0 1 && zeroAt w 17 1)
              (.cas (fld w 17 6) (fld w 11 6) (fld w 10 1) (fld w 7 3) (fld w 4 3) (fld w 1 3))
  | 0x24 => need (zeroAt w 23 1 && zeroAt w 0 11) (.tagl (fld w 17 6) (fld w 11 6))
  | 0x25 => need (zeroAt w 17 7 && zeroAt w 0 5) (.tags (fld w 11 6) (fld w 5 6))
  | 0x26 => need (zeroAt w 17 7 && zeroAt w 0 11) (.tagi (fld w 11 6))
  | 0x30 => need (zeroAt w 23 1 && zeroAt w 11 6) (.mfsr (fld w 17 6) (fld w 0 11))
  | 0x31 => need (zeroAt w 17 7) (.mtsr (fld w 11 6) (fld w 0 11))
  | 0x32 => need (zeroAt w 23 1 && zeroAt w 0 11) (.qpoll (fld w 17 6) (fld w 11 6))
  | 0x33 => need (zeroAt w 17 7 && zeroAt w 0 5 && zeroAt w 5 2) (.sigw (fld w 11 6) (fld w 5 6))
  | _ => .bad .encoding

/-- The G32 map of R305. -/
def decodeCfg (w : Nat) : Decoded :=
  match w / 2 ^ 24 with
  | 0x00 => need (zeroAt w 0 24) .nopCfg
  | 0x01 => if zeroAt w 23 1 then need (zeroAt w 0 17) (.sfmtReg (fld w 17 6))
            else need (zeroAt w 0 16 && sfmtFieldOk (fld w 20 3) (fld w 16 4)) (.sfmtField (fld w 20 3) (fld w 16 4))
  | 0x02 => need (zeroAt w 23 1 && zeroAt w 2 15) (.sscl (fld w 17 6) (fld w 0 2))
  | 0x03 => need (zeroAt w 23 1 && zeroAt w 0 11) (.sunf (fld w 17 6) (fld w 11 6))
  | 0x04 => if zeroAt w 23 1 then need (zeroAt w 0 17) (.sswzReg (fld w 17 6))
            else need (zeroAt w 13 10) (.sswzImm (fld w 0 13))
  | 0x05 => if zeroAt w 16 1 then need (!zeroAt w 23 1 && zeroAt w 17 6 && zeroAt w 4 12) (.sapxKnob (fld w 0 4))
            else need (!zeroAt w 23 1 && zeroAt w 17 6 && zeroAt w 14 2)
              (.sapxExplicit (fld w 11 3) (fld w 8 3) (fld w 0 8))
  | 0x06 => need (!zeroAt w 23 1 && zeroAt w 6 17) (.sbind (fld w 2 4) (fld w 0 2))
  | 0x07 => need (!zeroAt w 23 1 && zeroAt w 8 15 && !(fld w 0 2 == 3)) (.sskew (fld w 2 6) (fld w 0 2))
  | 0x08 => need (!zeroAt w 23 1 && zeroAt w 12 11) (.sslk (fld w 8 4) (fld w 4 4) (fld w 0 4))
  | _ => .bad .encoding

/-- The fields of layout VA (R299). -/
def fldVA (w : Nat) : FieldsVA :=
  ⟨fld w 30 6, fld w 24 6, fld w 18 6, fld w 12 6, fld w 10 2, fld w 7 3, fld w 6 1, fld w 2 4, fld w 1 1, fld w 0 1⟩

/-- The fields of layout VM (R299, R301). -/
def fldVM (w : Nat) : FieldsVM :=
  ⟨fld w 30 6, fld w 27 3, fld w 25 2, fld w 24 1, fld w 23 1, fld w 17 6, fld w 6 11, fld w 0 6, fldTokens w⟩

/-- The fields of layout VG (R299, R301). -/
def fldVG (w : Nat) : FieldsVG :=
  ⟨fld w 30 6, fld w 27 3, fld w 25 2, fld w 24 1, fld w 23 1, fld w 17 6, fld w 11 6, fldTokens w⟩

/-- The checks of R300 on a VA payload, in the order that entry gives its chaining rule precedence. -/
def decodeVA (w : Nat) (op : VAOp) (mk : FieldsVA → Instr) : Decoded :=
  let f := fldVA w
  if !vaChainFieldOk op f then .bad .chain
  else if !(zeroAt w 36 20 && vaFieldsOk op f) then .bad .encoding
  else if !vaDistanceOk f then .bad .chain
  else .ok (mk f)

/-- Layout VM with its checks (R301). -/
def decodeVM (w : Nat) (store : Bool) (mk : FieldsVM → Instr) : Decoded :=
  need (laneWidthOk (fldVM w).w (fldVM w).x store) (mk (fldVM w))

/-- Layout VG with its checks (R301). -/
def decodeVG (w : Nat) (store : Bool) (mk : FieldsVG → Instr) : Decoded :=
  need (zeroAt w 0 11 && laneWidthOk (fldVG w).w (fldVG w).x store) (mk (fldVG w))

/-- The V64 map of R302. -/
def decodeVec (w : Nat) : Decoded :=
  match w / 2 ^ 56 with
  | 0x00 => need (zeroAt w 0 56) .nopVec
  | 0x01 => decodeVA w .vadd .vadd
  | 0x02 => decodeVA w .vsub .vsub
  | 0x03 => decodeVA w .vmul .vmul
  | 0x04 => decodeVA w .vfma .vfma
  | 0x05 => decodeVA w .vdiv .vdiv
  | 0x06 => decodeVA w .vsqrt .vsqrt
  | 0x07 => decodeVA w .vrsq .vrsq
  | 0x08 => decodeVA w .vexp .vexp
  | 0x09 => decodeVA w .vmin .vmin
  | 0x0A => decodeVA w .vmax .vmax
  | 0x0B => decodeVA w .vabs .vabs
  | 0x0C => decodeVA w .vneg .vneg
  | 0x0D => decodeVA w .vcmp .vcmp
  | 0x0E => decodeVA w .vthr .vthr
  | 0x0F => decodeVA w .vsel .vsel
  | 0x10 => decodeVA w .vand .vand
  | 0x11 => decodeVA w .vor .vor
  | 0x12 => decodeVA w .vxor .vxor
  | 0x13 => decodeVA w .vshl .vshl
  | 0x14 => decodeVA w .vshr .vshr
  | 0x15 => decodeVA w .vcvt .vcvt
  | 0x16 => decodeVA w .vqnt .vqnt
  | 0x17 => decodeVA w .vamax .vamax
  | 0x18 => decodeVA w .vred .vred
  | 0x19 => decodeVA w .vmov .vmov
  | 0x1A => decodeVA w .vbcst .vbcst
  | 0x1B => decodeVA w .vperm .vperm
  | 0x1C => decodeVA w .vidx .vidx
  | 0x20 => decodeVM w false .vld
  | 0x21 => decodeVM w true .vst
  | 0x22 => decodeVG w false .vgth
  | 0x23 => decodeVG w true .vsct
  | _ => .bad .encoding

/-- The fields of layout MX (R303). -/
def fldMX (w : Nat) : FieldsMX := ⟨fld w 34 2, fld w 28 6, fld w 22 6, fld w 6 16, fld w 0 6, fldTokens w⟩

/-- The fields of layout MT (R303). -/
def fldMT (w : Nat) : FieldsMT := ⟨fld w 34 2, fld w 30 4, fld w 6 16, fld w 0 6, fldTokens w⟩

/-- The fields of layout MR (R303). -/
def fldMR (w : Nat) : FieldsMR := ⟨fld w 34 2, fld w 28 6, fld w 22 6, fld w 15 7, fld w 11 4, fldTokens w⟩

/-- The M64 map of R303. -/
def decodeMat (w : Nat) : Decoded :=
  match w / 2 ^ 56 with
  | 0x00 => need (zeroAt w 0 56) .nopMat
  | 0x01 => .ok (.mma (fldMX w))
  | 0x02 => .ok (.mmas (fldMX w))
  | 0x03 => need (zeroAt w 0 34) (.mzero (fld w 34 2) (fldTokens w))
  | 0x04 => need (zeroAt w 22 12) (.mldacc (fldMT w))
  | 0x05 => need (zeroAt w 22 8) (.mstacc (fldMT w))
  | 0x06 => need (zeroAt w 0 11) (.mrdacc (fldMR w))
  | 0x07 => need (zeroAt w 0 34) (.mabort (fld w 34 2) (fldTokens w))
  | _ => .bad .encoding

/-- The X64 map of R304. -/
def decodeXfr (w : Nat) : Decoded :=
  match w / 2 ^ 56 with
  | 0x00 => need (zeroAt w 0 56) .nopXfr
  | 0x01 => need (zeroAt w 0 5) (.xstart (fld w 33 3) (fld w 27 6) (fld w 11 16) (fld w 5 6) (fldTokens w))
  | 0x02 => need (zeroAt w 0 27) (.xstep (fld w 33 3) (fld w 27 6) (fldTokens w))
  | 0x03 => need (zeroAt w 36 20 && zeroAt w 0 33) (.xkill (fld w 33 3))
  | 0x04 => need (zeroAt w 33 3 && zeroAt w 0 10) (.xgath (fld w 27 6) (fld w 10 17) (fldTokens w))
  | 0x05 => need (zeroAt w 33 3 && zeroAt w 0 10) (.xcoll (fld w 27 6) (fld w 10 17) (fldTokens w))
  | 0x06 => need (zeroAt w 33 23 && zeroAt w 0 27) (.xskew (fld w 27 6))
  | 0x07 => need (zeroAt w 33 23 && zeroAt w 0 3) (.rawait (fld w 27 6) (fld w 11 16) (fld w 3 8))
  | 0x08 => need (zeroAt w 27 29 && zeroAt w 0 3) (.rrel (fld w 11 16) (fld w 3 8))
  | 0x09 => need (zeroAt w 33 23 && zeroAt w 0 9) (.invr (fld w 27 6) (fld w 21 6) (fld w 15 6) (fld w 9 6))
  | _ => .bad .encoding

/-- Decoding a payload word of a format. -/
def decode (f : Format) (w : Nat) : Decoded :=
  match f with
  | .c32 => decodeCtl w
  | .s32 => decodeS w
  | .v64 => decodeVec w
  | .m64 => decodeMat w
  | .x64 => decodeXfr w
  | .g32 => decodeCfg w

/-! The encoder, from the same layouts: the format of an instruction and its payload word. -/

/-- The token fields in place (R295). -/
def encTokens (t : Tokens) : Nat :=
  t.tp.toNat * 2 ^ 51 + t.tc0.toNat * 2 ^ 46 + t.tc1.toNat * 2 ^ 41 + t.tc2.toNat * 2 ^ 36

/-- Layout SR with opcode `op` (R297). -/
def encSR (op : Nat) (d a b : BitVec 6) (t : BitVec 4) : Nat :=
  op * 2 ^ 24 + d.toNat * 2 ^ 17 + a.toNat * 2 ^ 11 + b.toNat * 2 ^ 5 + t.toNat * 2

/-- Layout SI with opcode `op` (R297). -/
def encSI (op : Nat) (d a : BitVec 6) (imm : BitVec 11) : Nat :=
  op * 2 ^ 24 + 2 ^ 23 + d.toNat * 2 ^ 17 + a.toNat * 2 ^ 11 + imm.toNat

/-- Layout VA with opcode `op` (R299). -/
def encVA (op : Nat) (f : FieldsVA) : Nat :=
  op * 2 ^ 56 + f.d.toNat * 2 ^ 30 + f.a.toNat * 2 ^ 24 + f.b.toNat * 2 ^ 18 + f.c.toNat * 2 ^ 12
    + f.chs.toNat * 2 ^ 10 + f.p.toNat * 2 ^ 7 + f.td.toNat * 2 ^ 6 + f.t.toNat * 2 ^ 2 + f.eph.toNat * 2 + f.cut.toNat

/-- Layout VM with opcode `op` (R299). -/
def encVM (op : Nat) (f : FieldsVM) : Nat :=
  op * 2 ^ 56 + encTokens f.tok + f.d.toNat * 2 ^ 30 + f.p.toNat * 2 ^ 27 + f.w.toNat * 2 ^ 25 + f.x.toNat * 2 ^ 24
    + f.g.toNat * 2 ^ 23 + f.a.toNat * 2 ^ 17 + f.ofs.toNat * 2 ^ 6 + f.str.toNat

/-- Layout VG with opcode `op` (R299). -/
def encVG (op : Nat) (f : FieldsVG) : Nat :=
  op * 2 ^ 56 + encTokens f.tok + f.d.toNat * 2 ^ 30 + f.p.toNat * 2 ^ 27 + f.w.toNat * 2 ^ 25 + f.x.toNat * 2 ^ 24
    + f.g.toNat * 2 ^ 23 + f.a.toNat * 2 ^ 17 + f.b.toNat * 2 ^ 11

/-- Layout MX with opcode `op` (R303). -/
def encMX (op : Nat) (f : FieldsMX) : Nat :=
  op * 2 ^ 56 + encTokens f.tok + f.tl.toNat * 2 ^ 34 + f.ks.toNat * 2 ^ 28 + f.o.toNat * 2 ^ 22 + f.bofs.toNat * 2 ^ 6
    + f.bstr.toNat

/-- Layout MT with opcode `op` (R303). -/
def encMT (op : Nat) (f : FieldsMT) : Nat :=
  op * 2 ^ 56 + encTokens f.tok + f.tl.toNat * 2 ^ 34 + f.f.toNat * 2 ^ 30 + f.ofs.toNat * 2 ^ 6 + f.str.toNat

/-- Layout MR with opcode `op` (R303). -/
def encMR (op : Nat) (f : FieldsMR) : Nat :=
  op * 2 ^ 56 + encTokens f.tok + f.tl.toNat * 2 ^ 34 + f.d.toNat * 2 ^ 28 + f.e.toNat * 2 ^ 22 + f.row.toNat * 2 ^ 15
    + f.f.toNat * 2 ^ 11

/-- The payload word of an instruction of format C32 (R296). -/
def encodeCtl : Instr → Option Nat
  | .nopCtl => some (0)
  | .br cnd c tgt => some (0x01 * 2 ^ 24 + cnd.toNat * 2 ^ 22 + c.toNat * 2 ^ 16 + tgt.toNat)
  | .bri cnd c b => some (0x02 * 2 ^ 24 + cnd.toNat * 2 ^ 22 + c.toNat * 2 ^ 16 + b.toNat * 2 ^ 10)
  | .call d tgt => some (0x03 * 2 ^ 24 + d.toNat * 2 ^ 16 + tgt.toNat)
  | .ret a => some (0x04 * 2 ^ 24 + a.toNat * 2 ^ 16)
  | .loopReg a e => some (0x05 * 2 ^ 24 + a.toNat * 2 ^ 16 + e.toNat)
  | .loopImm n e => some (0x05 * 2 ^ 24 + 2 ^ 23 + n.toNat * 2 ^ 16 + e.toNat)
  | .lbrk => some (0x06 * 2 ^ 24)
  | .halt => some (0x07 * 2 ^ 24)
  | .wait l s c t => some (0x08 * 2 ^ 24 + l.toNat * 2 ^ 20 + s.toNat * 2 ^ 16 + c.toNat * 2 ^ 12 + t.toNat * 2 ^ 8)
  | .waitpred => some (0x09 * 2 ^ 24)
  | .handoff => some (0x0A * 2 ^ 24)
  | .yield => some (0x0B * 2 ^ 24)
  | .trap code => some (0x0C * 2 ^ 24 + code.toNat)
  | .eret => some (0x0D * 2 ^ 24)
  | .drain ord scp => some (0x0E * 2 ^ 24 + ord.toNat * 2 ^ 21 + scp.toNat * 2 ^ 18)
  | .bar scp => some (0x0F * 2 ^ 24 + scp.toNat * 2 ^ 21)
  | .release a => some (0x10 * 2 ^ 24 + a.toNat * 2 ^ 16)
  | .ctxs a b => some (0x11 * 2 ^ 24 + a.toNat * 2 ^ 16 + b.toNat * 2 ^ 10)
  | .ctxr a b => some (0x12 * 2 ^ 24 + a.toNat * 2 ^ 16 + b.toNat * 2 ^ 10)
  | _ => none

/-- The payload word of an instruction of format S32 (R297, R298). -/
def encodeS : Instr → Option Nat
  | .nopS => some (0)
  | .addSr d a b t => some (encSR 0x01 d a b t)
  | .addSi d a imm => some (encSI 0x01 d a imm)
  | .subSr d a b t => some (encSR 0x02 d a b t)
  | .subSi d a imm => some (encSI 0x02 d a imm)
  | .mulSr d a b t => some (encSR 0x03 d a b t)
  | .mulSi d a imm => some (encSI 0x03 d a imm)
  | .andSr d a b t => some (encSR 0x07 d a b t)
  | .andSi d a imm => some (encSI 0x07 d a imm)
  | .orSr d a b t => some (encSR 0x08 d a b t)
  | .orSi d a imm => some (encSI 0x08 d a imm)
  | .xorSr d a b t => some (encSR 0x09 d a b t)
  | .xorSi d a imm => some (encSI 0x09 d a imm)
  | .andnSr d a b t => some (encSR 0x0A d a b t)
  | .andnSi d a imm => some (encSI 0x0A d a imm)
  | .shlSr d a b t => some (encSR 0x0B d a b t)
  | .shlSi d a imm => some (encSI 0x0B d a imm)
  | .shrSr d a b t => some (encSR 0x0C d a b t)
  | .shrSi d a imm => some (encSI 0x0C d a imm)
  | .sraSr d a b t => some (encSR 0x0D d a b t)
  | .sraSi d a imm => some (encSI 0x0D d a imm)
  | .minSr d a b t => some (encSR 0x10 d a b t)
  | .minSi d a imm => some (encSI 0x10 d a imm)
  | .maxSr d a b t => some (encSR 0x11 d a b t)
  | .maxSi d a imm => some (encSI 0x11 d a imm)
  | .mulh d a b t => some (encSR 0x04 d a b t)
  | .div d a b t => some (encSR 0x05 d a b t)
  | .rem d a b t => some (encSR 0x06 d a b t)
  | .clz d a t => some (encSR 0x0E d a 0 t)
  | .popc d a t => some (encSR 0x0F d a 0 t)
  | .cmpSc d a b cnd => some (0x12 * 2 ^ 24 + d.toNat * 2 ^ 17 + a.toNat * 2 ^ 11 + b.toNat * 2 ^ 5 + cnd.toNat)
  | .cmpSci d a cnd imm =>
      some (0x12 * 2 ^ 24 + 2 ^ 23 + d.toNat * 2 ^ 17 + a.toNat * 2 ^ 11 + cnd.toNat * 2 ^ 7 + imm.toNat)
  | .sel d a b c => some (0x13 * 2 ^ 24 + d.toNat * 2 ^ 17 + a.toNat * 2 ^ 11 + b.toNat * 2 ^ 5 + c.toNat)
  | .movSm d a k => some (0x14 * 2 ^ 24 + d.toNat * 2 ^ 17 + a.toNat * 2 ^ 11 + k.toNat)
  | .movSwi d imm => some (0x14 * 2 ^ 24 + 2 ^ 23 + d.toNat * 2 ^ 17 + imm.toNat)
  | .movh d imm => some (0x15 * 2 ^ 24 + 2 ^ 23 + d.toNat * 2 ^ 17 + imm.toNat)
  | .ext d a pos len =>
      some (0x16 * 2 ^ 24 + 2 ^ 23 + d.toNat * 2 ^ 17 + a.toNat * 2 ^ 11 + pos.toNat * 2 ^ 5 + len.toNat)
  | .ins d a pos len =>
      some (0x17 * 2 ^ 24 + 2 ^ 23 + d.toNat * 2 ^ 17 + a.toNat * 2 ^ 11 + pos.toNat * 2 ^ 5 + len.toNat)
  | .ld d a sz sx ord scp g =>
      some (0x20 * 2 ^ 24 + d.toNat * 2 ^ 17 + a.toNat * 2 ^ 11 + sz.toNat * 2 ^ 9 + sx.toNat * 2 ^ 8 + ord.toNat * 2 ^ 5 + scp.toNat * 2 ^ 2 + g.toNat * 2)
  | .st d a sz ord scp g =>
      some (0x21 * 2 ^ 24 + d.toNat * 2 ^ 17 + a.toNat * 2 ^ 11 + sz.toNat * 2 ^ 9 + ord.toNat * 2 ^ 5 + scp.toNat * 2 ^ 2 + g.toNat * 2)
  | .amo d a aop w ord scp =>
      some (0x22 * 2 ^ 24 + d.toNat * 2 ^ 17 + a.toNat * 2 ^ 11 + aop.toNat * 2 ^ 7 + w.toNat * 2 ^ 6 + ord.toNat * 2 ^ 3 + scp.toNat)
  | .cas d a w ords ordf scp =>
      some (0x23 * 2 ^ 24 + d.toNat * 2 ^ 17 + a.toNat * 2 ^ 11 + w.toNat * 2 ^ 10 + ords.toNat * 2 ^ 7 + ordf.toNat * 2 ^ 4 + scp.toNat * 2)
  | .tagl d a => some (0x24 * 2 ^ 24 + d.toNat * 2 ^ 17 + a.toNat * 2 ^ 11)
  | .tags a b => some (0x25 * 2 ^ 24 + a.toNat * 2 ^ 11 + b.toNat * 2 ^ 5)
  | .tagi a => some (0x26 * 2 ^ 24 + a.toNat * 2 ^ 11)
  | .mfsr d sys => some (0x30 * 2 ^ 24 + d.toNat * 2 ^ 17 + sys.toNat)
  | .mtsr a sys => some (0x31 * 2 ^ 24 + a.toNat * 2 ^ 11 + sys.toNat)
  | .qpoll d a => some (0x32 * 2 ^ 24 + d.toNat * 2 ^ 17 + a.toNat * 2 ^ 11)
  | .sigw a b => some (0x33 * 2 ^ 24 + a.toNat * 2 ^ 11 + b.toNat * 2 ^ 5)
  | _ => none

/-- The payload word of an instruction of format V64 (R299 to R302). -/
def encodeVec : Instr → Option Nat
  | .nopVec => some (0)
  | .vadd f => some (encVA 0x01 f)
  | .vsub f => some (encVA 0x02 f)
  | .vmul f => some (encVA 0x03 f)
  | .vfma f => some (encVA 0x04 f)
  | .vdiv f => some (encVA 0x05 f)
  | .vsqrt f => some (encVA 0x06 f)
  | .vrsq f => some (encVA 0x07 f)
  | .vexp f => some (encVA 0x08 f)
  | .vmin f => some (encVA 0x09 f)
  | .vmax f => some (encVA 0x0A f)
  | .vabs f => some (encVA 0x0B f)
  | .vneg f => some (encVA 0x0C f)
  | .vcmp f => some (encVA 0x0D f)
  | .vthr f => some (encVA 0x0E f)
  | .vsel f => some (encVA 0x0F f)
  | .vand f => some (encVA 0x10 f)
  | .vor f => some (encVA 0x11 f)
  | .vxor f => some (encVA 0x12 f)
  | .vshl f => some (encVA 0x13 f)
  | .vshr f => some (encVA 0x14 f)
  | .vcvt f => some (encVA 0x15 f)
  | .vqnt f => some (encVA 0x16 f)
  | .vamax f => some (encVA 0x17 f)
  | .vred f => some (encVA 0x18 f)
  | .vmov f => some (encVA 0x19 f)
  | .vbcst f => some (encVA 0x1A f)
  | .vperm f => some (encVA 0x1B f)
  | .vidx f => some (encVA 0x1C f)
  | .vld f => some (encVM 0x20 f)
  | .vst f => some (encVM 0x21 f)
  | .vgth f => some (encVG 0x22 f)
  | .vsct f => some (encVG 0x23 f)
  | _ => none

/-- The payload word of an instruction of format M64 (R303). -/
def encodeMat : Instr → Option Nat
  | .nopMat => some (0)
  | .mma f => some (encMX 1 f)
  | .mmas f => some (encMX 2 f)
  | .mzero tl tok => some (0x03 * 2 ^ 56 + encTokens tok + tl.toNat * 2 ^ 34)
  | .mldacc f => some (encMT 4 f)
  | .mstacc f => some (encMT 5 f)
  | .mrdacc f => some (encMR 6 f)
  | .mabort tl tok => some (0x07 * 2 ^ 56 + encTokens tok + tl.toNat * 2 ^ 34)
  | _ => none

/-- The payload word of an instruction of format X64 (R304). -/
def encodeXfr : Instr → Option Nat
  | .nopXfr => some (0)
  | .xstart xs dr rofs str tok =>
      some (0x01 * 2 ^ 56 + encTokens tok + xs.toNat * 2 ^ 33 + dr.toNat * 2 ^ 27 + rofs.toNat * 2 ^ 11 + str.toNat * 2 ^ 5)
  | .xstep xs n tok => some (0x02 * 2 ^ 56 + encTokens tok + xs.toNat * 2 ^ 33 + n.toNat * 2 ^ 27)
  | .xkill xs => some (0x03 * 2 ^ 56 + xs.toNat * 2 ^ 33)
  | .xgath dr gofs tok => some (0x04 * 2 ^ 56 + encTokens tok + dr.toNat * 2 ^ 27 + gofs.toNat * 2 ^ 10)
  | .xcoll dr gofs tok => some (0x05 * 2 ^ 56 + encTokens tok + dr.toNat * 2 ^ 27 + gofs.toNat * 2 ^ 10)
  | .xskew d => some (0x06 * 2 ^ 56 + d.toNat * 2 ^ 27)
  | .rawait d hofs j => some (0x07 * 2 ^ 56 + d.toNat * 2 ^ 27 + hofs.toNat * 2 ^ 11 + j.toNat * 2 ^ 3)
  | .rrel hofs n => some (0x08 * 2 ^ 56 + hofs.toNat * 2 ^ 11 + n.toNat * 2 ^ 3)
  | .invr d a v l => some (0x09 * 2 ^ 56 + d.toNat * 2 ^ 27 + a.toNat * 2 ^ 21 + v.toNat * 2 ^ 15 + l.toNat * 2 ^ 9)
  | _ => none

/-- The payload word of an instruction of format G32 (R305). -/
def encodeCfg : Instr → Option Nat
  | .nopCfg => some (0)
  | .sfmtReg a => some (0x01 * 2 ^ 24 + a.toNat * 2 ^ 17)
  | .sfmtField f v => some (0x01 * 2 ^ 24 + 2 ^ 23 + f.toNat * 2 ^ 20 + v.toNat * 2 ^ 16)
  | .sscl a grp => some (0x02 * 2 ^ 24 + a.toNat * 2 ^ 17 + grp.toNat)
  | .sunf a b => some (0x03 * 2 ^ 24 + a.toNat * 2 ^ 17 + b.toNat * 2 ^ 11)
  | .sswzReg a => some (0x04 * 2 ^ 24 + a.toNat * 2 ^ 17)
  | .sswzImm v => some (0x04 * 2 ^ 24 + 2 ^ 23 + v.toNat)
  | .sapxKnob qk => some (0x05 * 2 ^ 24 + 2 ^ 23 + qk.toNat)
  | .sapxExplicit ovs ndig theta =>
      some (0x05 * 2 ^ 24 + 2 ^ 23 + 2 ^ 16 + ovs.toNat * 2 ^ 11 + ndig.toNat * 2 ^ 8 + theta.toNat)
  | .sbind e sl => some (0x06 * 2 ^ 24 + 2 ^ 23 + e.toNat * 2 ^ 2 + sl.toNat)
  | .sskew k sl => some (0x07 * 2 ^ 24 + 2 ^ 23 + k.toNat * 2 ^ 2 + sl.toNat)
  | .sslk x m v => some (0x08 * 2 ^ 24 + 2 ^ 23 + x.toNat * 2 ^ 8 + m.toNat * 2 ^ 4 + v.toNat)
  | _ => none

/-- The payload word of an instruction in a format; the steps of the device have none. -/
def encode (f : Format) (i : Instr) : Option Nat :=
  match f with
  | .c32 => encodeCtl i
  | .s32 => encodeS i
  | .v64 => encodeVec i
  | .m64 => encodeMat i
  | .x64 => encodeXfr i
  | .g32 => encodeCfg i

/-- A scalar payload whose type field the instruction accepts at issue (R297); only used to choose among the maps that
one 32-bit word can belong to, in `decodeTableWord`. -/
def acceptedType : Instr → Bool
  | .addSr _ _ _ t => arithType t
  | .subSr _ _ _ t => arithType t
  | .mulSr _ _ _ t => arithType t
  | .minSr _ _ _ t => arithType t
  | .maxSr _ _ _ t => arithType t
  | .mulh _ _ _ t => arithType t
  | .div _ _ _ t => arithType t
  | .rem _ _ _ t => arithType t
  | .andSr _ _ _ t => logicType t
  | .orSr _ _ _ t => logicType t
  | .xorSr _ _ _ t => logicType t
  | .andnSr _ _ _ t => logicType t
  | .shlSr _ _ _ t => logicType t
  | .shrSr _ _ _ t => logicType t
  | .sraSr _ _ _ t => logicType t
  | .clz _ _ t => logicType t
  | .popc _ _ t => logicType t
  | _ => true

/-- The decoder at a word of the opcode table. A 32-bit word names no slot, and the maps of SA and SB, CTL and CFG share
codes: it is read as S32 where that map takes it with a type it accepts, else as C32, else as G32, else as S32. A 64-bit
word is read as V64, then M64, then X64 (NOTES.md says more). -/
def decodeTableWord (nbits w : Nat) : Option Instr :=
  if nbits == 32 then
    match decodeS w, decodeCtl w, decodeCfg w with
    | .ok i, .ok j, _ => some (if acceptedType i then i else j)
    | .ok i, .bad _, .ok k => some (if acceptedType i then i else k)
    | .ok i, .bad _, .bad _ => some i
    | .bad _, .ok j, _ => some j
    | .bad _, .bad _, k => k.instr?
  else if nbits == 64 then
    match decodeVec w, decodeMat w, decodeXfr w with
    | .ok i, _, _ => some i
    | .bad _, .ok j, _ => some j
    | .bad _, .bad _, k => k.instr?
  else none

end Sys2Proof
end

