-- ==== Sys2Proof/Machine/Map.lean ====
section
/-!
DEFINITION. Machine/Map.lean: sparse data by key in ONE canonical form: keys strictly rising, and no entry equal to what an
unlisted key reads as. Equal maps are then equal lists. Memory, register files and every indexed family of registers use it.
-/
namespace Sys2Proof.Machine

/-- Sparse data by key. -/
abbrev SMap (α : Type) := List (Nat × α)

/-- What a key reads as; `d` where it is not listed. -/
def mapGet {α : Type} (d : α) : SMap α → Nat → α
  | [], _ => d
  | (k', v) :: m, k => if k = k' then v else mapGet d m k

/-- The map with key `k` listed at `v`, in its place. -/
def mapPut {α : Type} : SMap α → Nat → α → SMap α
  | [], k, v => [(k, v)]
  | (k', v') :: m, k, v =>
    if k < k' then (k, v) :: (k', v') :: m else if k = k' then (k, v) :: m else (k', v') :: mapPut m k v

/-- The map with key `k` at `v`, in canonical form: writing the default removes the entry. -/
def mapSet {α : Type} [DecidableEq α] (d : α) (m : SMap α) (k : Nat) (v : α) : SMap α :=
  if v = d then m.filter (fun p => p.1 != k) else mapPut m k v

/-- The canonical form: keys strictly rising, no entry at the default. -/
def mapWf {α : Type} [DecidableEq α] (d : α) : SMap α → Bool
  | [] => true
  | [(_, v)] => decide (v ≠ d)
  | (k, v) :: (k', v') :: m => decide (v ≠ d) && decide (k < k') && mapWf d ((k', v') :: m)

/-- A map with several keys written in turn. -/
def mapSetAll {α : Type} [DecidableEq α] (d : α) (m : SMap α) (l : List (Nat × α)) : SMap α :=
  l.foldl (fun m p => mapSet d m p.1 p.2) m

/-- The value at `k` replaced by its image. -/
def mapModify {α : Type} [DecidableEq α] (d : α) (m : SMap α) (k : Nat) (f : α → α) : SMap α :=
  mapSet d m k (f (mapGet d m k))

/-- Every listed value replaced by its image; an image at the default is no longer listed. -/
def mapAll {α : Type} [DecidableEq α] (d : α) (m : SMap α) (f : Nat → α → α) : SMap α :=
  (m.map (fun p => (p.1, f p.1 p.2))).filter (fun p => decide (p.2 ≠ d))

end Sys2Proof.Machine
end

