-- ==== Sys2Proof/Machine/Flags.lean ====
section
/-!
DEFINITION. Machine/Flags.lean: the arithmetic status flags of VSTAT (R70) and what an operation's flags turn into.
-/
namespace Sys2Proof.Machine

/-- The flags of VSTAT 6:0 (R70): INV, DZ, OVF, UNF, INX, CUT, SCU from bit 0. -/
abbrev Flags := BitVec 7

/-- No flag. -/
def flagNone : Flags := 0x00
/-- An invalid operation (R70, bit 0). -/
def flagInv : Flags := 0x01
/-- A division by zero (R70, bit 1). -/
def flagDz : Flags := 0x02
/-- A rounded result overflowed (R70, bit 2). -/
def flagOvf : Flags := 0x04
/-- A result was tiny and inexact (R70, bit 3). -/
def flagUnf : Flags := 0x08
/-- A rounding was inexact (R70, bit 4). -/
def flagInx : Flags := 0x10
/-- At least one producer lane was cancelled (R70, bit 5). -/
def flagCut : Flags := 0x20
/-- VQNT clamped a sub-block exponent (R70, bit 6). -/
def flagScu : Flags := 0x40

/-- INV where the condition holds. -/
def invIf (c : Bool) : Flags := if c then flagInv else flagNone

/-- INX where the condition holds. -/
def inxIf (c : Bool) : Flags := if c then flagInx else flagNone

/-- The union of the flags of a list of results. -/
def unionFlags (l : List Flags) : Flags := l.foldl (· ||| ·) flagNone

/-- The trap enables of FMT as a flag mask: TE_INV to TE_INX in bits 24:20, TE_SCU in bit 25, and none for CUT (R89). -/
def trapMask (fmt : Word) : Flags :=
  (BitVec.ofNat 7 (fmt.toNat / 2 ^ 20 % 32)) ||| (if fmt.toNat / 2 ^ 25 % 2 == 1 then flagScu else flagNone)

/-- The detail of the AR stop that a set of enabled flags raises: the lowest of them in VSTAT's order (R70, R207). -/
def arDetail (fl : Flags) : Option (BitVec 8) :=
  if fl.getLsbD 0 then some 0x00
  else if fl.getLsbD 1 then some 0x01
  else if fl.getLsbD 2 then some 0x02
  else if fl.getLsbD 3 then some 0x03
  else if fl.getLsbD 4 then some 0x04
  else if fl.getLsbD 6 then some 0x05
  else none

end Sys2Proof.Machine
end

