-- ==== Sys2Proof/Machine/Numeric.lean ====
section
/-!
DEFINITION. Machine/Numeric.lean: exact values and the roundings of "Number formats and block scales" and
"Most-significant-digit-first arithmetic": Round (R79), AccRound (R68), Quantise (R86), the conversions of R85 and the
exact combinations of R66, R67 and R88. Every rounding is a function of the exact value and the mode (R65).
-/
namespace Sys2Proof.Machine

/-! ## Formats -/

/-- The width in bits of a format code (R74). -/
def formatWidth (t : Nat) : Nat :=
  match t with
  | 0 => 32 | 1 => 16 | 2 => 8 | 3 => 4 | 4 => 8 | 5 => 16 | 6 => 32 | 7 => 64
  | 8 => 8 | 9 => 16 | 10 => 32 | 11 => 64 | 12 => 8 | 13 => 16 | 14 => 32 | _ => 64

/-- FP32 or BF16 (R74). -/
def isFloat (t : Nat) : Bool := decide (t ≤ 1)
/-- BX8 or BX4 (R74). -/
def isBlock (t : Nat) : Bool := t == 2 || t == 3
/-- A two's complement format (R74). -/
def isSigned (t : Nat) : Bool := decide (4 ≤ t) && decide (t ≤ 7)
/-- An integer format of either kind (R74). -/
def isInteger (t : Nat) : Bool := decide (4 ≤ t) && decide (t ≤ 11)
/-- A raw-bit format (R74). -/
def isRaw (t : Nat) : Bool := decide (12 ≤ t)

/-- The low `w` bits of a natural. -/
def lowBits (w x : Nat) : Nat := x % 2 ^ w

/-- A `w`-bit pattern read as two's complement. -/
def signedOf (w x : Nat) : Int := if x % 2 ^ w < 2 ^ (w - 1) then (x % 2 ^ w : Nat) else (x % 2 ^ w : Nat) - (2 ^ w : Nat)

/-- The `w`-bit pattern of an integer. -/
def wrapInt (w : Nat) (x : Int) : Nat := (x % (2 ^ w : Nat)).toNat

/-- The value of a `w`-bit pattern in an integer format (R74). -/
def intValue (t x : Nat) : Int := if isSigned t then signedOf (formatWidth t) x else (lowBits (formatWidth t) x : Nat)

/-- A result of format `t` extended to `n` bits: by sign for two's complement, by zeros otherwise (R75). -/
def extendTo (n t x : Nat) : Nat := if isSigned t then wrapInt n (signedOf (formatWidth t) x) else lowBits (formatWidth t) x

/-! ## Rounding -/

/-- The rounding modes of FMT.RM (R89). -/
inductive Mode where
  | rne | rtz | rup | rdn
  deriving DecidableEq, Repr

/-- The mode of a code of FMT.RM. -/
def modeOf (n : Nat) : Mode :=
  match n with
  | 0 => .rne
  | 1 => .rtz
  | 2 => .rup
  | _ => .rdn

/-- The magnitude `num / den`, of the sign given, as a multiple of `2 ^ q` under a mode: the integer and whether it is
inexact (R79). -/
def roundTo (m : Mode) (neg : Bool) (num den : Nat) (q : Int) : Nat × Bool :=
  let n := num * 2 ^ (-q).toNat
  let d := den * 2 ^ q.toNat
  let f := n / d
  let r := n % d
  let up := match m with
    | .rne => decide (d < 2 * r) || (2 * r == d && f % 2 == 1)
    | .rtz => false
    | .rup => !neg && r != 0
    | .rdn => neg && r != 0
  (if up then f + 1 else f, r != 0)

/-- The integer `e` with `2 ^ e ≤ num / den < 2 ^ (e + 1)`, for nonzero arguments. -/
def log2Ratio (num den : Nat) : Int :=
  let e : Int := (num.log2 : Int) - (den.log2 : Int)
  if num * 2 ^ (-e).toNat < den * 2 ^ e.toNat then e - 1 else e

/-- `n * 2 ^ a` compared with `m * 2 ^ b`. -/
def scaledLt (n : Nat) (a : Int) (m : Nat) (b : Int) : Bool :=
  decide (n * 2 ^ (a - min a b).toNat < m * 2 ^ (b - min a b).toNat)

/-- A result pattern and its flags. -/
abbrev Result := Nat × Flags

/-- Precision of a float format, hidden bit included (R77). -/
def floatPrec (t : Nat) : Nat := if t == 0 then 24 else 8

/-- The sign bit of a float format in place. -/
def floatSign (t : Nat) (neg : Bool) : Nat := if neg then 2 ^ (formatWidth t - 1) else 0

/-- Infinity of a sign (R78). -/
def floatInf (t : Nat) (neg : Bool) : Nat := floatSign t neg + 255 * 2 ^ (floatPrec t - 1)

/-- The largest finite value of a sign (R77). -/
def floatMax (t : Nat) (neg : Bool) : Nat := floatInf t neg - 1

/-- The canonical quiet NaN (R78). -/
def floatNaN (t : Nat) : Nat := if t == 0 then 0x7FC00000 else 0x7FC0

/-- What an overflow gives in each mode (R79). -/
def floatOverflow (t : Nat) (m : Mode) (neg : Bool) : Nat :=
  match m, neg with
  | .rne, _ => floatInf t neg
  | .rtz, _ => floatMax t neg
  | .rup, true => floatMax t true
  | .rup, false => floatInf t false
  | .rdn, true => floatInf t true
  | .rdn, false => floatMax t false

/-- Round of R79: the nonzero exact value `± num / den` into FP32 or BF16. -/
def roundFloat (t : Nat) (m : Mode) (neg : Bool) (num den : Nat) : Result :=
  let p := floatPrec t
  let e := log2Ratio num den
  let q : Int := max e (-126) - (p - 1 : Nat)
  let (n, inexact) := roundTo m neg num den q
  if scaledLt (2 ^ p - 1) (127 - (p - 1 : Nat)) n q then
    (floatOverflow t m neg, flagOvf ||| flagInx)
  else
    let qu : Int := e - (p - 1 : Nat)
    let tiny := scaledLt (roundTo m neg num den qu).1 qu 1 (-126)
    let (n', q') := if n == 2 ^ p then (2 ^ (p - 1), q + 1) else (n, q)
    let bits := if n' < 2 ^ (p - 1) then n' else n' + ((q' + (p - 1 : Nat) + 127 - 1) * (2 ^ (p - 1) : Nat)).toNat
    (floatSign t neg + bits, (if tiny && inexact then flagUnf else flagNone) ||| inxIf inexact)

/-! ## Exact values -/

/-- A value: NaN, an infinity, or the exact `± m * 2 ^ e`, with a signed zero. -/
inductive Value where
  | nan (signalling : Bool)
  | inf (neg : Bool)
  | fin (neg : Bool) (m : Nat) (e : Int)
  deriving DecidableEq, Repr

/-- A float pattern as a value (R78). -/
def floatValue (t x : Nat) : Value :=
  let p := floatPrec t
  let f := x % 2 ^ (p - 1)
  let e : Nat := x / 2 ^ (p - 1) % 256
  let neg := x / 2 ^ (formatWidth t - 1) % 2 == 1
  if e == 255 then
    if f == 0 then .inf neg else .nan (f / 2 ^ (p - 2) == 0)
  else if e == 0 then .fin neg f (-126 - (p - 1 : Nat))
  else .fin neg (f + 2 ^ (p - 1)) ((e : Int) - 127 - (p - 1 : Nat))

/-- An exact dyadic number `m * 2 ^ e`. -/
structure Dyadic where
  m : Int
  e : Int
  deriving DecidableEq, Repr

/-- The number zero. -/
def dyadZero : Dyadic := ⟨0, 0⟩

/-- A signed magnitude as a number. -/
def dyadOf (neg : Bool) (m : Nat) (e : Int) : Dyadic := ⟨if neg then -(m : Int) else m, e⟩

/-- The exact sum. -/
def Dyadic.add (a b : Dyadic) : Dyadic :=
  let e := min a.e b.e
  ⟨a.m * (2 ^ (a.e - e).toNat : Nat) + b.m * (2 ^ (b.e - e).toNat : Nat), e⟩

/-- The exact product. -/
def Dyadic.mul (a b : Dyadic) : Dyadic := ⟨a.m * b.m, a.e + b.e⟩

/-- Numerator of the magnitude. -/
def Dyadic.num (a : Dyadic) : Nat := a.m.natAbs * 2 ^ a.e.toNat

/-- Denominator of the magnitude. -/
def Dyadic.den (a : Dyadic) : Nat := 2 ^ (-a.e).toNat

/-- `a < b`. -/
def Dyadic.lt (a b : Dyadic) : Bool :=
  let e := min a.e b.e
  decide (a.m * (2 ^ (a.e - e).toNat : Nat) < b.m * (2 ^ (b.e - e).toNat : Nat))

/-- An exact value as a float result: a nonzero value rounds under R79, a zero takes the sign given. -/
def roundDyadic (t : Nat) (m : Mode) (zeroNeg : Bool) (x : Dyadic) : Result :=
  if x.m == 0 then (floatSign t zeroNeg, flagNone) else roundFloat t m (decide (x.m < 0)) x.num x.den

/-- Sign of an exact zero sum of addends of opposite signs (R79). -/
def zeroSumNeg (m : Mode) : Bool := m == .rdn

/-- The value is a signalling NaN. -/
def Value.isSignalling : Value → Bool
  | .nan s => s
  | _ => false

/-- The value is a NaN. -/
def Value.isNaN : Value → Bool
  | .nan _ => true
  | _ => false

/-- The value is a zero. -/
def Value.isZero : Value → Bool
  | .fin _ m _ => m == 0
  | _ => false

/-- The value is an infinity. -/
def Value.isInf : Value → Bool
  | .inf _ => true
  | _ => false

/-- The sign of a value; a NaN reads positive. -/
def Value.neg : Value → Bool
  | .nan _ => false
  | .inf s => s
  | .fin s _ _ => s

/-- The same value with the sign inverted (used where R429 adds −b). -/
def Value.negate : Value → Value
  | .nan s => .nan s
  | .inf s => .inf (!s)
  | .fin s m e => .fin (!s) m e

/-- The number of a finite value; zero for the others. -/
def Value.dyad : Value → Dyadic
  | .fin s m e => dyadOf s m e
  | _ => dyadZero

/-- The canonical NaN with INV where a source signalled or the case is invalid (R401). -/
def nanResult (t : Nat) (inv : Bool) : Result := (floatNaN t, invIf inv)

/-- The sum of R401. -/
def addValues (t : Nat) (m : Mode) (a b : Value) : Result :=
  match a, b with
  | .nan s, b => nanResult t (s || b.isSignalling)
  | a, .nan s => nanResult t (s || a.isSignalling)
  | .inf s, .inf s' => if s == s' then (floatInf t s, flagNone) else nanResult t true
  | .inf s, .fin .. => (floatInf t s, flagNone)
  | .fin .., .inf s => (floatInf t s, flagNone)
  | .fin s x e, .fin s' x' e' =>
    roundDyadic t m (if s == s' then s else zeroSumNeg m) ((dyadOf s x e).add (dyadOf s' x' e'))

/-- The exact product of two values that are no invalid pair. -/
def mulExact (a b : Value) : Value :=
  match a, b with
  | .nan s, .nan s' => .nan (s || s')
  | .nan s, _ => .nan s
  | _, .nan s => .nan s
  | .inf s, b => .inf (s != b.neg)
  | a, .inf s => .inf (a.neg != s)
  | .fin s x e, .fin s' x' e' => .fin (s != s') (x * x') (e + e')

/-- 0 × ∞ in either order (R401). -/
def mulInvalid (a b : Value) : Bool := (a.isZero && b.isInf) || (a.isInf && b.isZero)

/-- The product of R401. -/
def mulValues (t : Nat) (m : Mode) (a b : Value) : Result :=
  if mulInvalid a b then nanResult t true
  else match mulExact a b with
    | .nan _ => nanResult t (a.isSignalling || b.isSignalling)
    | .inf s => (floatInf t s, flagNone)
    | .fin s x e => roundDyadic t m s (dyadOf s x e)

/-- a × b + c with one rounding (R412). -/
def fmaValues (t : Nat) (m : Mode) (a b c : Value) : Result :=
  if mulInvalid a b then nanResult t true
  else if a.isNaN || b.isNaN || c.isNaN then nanResult t (a.isSignalling || b.isSignalling || c.isSignalling)
  else addValues t m (mulExact a b) c

/-- The quotient of R401 and R410. -/
def divValues (t : Nat) (m : Mode) (a b : Value) : Result :=
  match a, b with
  | .nan s, b => nanResult t (s || b.isSignalling)
  | a, .nan s => nanResult t (s || a.isSignalling)
  | .inf _, .inf _ => nanResult t true
  | .inf s, .fin s' .. => (floatInf t (s != s'), flagNone)
  | .fin s .., .inf s' => (floatSign t (s != s'), flagNone)
  | .fin s x e, .fin s' x' e' =>
    if x' == 0 then (if x == 0 then nanResult t true else (floatInf t (s != s'), flagDz))
    else if x == 0 then (floatSign t (s != s'), flagNone)
    else roundFloat t m (s != s') (x * 2 ^ (e - e').toNat) (x' * 2 ^ (e' - e).toNat)

/-- The largest `r` below `2 ^ k` with `r * r ≤ n`, bit by bit from bit `k - 1`. -/
def isqrtFrom (n : Nat) : Nat → Nat → Nat
  | 0, r => r
  | k + 1, r => if (r + 2 ^ k) * (r + 2 ^ k) ≤ n then isqrtFrom n k (r + 2 ^ k) else isqrtFrom n k r

/-- The integer square root. -/
def isqrt (n : Nat) : Nat := isqrtFrom n (n.log2 / 2 + 1) 0

/-- Round(√(num / den)): the root is taken to 64 bits below the point of the operand scaled up by `2 ^ 128`, with a sticky
bit, which no rounding of at most 24 bits can tell from the exact root. -/
def rootRound (t : Nat) (m : Mode) (num den : Nat) : Result :=
  let k := 2 * (den.log2 + 64)
  let y := num * 2 ^ k / den
  let r := isqrt y
  let exact := r * r == y && num * 2 ^ k % den == 0
  roundFloat t m false (2 * r + (if exact then 0 else 1)) (2 ^ (den.log2 + 64) * 2)

/-- VSQRT of R426. -/
def sqrtValue (t : Nat) (m : Mode) (a : Value) : Result :=
  match a with
  | .nan s => nanResult t s
  | .inf s => if s then nanResult t true else (floatInf t false, flagNone)
  | .fin s x e =>
    if x == 0 then (floatSign t s, flagNone)
    else if s then nanResult t true
    else rootRound t m (x * 2 ^ e.toNat) (2 ^ (-e).toNat)

/-- VRSQ of R426. -/
def rsqrtValue (t : Nat) (m : Mode) (a : Value) : Result :=
  match a with
  | .nan s => nanResult t s
  | .inf s => if s then nanResult t true else (floatSign t false, flagNone)
  | .fin s x e =>
    if x == 0 then (floatInf t s, flagDz)
    else if s then nanResult t true
    else rootRound t m (2 ^ (-e).toNat) (x * 2 ^ e.toNat)

/-- Partial sum of the exponential series at `num / den` in units of `2 ^ -prec`, every term rounded down: `n` more terms
from term `i` on, after the last term and the sum so far. -/
def expSeries (num den : Nat) : Nat → Nat → Nat → Nat → Nat
  | 0, _, _, sum => sum
  | n + 1, i, term, sum => expSeries num den n (i + 1) (term * num / (den * i)) (sum + term * num / (den * i))

/-- `e ^ (num / den) * 2 ^ prec` from below, for an argument of at most 128, within 2 ^ 10 units: 512 terms. -/
def expLower (num den prec : Nat) : Nat := expSeries num den 512 1 (2 ^ prec) (2 ^ prec)

/-- VEXP of R411. An argument beyond 128 in magnitude overflows or is tiny whatever its value; for the others the value is
taken to 256 bits below the point with a sticky half unit, the exponential of a nonzero dyadic number being irrational
(DEDUCED, log 13). -/
def expValue (t : Nat) (m : Mode) (a : Value) : Result :=
  match a with
  | .nan s => nanResult t s
  | .inf s => if s then (floatSign t false, flagNone) else (floatInf t false, flagNone)
  | .fin s x e =>
    if x == 0 then (127 * 2 ^ (floatPrec t - 1), flagNone)
    else
      let num := x * 2 ^ e.toNat
      let den := 2 ^ (-e).toNat
      if 128 * den < num then
        if s then roundFloat t m false 1 (2 ^ 170) else roundFloat t m false (2 ^ 130) 1
      else
        let lo := expLower num den 256
        if s then roundFloat t m false (2 ^ 513 + 1) (2 * lo * 2 ^ 256) else roundFloat t m false (2 * lo + 1) (2 ^ 257)

/-- The greater of two magnitudes. -/
def maxMagnitude (a b : Dyadic) : Dyadic := if a.lt b then b else a

/-- VRED's exact sum of values, rounded once (R66). With a NaN addend, INV is set only for a signalling one, whatever infinities stand beside
it (log 67: DESIGN CHOICE). -/
def sumValues (t : Nat) (m : Mode) (l : List Value) : Result :=
  if l.any Value.isNaN then nanResult t (l.any Value.isSignalling)
  else if l.any (fun v => v.isInf && v.neg) && l.any (fun v => v.isInf && !v.neg) then nanResult t true
  else if l.any (fun v => v.isInf && v.neg) then (floatInf t true, flagNone)
  else if l.any Value.isInf then (floatInf t false, flagNone)
  else
    let x := l.foldl (fun acc v => acc.add v.dyad) dyadZero
    let zeroNeg := if l.all (fun v => v.isZero && !v.neg) then false
      else if l.all (fun v => v.isZero && v.neg) then true
      else zeroSumNeg m
    roundDyadic t m zeroNeg x

/-- Order of two values that are no NaN: `a < b` with −0 equal to +0 (R407). -/
def valueLt (a b : Value) : Bool :=
  match a, b with
  | .nan _, _ => false
  | _, .nan _ => false
  | .inf s, .inf s' => s && !s'
  | .inf s, _ => s
  | _, .inf s => !s
  | a, b => a.dyad.lt b.dyad

/-- Equality of two values, with −0 equal to +0 and no NaN equal to anything (R407). -/
def valueEq (a b : Value) : Bool := !a.isNaN && !b.isNaN && !valueLt a b && !valueLt b a

/-- `a < b` where −0 orders below +0 (R417). -/
def valueLtZero (a b : Value) : Bool := valueLt a b || (a.isZero && b.isZero && a.neg && !b.neg)

/-! ## Block formats -/

/-- Bias of the exponent codes, less the weight of the magnitude: 36 for BX8, 32 for BX4 (R82, R86). -/
def blockBias (t : Nat) : Int := if t == 2 then 36 else 32

/-- The largest magnitude (R82). -/
def blockMmax (t : Nat) : Nat := if t == 2 then 63 else 3

/-- Bits of an element's magnitude field. -/
def blockMagBits (t : Nat) : Nat := if t == 2 then 6 else 2

/-- E_lo of sub-block `b` in a group header (R81). -/
def headerLo (h b : Nat) : Nat := h / 2 ^ (8 + 12 * b) % 64

/-- E_hi of sub-block `b` in a group header (R81). -/
def headerHi (h b : Nat) : Nat := h / 2 ^ (14 + 12 * b) % 64

/-- An element before its block scale: `(−1)^s × m × 2^(E − bias')` (R82). -/
def blockElement (t h i code : Nat) : Value :=
  let mb := blockMagBits t
  let sel := code / 2 ^ (mb + 1) % 2
  let neg := code / 2 ^ mb % 2 == 1
  let e := if sel == 1 then headerHi h (i / 32) else headerLo h (i / 32)
  .fin neg (code % 2 ^ mb) ((e : Int) - blockBias t)

/-- A scale-table entry, a positive finite normal BF16, as a number (R84). -/
def scaleValue (x : Nat) : Dyadic := (floatValue 1 x).dyad

/-- A value times a positive scale, exactly. -/
def scaleBy (v : Value) (s : Dyadic) : Value :=
  match v with
  | .fin neg m e => .fin neg (m * s.m.natAbs) (e + s.e)
  | v => v

/-- A BF16 pattern that the scale table may hold: positive, finite and normal (R84). -/
def scaleOk (x : Nat) : Bool := decide (0x0080 ≤ x) && decide (x < 0x7F80)

/-- Entry `i` of a scale table given as its 16 patterns. -/
def scaleEntry (sc : List Nat) (i : Nat) : Nat := sc.getD i 0x3F80

/-- Quantise's exponents of one sub-block: `(elo, ehi, scu, over)` (R86). -/
def blockExponents (t : Nat) (scale : Dyadic) (gap : Nat) (xs : List Value) : Nat × Nat × Bool × Bool :=
  let amax := xs.foldl (fun a v => maxMagnitude a ⟨v.dyad.m.natAbs, v.dyad.e⟩) dyadZero
  if amax.m == 0 then (0, 0, false, false)
  else
    -- the least e with amax / S ≤ Mmax * 2 ^ (e − bias')
    let num := amax.num * scale.den
    let den := amax.den * scale.num * blockMmax t
    let l := log2Ratio num den
    let fits := num * 2 ^ (-l).toNat == den * 2 ^ l.toNat
    let e := (if fits then l else l + 1) + blockBias t
    let ehi := if e < 0 then 0 else if 63 < e then 63 else e.toNat
    (ehi - gap, ehi, decide (e < 0), decide (63 < e))

/-- Quantise's element: `(sel, sgn, mag)` as the stored code, with its flags (R86). -/
def blockEncode (t : Nat) (scale : Dyadic) (m : Mode) (elo ehi : Nat) (x : Value) : Nat × Flags :=
  let mb := blockMagBits t
  let mmax := blockMmax t
  let code (sel : Nat) (neg : Bool) (mag : Nat) : Nat := sel * 2 ^ (mb + 1) + (if neg then 2 ^ mb else 0) + mag
  match x with
  | .nan _ => (code 1 false mmax, flagInv)
  | .inf s => (code 1 s mmax, flagInv)
  | .fin s xm xe =>
    let num := xm * 2 ^ xe.toNat * scale.den
    let den := 2 ^ (-xe).toNat * scale.num
    let lo := roundTo m s num den ((elo : Int) - blockBias t)
    if lo.1 ≤ mmax then
      (code 0 s lo.1, inxIf lo.2 ||| (if lo.1 == 0 && xm != 0 then flagUnf else flagNone))
    else
      let hi := roundTo m s num den ((ehi : Int) - blockBias t)
      if mmax < hi.1 then (code 1 s mmax, flagOvf ||| flagInx)
      else (code 1 s hi.1, inxIf hi.2 ||| (if hi.1 == 0 && xm != 0 then flagUnf else flagNone))

/-- One sub-block of Quantise: its header field, its element codes and its flags (R86). -/
def quantiseBlock (t : Nat) (scale : Dyadic) (gap : Nat) (m : Mode) (xs : List Value) : Nat × List Nat × Flags :=
  let (elo, ehi, scu, clip) := blockExponents t scale gap xs
  let es := xs.map (blockEncode t scale m elo ehi)
  (elo + ehi * 64, es.map Prod.fst,
    unionFlags (es.map Prod.snd) ||| (if scu then flagScu else flagNone)
      ||| (if clip then flagOvf ||| flagInx else flagNone))

/-- Quantise of R86: the 64-bit header, the 128 element codes and the flags. -/
def quantise (t sidx gap : Nat) (sc : List Nat) (m : Mode) (xs : List Value) : Nat × List Nat × Flags :=
  let scale := scaleValue (scaleEntry sc sidx)
  let blk (b : Nat) := quantiseBlock t scale gap m ((xs.drop (32 * b)).take 32)
  let b0 := blk 0
  let b1 := blk 1
  let b2 := blk 2
  let b3 := blk 3
  (sidx + b0.1 * 2 ^ 8 + b1.1 * 2 ^ 20 + b2.1 * 2 ^ 32 + b3.1 * 2 ^ 44, b0.2.1 ++ b1.2.1 ++ b2.2.1 ++ b3.2.1,
    b0.2.2 ||| b1.2.2 ||| b2.2.2 ||| b3.2.2)

/-- Little-endian bytes of a natural. -/
def natBytes (x : Nat) : Nat → List Nat
  | 0 => []
  | n + 1 => (x % 256) :: natBytes (x / 256) n

/-- A natural from its little-endian bytes. -/
def bytesNat : List Nat → Nat
  | [] => 0
  | b :: bs => b + 256 * bytesNat bs

/-- Pairs of 4-bit codes as bytes, the even element low (R83). -/
def packNibbles : List Nat → List Nat
  | a :: b :: r => (a + 16 * b) :: packNibbles r
  | [a] => [a]
  | [] => []

/-- The memory image of a group: header, then elements (R83). -/
def groupBytes (t h : Nat) (codes : List Nat) : List Nat :=
  natBytes (h % 16 + h / 256 % 2 ^ 48 * 256) 8 ++ (if t == 2 then codes else packNibbles codes)

/-- Element `i` of a group image given by its byte function (R83). -/
def groupCode (t : Nat) (byte : Nat → Nat) (i : Nat) : Nat :=
  if t == 2 then byte (8 + i) else byte (8 + i / 2) / (if i % 2 == 0 then 1 else 16) % 16

/-! ## The ACC format -/

/-- A 5-bit digit code as its digit (R55). -/
def digitOf (x : Nat) : Int := if x % 32 < 16 then (x % 32 : Nat) else ((x % 32 : Nat) : Int) - 32

/-- Digit `k` (1 to 8) of an accumulator entry (R68). -/
def accDigit (x : AccEntry) (k : Nat) : Int := digitOf (x.toNat / 2 ^ (5 * (8 - k)))

/-- Some digit field holds 0b10000 (R56). -/
def accDigitIllegal (x : AccEntry) : Bool :=
  (List.range 8).any (fun k => x.toNat / 2 ^ (5 * k) % 32 == 16)

/-- The value of an accumulator entry (R68). -/
def accValue (x : AccEntry) : Value :=
  let e : Nat := x.toNat / 2 ^ 40 % 256
  let digs := x.toNat % 2 ^ 40
  if e == 255 then
    if digs == 2 ^ 35 then .inf false
    else if digs == 31 * 2 ^ 35 then .inf true
    else .nan false
  else
    let m : Int := (List.range 8).foldl (fun (acc : Int) k => acc * 16 + accDigit x (k + 1)) 0
    .fin (decide (m < 0)) m.natAbs (4 * ((e : Int) - 128) - 32)

/-- The entry of a sign, an exponent code and the eight digits of a magnitude below 16^8 (R68). -/
def accEntryOf (neg : Bool) (e mag : Nat) : AccEntry :=
  let dig (k : Nat) : Nat := mag / 16 ^ (8 - k) % 16
  let code (d : Nat) : Nat := if neg && d != 0 then 32 - d else d
  BitVec.ofNat 48 ((List.range 8).foldl (fun acc k => acc * 32 + code (dig (k + 1))) e)

/-- The canonical zero (R68). -/
def accZero : AccEntry := 0
/-- The NaN entry (R68). -/
def accNaN : AccEntry := BitVec.ofNat 48 (255 * 2 ^ 40)
/-- The infinities (R68). -/
def accInf (neg : Bool) : AccEntry := BitVec.ofNat 48 (255 * 2 ^ 40 + (if neg then 31 else 1) * 2 ^ 35)

/-- AccRound of R68. -/
def accRound (m : Mode) (x : Dyadic) : AccEntry × Flags :=
  if x.m == 0 then (accZero, flagNone)
  else
    let neg := decide (x.m < 0)
    -- 16 ^ (g − 1) ≤ |x| < 16 ^ g
    let g : Int := (log2Ratio x.num x.den).fdiv 4 + 1
    let e : Int := max (g + 128) 0
    let (n, inexact) := roundTo m neg x.num x.den (4 * (e - 136))
    let (n, e) := if n == 16 ^ 8 then (16 ^ 7, e + 1) else (n, e)
    if 254 < e then
      let big := accEntryOf neg 254 (16 ^ 8 - 1)
      let r := match m, neg with
        | .rne, _ => accInf neg
        | .rtz, _ => big
        | .rup, false => accInf false
        | .rup, true => big
        | .rdn, false => big
        | .rdn, true => accInf true
      (r, flagOvf ||| flagInx)
    else if n == 0 then (accZero, flagUnf ||| flagInx)
    else (accEntryOf neg e.toNat n, inxIf inexact ||| (if inexact && e == 0 then flagUnf else flagNone))

/-- The sum under way in one K-step: the exact part and the special parts met (R67, R68). -/
structure StepSum where
  x   : Dyadic
  pos : Bool
  neg : Bool
  nan : Bool
  inv : Bool
  deriving DecidableEq, Repr

/-- One more value in the sum. -/
def StepSum.addValue (s : StepSum) (v : Value) (inv : Bool) : StepSum :=
  let s := { s with inv := s.inv || inv }
  match v with
  | .nan _ => { s with nan := true }
  | .inf n => if n then { s with neg := true } else { s with pos := true }
  | .fin n m e => { s with x := s.x.add (dyadOf n m e) }

/-- One product in the sum; 0 × ∞ gives NaN and INV (R68). A signalling operand sets INV (R78). -/
def StepSum.addProduct (s : StepSum) (a b : Value) : StepSum :=
  if mulInvalid a b then s.addValue (.nan false) true
  else s.addValue (mulExact a b) (a.isSignalling || b.isSignalling)

/-- A K-step's entry: the sum rounded once (R67, R68). With a NaN operand, a pair of infinities in the same sum sets no INV (log 67: DESIGN
CHOICE). -/
def StepSum.result (s : StepSum) (m : Mode) : AccEntry × Flags :=
  if s.nan then (accNaN, invIf s.inv)
  else if s.pos && s.neg then (accNaN, flagInv)
  else if s.pos then (accInf false, invIf s.inv)
  else if s.neg then (accInf true, invIf s.inv)
  else
    let r := accRound m s.x
    (r.1, r.2 ||| invIf s.inv)

/-- One entry's K-step: its present value and the products of one row of A and one column of B (R67). -/
def kStepEntry (m : Mode) (entry : AccEntry) (products : List (Value × Value)) : AccEntry × Flags :=
  let s0 : StepSum := ⟨dyadZero, false, false, false, false⟩
  (products.foldl (fun s p => s.addProduct p.1 p.2) (s0.addValue (accValue entry) false)).result m

/-- Conversion of an entry to FP32 or BF16 (R69): zero gives +0. -/
def accToFloat (t : Nat) (m : Mode) (x : AccEntry) : Result :=
  match accValue x with
  | .nan _ => nanResult t false
  | .inf s => (floatInf t s, flagNone)
  | .fin s a e => roundDyadic t m false (dyadOf s a e)

/-! ## Conversions (R85) -/

/-- Bounds of an integer format. -/
def intBounds (t : Nat) : Int × Int :=
  let w := formatWidth t
  if isSigned t then (-(2 ^ (w - 1) : Nat), (2 ^ (w - 1) : Nat) - 1) else (0, (2 ^ w : Nat) - 1)

/-- An integer saturated to a format: the pattern, and INV where it did not fit (R85). -/
def saturate (t : Nat) (x : Int) : Result :=
  let b := intBounds t
  if x < b.1 then (wrapInt (formatWidth t) b.1, flagInv)
  else if b.2 < x then (wrapInt (formatWidth t) b.2, flagInv)
  else (wrapInt (formatWidth t) x, flagNone)

/-- A value to an integer format (R85). -/
def valueToInt (t : Nat) (m : Mode) (v : Value) : Result :=
  match v with
  | .nan _ => (0, flagInv)
  | .inf s => (wrapInt (formatWidth t) (if s then (intBounds t).1 else (intBounds t).2), flagInv)
  | .fin s a e =>
    let (n, inexact) := roundTo m s (a * 2 ^ e.toNat) (2 ^ (-e).toNat) 0
    let r := saturate t (if s then -(n : Int) else n)
    (r.1, if r.2 == flagInv then flagInv else inxIf inexact)

/-- A value to FP32 or BF16 (R85): a NaN gives the canonical one, INV where it signals. -/
def valueToFloat (t : Nat) (m : Mode) (v : Value) : Result :=
  match v with
  | .nan s => nanResult t s
  | .inf s => (floatInf t s, flagNone)
  | .fin s a e => roundDyadic t m s (dyadOf s a e)

/-- A value to a float or an integer format. -/
def convertValue (t : Nat) (m : Mode) (v : Value) : Result :=
  if isFloat t then valueToFloat t m v else valueToInt t m v

/-- VCVT of one lane pattern of a source format that is no block format (R85). -/
def convertLane (ts tt : Nat) (m : Mode) (x : Nat) : Result :=
  if isRaw ts || isRaw tt then (lowBits (formatWidth tt) (lowBits (formatWidth ts) x), flagNone)
  else if isFloat ts then convertValue tt m (floatValue ts (lowBits (formatWidth ts) x))
  else if isFloat tt then
    let v := intValue ts x
    roundDyadic tt m false ⟨v, 0⟩
  else saturate tt (intValue ts x)

/-! ## Digit truncation (R269) and the zero threshold (R268) -/

/-- Digit length of a format (R57). -/
def digitLength (t : Nat) : Nat :=
  match t with
  | 0 => 6
  | 1 => 2
  | 2 => 2
  | _ => 1

/-- T(b, n) of R269. -/
def truncateDigits (ndig : Nat) (v : Value) : Value :=
  if ndig == 0 || decide (5 < ndig) then v
  else match v with
    | .fin s m e =>
      if m == 0 then v
      else
        -- least G with |b| < 2 ^ G, so the kept multiple is 2 ^ (G − 4n)
        let drop := m.log2 + 1 - 4 * ndig
        .fin s (m / 2 ^ drop * 2 ^ drop) e
    | v => v

/-- Digits that one product's multiplier loses (R269). -/
def truncatedDigits (ndig t : Nat) : Nat :=
  if ndig == 0 || decide (5 < ndig) then 0 else digitLength t - ndig

/-- The zero threshold of R268 takes the value as zero: it is finite and its magnitude lies below θ. -/
def belowTheta (theta : Nat) (v : Value) : Bool :=
  theta != 0 && match v with
    | .fin _ m e => scaledLt m e 1 ((theta : Int) - 128)
    | _ => false

end Sys2Proof.Machine
end

