-- ==== Sys2Proof/Machine/State.lean ====
section
/-!
DEFINITION. Machine/State.lean: the state of an L9 module as plain data, everything the spec gives the machine, and the
state after reset. Cells are the cores 0 to 1,023 by CID (R12, R15), stokers the cores 1,024 to 1,029 (R19, R177).
Sparse maps are in the canonical form of Machine/Map.lean.
-/
namespace Sys2Proof.Machine

/-! ## Cells -/

/-- What a core is doing (SEQSTAT.STATE of R31, and CSTAT.STATE of R179 while no team holds the cell). -/
inductive RunState where
  | free | run | wait | hold | donor | halted | stopped
  deriving DecidableEq, Repr

/-- An entry of the loop stack (R29). -/
structure LoopEntry where
  index : Nat
  count : Nat
  start : Nat
  stop  : Nat
  deriving DecidableEq, Repr

/-- A sticky latch (R34, R455): the operation, with its current first address field, k0 and row0. -/
structure Latch where
  op   : Option Instr
  addr : Nat
  k0   : Nat
  row0 : Nat
  deriving DecidableEq, Repr

/-- The idle latch: NOP. -/
def Latch.nop : Latch := ⟨none, 0, 0, 0⟩

/-- What an operation captures at issue (R91, R217): FMT, the scale table, SWZST, UNF0 and UNF1. -/
structure Capture where
  fmt  : Word
  sc0  : Word
  sc1  : Word
  sc2  : Word
  sc3  : Word
  swz  : Word
  unf0 : Word
  unf1 : Word
  deriving DecidableEq, Repr

/-- A fault record (R209). -/
structure FaultRec where
  cls    : Nat
  detail : Nat
  async  : Bool
  bound  : Bool
  hnest  : Bool
  vav    : Bool
  kv     : Bool
  xv     : Bool
  lid    : Nat
  ecid   : Nat
  pc     : Nat
  rpt    : Nat
  ipc    : Nat
  slot   : Nat
  opc    : Nat
  xslot  : Nat
  move   : Nat
  kstep  : Nat
  addr   : Nat
  time   : Nat
  info   : Nat
  scyc   : Nat
  more   : Nat
  deriving DecidableEq, Repr

/-- A cause of a stop that waits for its bundle boundary, with what it brings to the record (R204, R214). -/
structure Cause where
  seq    : Nat
  cls    : Nat
  detail : Nat
  async  : Bool
  bound  : Bool
  ecid   : Nat
  ipc    : Nat
  slot   : Nat
  opc    : Nat
  xv     : Bool
  xslot  : Nat
  move   : Nat
  kv     : Bool
  kstep  : Nat
  vav    : Bool
  addr   : Nat
  info   : Nat
  deriving DecidableEq, Repr

/-- The destination of a result in flight (DCLS and DIDX of R72). -/
inductive Dest where
  | none
  | scalar (r : Nat)
  | vector (r : Nat)
  | pred (r : Nat)
  | vecScalar (v r : Nat)
  deriving DecidableEq, Repr

/-- The outstanding-operation counters (R46). -/
inductive Counter where
  | none | ld | st | cp | tl
  deriving DecidableEq, Repr

/-- One lane of a vector result in flight: value, active, flags, cancelled, decided, not below (R72, R453). -/
structure LaneRes where
  val : Lane
  act : Bool
  fl  : Flags
  cut : Bool
  dec : Bool
  side : Bool
  last : Bool              -- decided only by the last digit (R63)
  out : Bool               -- written, or cancelled for good
  mark : Bool              -- a `.cut` consumer decides it, or one further down its chain (R62, R64)
  at_ : Nat                -- the digit after whose reading that consumer decides it (R63)
  len : Nat                -- digits that it forms at most: those formed as it was decided to be cancelled (R63)
  num : Dyadic             -- what its digits stand for (R55, R452)
  exp : Nat                -- its stream exponent, biased by 256 (R452)
  whole : Bool             -- a special lane of R452: digits of zero, decided only at the guard digit
  pre : List Int           -- its first digits, where an image brought them (R72, R73)
  deriving DecidableEq, Repr

/-- A result in flight, one entry of the snapshot buffer (R71, R72). -/
structure Flight where
  seq    : Nat          -- issue order
  slot   : Nat          -- slot number of R209
  op     : Instr
  ipc    : Nat
  eng    : Nat          -- core whose vector, predicate and tile registers it writes
  kind   : Nat          -- KIND of R72
  dest   : Dest
  rem    : Nat          -- REMLAT: schedule cycles until the write
  open_  : Bool         -- no fixed REMLAT: a device step completes it
  free   : Bool         -- completed by the device: it lands in frozen cycles too
  skewl  : Nat          -- SKEWL: cycles after the write before effects reach the issuing cell
  landed : Bool         -- written, effects in the issuing cell still to come
  sval   : Word         -- scalar result
  lanes  : List LaneRes -- vector result
  flags  : Flags        -- flags of the whole operation
  fmt    : Word         -- captured FMT
  tok    : Nat          -- token produced
  cnt    : Counter
  sb     : Bool         -- scoreboarded destination (R47)
  chain  : Option Nat   -- issue number of the chained producer
  icyc   : Nat          -- schedule cycle of its issue
  start  : Nat          -- schedule cycle of its start
  eph    : Bool
  cutc   : Bool
  heldw  : Bool         -- past its write cycle, with lanes undecided (R453)
  parts  : Nat          -- accesses still to complete for it
  fault  : Option Cause
  ran    : Bool         -- of a transfer that ran on past a stop: it counts among no results (R71, R135)
  deriving DecidableEq, Repr

/-- An operation waiting in an elastic buffer (R36, R206, R217). -/
structure Waiting where
  seq   : Nat
  slot  : Nat
  op    : Instr
  ipc   : Nat
  eng   : Nat
  cap   : Capture
  x0    : Nat           -- the scalar operands of R455
  x1    : Nat
  x2    : Nat
  due   : Nat           -- schedule cycles until its scheduled start
  late  : Nat           -- lateness
  slack : Nat           -- slack in force at its issue
  skew  : Nat
  way   : Nat              -- cycles until it reaches its engine (R43)
  bun   : Nat              -- its bundle, as the last number given before that issued
  toks  : List (Nat × Nat) -- producers that it waits on: token and issue number (R123)
  chain : Option Nat
  chdist : Nat          -- chain distance
  given : List LaneRes  -- the producer's lanes, once the producer has been written
  icyc  : Nat           -- schedule cycle of its issue
  arr   : Nat           -- cycle of the cell clock in which it arrives at its engine (R43, R382)
  stall : Option Nat    -- extra cycles of bank rows still to pass, once counted (R414)
  held  : Bool          -- waits for the end of the user handler (R211)
  deriving DecidableEq, Repr

/-- A shadowed write that has not taken effect (R90, R217): target code of R217, cycles left, value. -/
structure Shadowed where
  target : Nat
  left   : Nat
  val    : Word
  deriving DecidableEq, Repr

/-- A producer of a token that has not completed: token, issue number (R123). -/
structure Producer where
  tok : Nat
  seq : Nat
  deriving DecidableEq, Repr

/-- The waits of a bundle (R45): that of its CTL slot and that of its XFR slot, each with what it names. -/
structure Waits where
  op   : Option Instr
  arg  : Nat
  ring : Option Instr
  ringArg : Nat
  deriving DecidableEq, Repr

/-- No wait. -/
def Waits.none : Waits := ⟨.none, 0, .none, 0⟩

/-- A user handler's state and the registers of R210. -/
structure Handler where
  hvec   : Word
  epc    : Word
  frec   : SMap Word
  shadow : SMap Latch
  held   : List Flight
  waits  : Waits           -- the waits that the stop interrupted, with their code
  wk     : Nat
  cyc    : Nat             -- schedule cycle of the boundary at which the program stopped, and its last bundle with IB = 1 (R212)
  lastIb : Nat
  pend   : List Shadowed   -- the program's shadowed writes that have not taken effect (R90)
  leaving : Bool           -- ERET has issued: what was held goes on from the next cycle (R212)
  since  : Nat             -- last number given before the entry: what the program issued
  popReq : Bool            -- the program's LBRK and SBIND whose bundle has not ended (R343, R382), and its faults on their way (R43)
  bindReq : Option (Nat × Nat)
  soon   : List (Nat × Cause)
  deriving DecidableEq, Repr

/-- One record of the layout-record cache (R396): index, words 2 and 3. -/
structure CachedRecord where
  index : Nat
  w2    : Word
  w3    : Word
  valid : Bool
  deriving DecidableEq, Repr

/-- A core: the registers and the sequencer of a cell or a stoker. -/
structure Core where
  -- register files (R16, R294)
  s       : SMap Word
  v       : SMap Lane          -- key 128 * register + lane
  p       : SMap Pred
  a       : SMap AccEntry      -- key 16384 * tile + 128 * row + column
  -- sequencer (R29, R31, R34, R35)
  pc      : Nat
  st      : RunState
  waitk   : Nat
  loops   : List LoopEntry     -- top first
  rptLeft : Nat                -- executions of the bundle at pc still to come once it has begun; 0 before its first
  latches : SMap Latch         -- key: slot number 1 to 5
  waits   : Waits              -- the present waits (R434, R373, R320)
  popReq  : Bool               -- LBRK whose bundle has not ended (R343)
  -- engines' schedule (R36 to R43)
  slack   : Word
  skew    : Word
  bind    : Word
  bindReq : Option (Nat × Nat) -- SBIND whose bundle has not ended: entry, slot (R382)
  flights : List Flight        -- oldest first
  queue   : List Waiting       -- elastic buffers, issue order
  skewOut : SMap Nat           -- last start by slot, as the schedule cycle (R388)
  cyc     : Nat                -- schedule cycles since release (R209, SCYC)
  rcyc    : Nat                -- cycles since release; 0 until the first execution or cycle of a wait (R376)
  holdCyc : Nat                -- cycles of the present unbroken hold or wait
  waitCyc : Nat                -- cycles of the present wait (R49)
  lastIb  : Nat                -- 1 plus the schedule cycle of the last bundle with IB = 1 (R59); 0 none
  banks   : List Nat           -- scratchpad banks in use in the present cycle (R94)
  outcnt  : SMap Nat           -- key 0 LD, 1 ST, 2 CP, 3 TL (R46)
  -- tokens (R123, R124)
  prods   : List Producer      -- outstanding producers
  failed  : List Nat           -- producers that failed, as 32 × issue number + token
  tokerr  : Word
  -- team (R40, R49, R51)
  team    : Word
  lidq    : Word
  predst  : Word
  wswap   : Word
  ctxasid : Word
  spcap   : Nat                -- bytes of scratchpad, or of stoker local memory
  celltemp : Word
  -- arithmetic (R70, R84, R89, R264, R268)
  fmt     : Word
  vstat   : Word
  sctab   : SMap Word
  swz     : Word
  unf0    : Word
  unf1    : Word
  apx     : Word
  apxcnt  : Word
  shadow  : List Shadowed
  -- tag table and record cache (R96, R97, R396)
  tags    : SMap (Option (BitVec 52))
  tagidx  : Word
  rcache  : SMap CachedRecord
  rcidx   : Word
  -- traps and yields (R209 to R213, R221)
  hand    : Handler
  rec_    : Option FaultRec
  late    : List Cause         -- faults that wait for a boundary
  soon    : List (Nat × Cause) -- faults of bound engines on their way, with the schedule cycles left (R43, R214)
  due     : Option Cause       -- a fault that reached the stopped cell, presented when it resumes (R215)
  dueMore : Nat                -- causes already counted behind it
  stopReq : Option Nat         -- forced stop requested, with its detail code
  yreq    : Bool
  migReq  : Option Nat         -- migration requested, to a CID
  landing : Bool               -- a yield or a migration has landed and waits to save
  ycfg    : Word
  ystat   : Word
  -- counters and energy (R227, R255, R258)
  evsel   : SMap Word
  evcnt   : SMap Word
  ebal    : Int
  erate   : Nat
  ecost   : SMap Nat
  charged : Nat                -- energy charged since the last settlement
  duties  : SMap Nat           -- active cycles of 16 that each group of its team sets its die, by GID; 16 when none (R146)
  duty    : Nat                -- the least of them
  -- barriers and hand-off (R50, R320)
  arrived : SMap Bool          -- key: scope
  handoff : Bool
  -- matrix engine (R349, R364)
  kdone   : SMap Nat           -- key: tile; KDONE, plus 256 when aborted
  -- the engine's registers as they stood in the last schedule cycle, as an operation reads them that counts as having started in it (R36)
  oldV    : SMap Lane
  oldP    : SMap Pred
  oldA    : SMap AccEntry
  oldDone : SMap Nat
  matLate : Nat                -- lateness of the MAT slot by replayed K-steps (R272)
  replay  : Nat                -- frozen cycles that a replay beyond the slack still costs
  -- instruction memory (R16, R291)
  imem    : SMap Lane
  ueImem  : List Nat           -- words with an uncorrectable error
  -- soft errors (R95): an uncorrectable error, or one bit of a doubleword, comes from outside the machine
  ceImem  : List Nat           -- words with a one-bit error
  ueTags  : List Nat           -- entries of the tag table
  ceTags  : List Nat
  ueSnap  : Bool               -- a snapshot entry or a latch
  ceSnap  : Nat
  -- scheduler's view (R121, R179)
  ctxt    : Nat                -- context last served
  lmbase  : Nat
  coll    : Word               -- what XSKEW reads: the last collective completed (R144)
  deriving DecidableEq, Repr

/-- A capture with every register zero. -/
def Capture.zero : Capture := ⟨0, 0, 0, 0, 0, 0, 0, 0⟩

/-- A core as power-on leaves it (R28, the Reset columns; log 3 and log 4 for the registers the spec gives no value). -/
def Core.reset : Core where
  s := []
  v := []
  p := []
  a := []
  pc := 0
  st := .free
  waitk := 0
  loops := []
  rptLeft := 0
  latches := []
  waits := Waits.none
  popReq := false
  slack := 0
  skew := 0
  bind := 0xFFF
  bindReq := none
  flights := []
  queue := []
  skewOut := []
  cyc := 0
  rcyc := 0
  holdCyc := 0
  waitCyc := 0
  lastIb := 0
  banks := []
  outcnt := []
  prods := []
  failed := []
  tokerr := 0
  team := 0
  lidq := 0
  predst := 0
  wswap := 0x10000
  ctxasid := 0
  spcap := 0x400000
  celltemp := 0
  fmt := 0x40110
  vstat := 0
  sctab := []
  swz := 0
  unf0 := 0
  unf1 := 0
  apx := 0
  apxcnt := 0
  shadow := []
  tags := []
  tagidx := 0
  rcache := []
  rcidx := 0
  hand := ⟨0, 0, [], [], [], Waits.none, 0, 0, 0, [], false, 0, false, none, []⟩
  rec_ := none
  late := []
  soon := []
  due := none
  dueMore := 0
  stopReq := none
  yreq := false
  migReq := none
  landing := false
  ycfg := 0
  ystat := 0
  evsel := []
  evcnt := []
  ebal := 0
  erate := 0
  ecost := []
  charged := 0
  duties := []
  duty := 16
  arrived := []
  handoff := false
  kdone := []
  oldV := []
  oldP := []
  oldA := []
  oldDone := []
  matLate := 0
  replay := 0
  imem := []
  ueImem := []
  ceImem := []
  ueTags := []
  ceTags := []
  ueSnap := false
  ceSnap := 0
  ctxt := 0
  lmbase := 0
  coll := 0

/-! ## The ordering machine -/

/-- The places of R150 that a write passes on its way home. -/
inductive Place where
  | queue | cluster | die
  deriving DecidableEq, Repr

/-- A write on its way home (R150). -/
structure PendWrite where
  seq   : Nat
  bun   : Nat              -- its bundle, as the last number given before that issued
  cid   : Nat              -- the cell or engine's cell that issued it
  own   : Nat              -- the cell whose scratchpad is local to it
  place : Place
  bytes : List (Nat × Byte) -- by physical address of the home
  hold  : Option Nat       -- held until every prior access has performed at this scope (R161, R164)
  slot  : Nat              -- slot of the access; 5 for a transfer under way, 7 for one that has completed (R160)
  flight : Nat             -- the flight that waits for it, or none (0)
  xfer  : Option (Nat × Nat) -- the transfer access that waits for it: key, access number
  key   : Option Nat       -- the key under which it is stored in device memory (R118)
  va    : Option (Nat × Nat) -- the ASID and virtual address under which it was translated (R110)
  id    : Nat              -- its own number: no other write on its way has it
  tran  : Nat              -- issue number of the transfer that it belongs to, 0 for a cell's own write
  deriving DecidableEq, Repr

/-- What a read on its way does when it takes its value. -/
inductive ReadKind where
  | load (bytes : Nat) (sext : Bool)
  | amo (op : Nat) (bytes : Nat) (operand : Word)
  | cas (bytes : Nat) (expected new : Word)
  | lane (lane : Nat) (bytes : Nat) (sext : Bool)
  deriving DecidableEq, Repr

/-- A read, or an atomic, that has not performed: remote, or held (R157, R162, R165). -/
structure PendRead where
  seq    : Nat
  bun    : Nat
  cid    : Nat
  addr   : Nat             -- physical address of its first byte
  kind   : ReadKind
  hold   : Option Nat      -- held until every prior access has performed at this scope
  ord    : Nat             -- its order (R163)
  ordf   : Nat             -- a CAS's failure order
  scp    : Nat
  slot   : Nat
  flight : Nat
  remote : Bool
  deriving DecidableEq, Repr

/-- A fence in force for later accesses of a cell (R160 to R164). -/
structure Fence where
  cid   : Nat
  seq   : Nat              -- accesses numbered above it are later
  reads : Bool             -- holds later reads
  writes : Bool            -- holds later writes
  acq   : Bool             -- waits for prior reads only
  self  : Bool             -- waits for the access of this number itself, as an acquire or sc access does
  store : Bool             -- that access is a store: it holds no load of its own bundle (R164)
  bun   : Nat
  scope : Nat
  deriving DecidableEq, Repr

/-- A read that took its value from a write not yet home (R152: when it has performed at a scope). -/
structure ReadFrom where
  cid  : Nat
  seq  : Nat
  wid  : Nat               -- the write's own number
  deriving DecidableEq, Repr

/-! ## Engines -/

/-- The state of a matrix operation on its path (R349, R352, R353). -/
structure MatOp where
  seq    : Nat
  owner  : Nat             -- issuing cell
  eng    : Nat             -- core whose tiles it works on
  op     : Instr
  ipc    : Nat
  tile   : Nat
  base   : Nat             -- B base, or the base of MLDACC and MSTACC
  k0     : Nat
  row0   : Nat
  cap    : Capture
  begun  : Bool
  step   : Nat             -- the step or row in progress
  clock  : Nat             -- cycles run of it
  len    : Nat             -- cycles the step in progress lasts
  done   : Nat             -- steps written, or rows done
  opA    : List (Nat × List (List (Option Value))) -- operands of steps fetched and not written: step, 128 rows of 32; none where zeroed (R268)
  opB    : List (Nat × List (List (Option Value))) -- step, 128 columns of 32; none where absent (R361)
  left   : List (Nat × Nat) -- steps to write: step, cycles left
  rows   : List (List Byte) -- rows read by MLDACC, or to store by MSTACC
  next   : Nat             -- where the next sparse group starts (R361)
  flags  : Flags
  writes : Nat             -- stores of MSTACC not yet performed
  held   : Nat             -- 0 on its engine; 1 drained by a stop (R353); 2 resumed, its steps in progress to be formed again;
                           -- 3 aborted in this cycle (R355); 4 drained by the stop that entered the user handler (R211, R212)
  bun    : Nat             -- its bundle, as the last number given before that issued
  skew   : Nat             -- skew of its slot at its issue (R43)
  apxs   : List (Nat × Word) -- APX as each step in progress read it: step, value (R264, R353)
  fault  : Option Cause
  deriving DecidableEq, Repr

/-- An access of a transfer (R112, R147): it reads one run of bytes of a move and then writes them. -/
structure Access where
  n     : Nat              -- access number
  move  : Nat
  phase : Nat              -- 0 read under way, 1 data waits to be written, 2 write under way
  src   : List Nat         -- physical addresses of the source bytes
  va    : Option (Nat × Nat) -- the ASID and virtual address under which the read was translated
  off   : Nat              -- linear offset of the first destination byte in the move
  len   : Nat              -- destination bytes
  data  : List Byte        -- data read
  host  : Option Nat       -- TSTAMP since when the access in progress crosses the Unulo link; none where it does not
  deriving DecidableEq, Repr

/-- A move of a transfer, or a row of a gather (R127, R130, R137, R141). -/
structure Move where
  j      : Nat
  no     : Nat             -- its place in the order in which the moves of the device started
  next   : Nat             -- linear offset of the next byte to issue
  left   : Nat             -- bytes not yet visible
  ring   : Option Nat      -- the ring count that it reserved
  sb     : Nat             -- base of its source, modulo 2^64
  db     : Nat
  zero   : Bool            -- a row of zeros (R141)
  raw    : List Byte       -- bytes read of the sparse group in progress (R128)
  rawAt  : Nat             -- offset from `sb` of the next byte of the sparse source
  deriving DecidableEq, Repr

/-- What a copy or cluster engine runs. -/
inductive XferKind where
  | copy | gather | collect
  deriving DecidableEq, Repr

/-- A transfer in a copy-engine slot, a gather, or the result writes of a collective (R125 to R135, R141, R143, R455). -/
structure Xfer where
  kind    : XferKind
  busy    : Bool
  started : Bool           -- record read and checked
  owner   : Nat            -- issuing core
  eng     : Nat            -- core whose engine runs it
  side    : Nat            -- cell whose scratchpad is the local side (R226)
  seq     : Nat            -- issue number
  sbun    : Nat            -- the last number given before the cycle in which it started
  ipc     : Nat
  op      : Option Instr
  base    : Nat            -- offset of its record
  rec_    : List Nat       -- the words of the record
  srec    : List Nat       -- source layout record: its four words, empty when none
  drec    : List Nat
  sched   : List (Nat × Nat) -- schedule entries, or the index list of a gather as (index, 0)
  stage   : Nat
  moves   : List Move      -- moves started and not complete
  mstart  : Nat            -- moves started
  mdone   : Nat            -- moves completed
  bytes   : Nat
  dr      : Nat
  tok     : Nat
  toks    : List (Nat × Nat)
  acc     : List Access
  killed  : Bool           -- killed; of an idle slot: its last transfer ended in a fault or a kill (R131)
  fault   : Option Cause
  steps   : List (Nat × Nat × Nat) -- pending XSTEP completions: token, counter value, issue number
  ringw   : Bool           -- the next move waits to reserve a ring slot
  deriving DecidableEq, Repr

/-- A member's part in a collective (R142, R143). -/
structure Collect where
  owner : Nat
  eng   : Nat
  side  : Nat
  team  : Nat
  lid   : Nat
  seq   : Nat
  sbun  : Nat
  ipc   : Nat
  op    : Option Instr
  base  : Nat
  words : List Nat
  table : List Nat
  data  : List Nat         -- contribution, as element patterns
  round : Nat              -- which collective of its group this is at this member
  dr    : Nat
  tok   : Nat
  toks  : List (Nat × Nat)
  started : Bool           -- record read and checked
  arrived : Option Nat     -- TSTAMP of its arrival
  killed : Bool
  fault : Option Cause
  deriving DecidableEq, Repr

/-- A cached translation of a holder (R103). -/
structure Transl where
  asid : Nat
  base : Nat               -- first virtual address
  last : Nat               -- last virtual address
  pa   : Nat               -- physical address of the first
  r    : Bool
  w    : Bool
  lvl  : Nat               -- walk level of its leaf, 7 for a range
  lo   : Nat               -- first and last virtual address for which it was the translation when it was formed: no range of a lower
  hi   : Nat               -- index covers them (R103)
  deriving DecidableEq, Repr

/-- An INVR in progress (R109 to R111). -/
structure Invr where
  stk   : Nat
  flight : Nat
  asid  : Nat
  va    : Nat
  len   : Nat
  reach : List Nat         -- holders that it has not reached
  wait  : List (Nat × List (Nat × Nat)) -- holder and the accesses it waits for: number, 0 read or 1 write
  held  : Nat
  drain : Nat
  iso   : Bool
  deriving DecidableEq, Repr

/-- A collective whose results are on their way to its members on this device (R144, R146). -/
structure GroupEnd where
  team  : Nat
  gid   : Nat
  jit   : Bool
  dies  : List (Nat × Nat)  -- each die with members here, with its latest arrival (R145)
  first : Nat               -- the first and the latest arrival over all members
  last  : Nat
  left  : List Nat          -- issue numbers of the members here that have not completed
  deriving DecidableEq, Repr

/-- An idle transfer slot. -/
def Xfer.idle : Xfer :=
  ⟨.copy, false, false, 0, 0, 0, 0, 0, 0, none, 0, [], [], [], [], 0, [], 0, 0, 0, 0, 0, [], [], false, none, [], false⟩

/-! ## Launches and teams -/

/-- Where a launch stands between its packet and its signal (R182, R192 to R202, R222, R249). -/
inductive TeamState where
  | waiting    -- consumed, waits for cells, its predecessor or its graph's nodes
  | loading    -- cells allocated, load phase running
  | loaded     -- load ended, not yet released
  | resident   -- released
  | leaving    -- asked to leave its cells: swap, slice, park or variant switch
  | out        -- saved, no cells
  | ending     -- over, its transfers and writes finishing
  | ended      -- over, its signal not yet written
  | closed     -- signal written
  deriving DecidableEq, Repr

/-- Why a team leaves or has left its cells. -/
inductive Departure where
  | none | swap | slice | park | emergency | variant
  deriving DecidableEq, Repr

/-- The image of one cell as a departure saves it: the core, its scratchpad bytes by offset, and its transfer slots. -/
structure SavedCell where
  cid   : Nat
  core  : Core
  sp    : SMap Byte
  splen : Nat
  xfers : SMap Xfer
  mats  : List MatOp
  deriving DecidableEq, Repr

/-- An image that the device wrote to memory: what it was written from, its bytes that are not zero, by offset, and the key that it was written
under (R118, R217; log 10). -/
structure SavedImage where
  cell  : SavedCell
  bytes : SMap Byte
  key   : Option Nat
  deriving DecidableEq, Repr

/-- A launch and the team it places (R187 to R203, R236 to R240, R255). -/
structure Team where
  id      : Nat
  queue   : Nat
  pktNo   : Nat            -- packet number in its queue, or node number in its graph
  graph   : Option Nat     -- graph it is a node of
  asid    : Nat
  value   : Nat
  desc    : List Nat       -- the 20 words of the descriptor
  pins    : List Nat       -- CIDs of PINLIST
  recs    : List Nat       -- the first 256 indices of LRLIST
  sigAddr : Nat            -- device virtual address of the signal; 0 none
  size    : Nat
  nstage  : Nat
  donors  : List Nat       -- binding table: LIDs of donors
  lmbase  : Nat
  cells   : List Nat       -- CID of each LID
  homes   : List (Nat × Nat) -- CIDs vacated by migration, with the CID each now names (R226)
  entry   : Nat
  hasPred : Bool
  pred    : Option Nat     -- launch it waits on
  state   : TeamState
  dep     : Departure
  started : Nat
  ended   : Nat
  lastSeq : Nat            -- last number given before its end
  error   : Nat
  flags   : Nat
  saved   : SMap (Option SavedCell) -- by LID
  fault   : Option FaultRec -- the fault to be reported (R208)
  faultLid : Nat
  placed  : Nat            -- TSTAMP of allocation
  loadTime : Nat           -- ns from allocation to release of the last placement
  asked   : Nat            -- TSTAMP of the yield request
  aged    : Nat            -- major frames since it may resume
  prio    : Nat
  ecls    : Nat
  points  : List (List Nat) -- operating points, eight words each; empty when OPT = 0
  point   : Nat
  deadline : Nat
  iters   : Nat
  done    : Nat            -- iterations done (R242): numerator
  doneDen : Nat            -- and denominator, at least 1
  allot   : Nat            -- allotted power in microwatts
  settled : Nat            -- energy settled over the last 1 ms, in pJ (R239)
  spent   : Nat            -- energy settled since the last tick, in pJ
  next    : Nat            -- point that a variant switch under way goes to (R240)
  parked  : Nat            -- TSTAMP of its park (R246)
  hamper  : Nat            -- physical address of its hamper; 0 none
  reloadWait : Bool        -- waits for its key slots after a hard trip (R263)
  deriving DecidableEq, Repr

/-- A graph under way (R236, R237). -/
structure Graph where
  id    : Nat
  queue : Nat
  value : Nat
  asid  : Nat
  sig   : Nat
  nodes : List (List Nat)  -- four words each
  teams : List (Option Nat) -- team of each node once dispatched
  destroyed : Bool         -- its queue has been destroyed (R203)
  closed : Bool
  deriving DecidableEq, Repr

/-- A migration in steps 1 to 4 of R226. -/
structure Migration where
  team   : Nat
  source : Nat
  target : Nat
  since  : Nat             -- TSTAMP of the freeze
  deriving DecidableEq, Repr

/-- The scheduler's state and its host registers (R179 to R203, R219 to R225). -/
structure Sched where
  qtbase  : Nat
  qdb     : SMap Nat
  bells   : SMap Bool      -- doorbell summary
  polls   : List Nat       -- queues whose doorbells were read and whose packets later poll slots read (R180)
  qctl    : Option Nat     -- QCTL command written and not served
  qdone   : Bool
  qcode   : Nat
  last    : SMap (Option Nat) -- last LAUNCH consumed by each queue since it was enabled
  destroying : List Nat    -- queues in STATE 2
  teams   : List Team
  graphs  : List Graph
  nextId  : Nat
  lidmap  : SMap Nat
  cx      : SMap Word      -- context slot registers, key 4 * slot + register (R102)
  fdump   : Nat
  slice   : Nat
  thmig   : Nat
  migs    : List Migration -- in progress (R226)
  retry   : List Nat       -- cells whose migration found no target (R225)
  clearing : List Nat      -- cells whose clear runs (R121)
  key     : SMap (Option Nat) -- key slots (R117)
  keydat  : SMap Word
  keyctl  : Option Nat     -- KEYCTL action waiting
  keyfull : Bool
  deep    : List (Nat × Nat) -- park-tier runs that deep parks filled: address, length (R250)
  tried   : List Nat       -- launches and teams that the dispatch slot has tried in its present round (R180)
  deriving DecidableEq, Repr

/-! ## Power -/

/-- A curve (R230): its fields and its points in use, as (TIME, POWER). -/
structure Curve where
  facility  : Nat
  notBefore : Nat
  notAfter  : Nat
  bandp     : Nat
  bandw     : Nat
  minGrade  : Nat
  prior     : Nat          -- target in force just before its takeover (R235)
  points    : List (Nat × Nat)
  deriving DecidableEq, Repr

/-- An entry of the droop signature table (R259). -/
structure Droop where
  die  : Nat
  sig  : Nat
  hits : Nat
  age  : Nat
  deriving DecidableEq, Repr

/-- An exact fraction; its denominator is never 0 (R241). -/
structure Frac where
  num : Int
  den : Nat
  deriving DecidableEq, Repr

/-- The power state and its host registers (R228 to R263, R271). -/
structure Power where
  powered : Bool
  lc      : Nat            -- level of the matrix, vector and SRAM rails
  lf      : Nat
  goalLc  : Nat            -- levels the rails are moving to (R229)
  goalLf  : Nat
  duty    : Nat
  grade   : Nat
  target  : Nat
  band    : Nat
  miss    : Bool
  pmeas   : Nat
  pred    : Frac           -- prediction of the last tick, in microwatts (R241)
  corr    : Frac
  told    : Bool           -- the tasks' progress over the ms that ends now has been taken (R242)
  allow   : Nat            -- over-scaling allowance A (R271)
  allowCap : Nat           -- A stays at or below it
  allowHold : Nat          -- ticks it still does
  replays : SMap Nat       -- replays of the present tick, by die
  curve   : Option Curve
  passed  : Nat            -- points of the curve in force whose TIME the target has reached
  pending : Option Curve
  curveSub : Option Nat    -- record address under verification
  cdone   : Bool
  cresult : Nat
  cdrop   : Bool
  cseq    : Nat
  anchors : SMap (Option (Nat × List Byte)) -- facility and public key, by slot
  utcofs  : Int
  gateOrder : Nat
  gatedBy : List Nat       -- dies gated, latest first
  ramp    : Option (Nat × Bool) -- die ramping, and whether it ungates
  rampAt  : Nat            -- TSTAMP at which the ramp began (R254)
  tripped : Bool           -- the last power-off was a hard trip (R25)
  needed  : List Nat       -- dies that a launch or resume needs
  droopctl : Nat
  droopidx : Nat
  droops  : List Droop
  nibbles : SMap (List Nat) -- activity nibbles of each die, latest first
  pre     : SMap Nat       -- 1 plus the cycles left of each die's pre-throttle; 0 none
  thsave  : Nat
  temps   : SMap Nat       -- latest sample of each sensor, in quarter degrees
  sampled : List Nat       -- cells with a sample since their die ungated (R225)
  saving  : Bool           -- emergency save in force
  hot     : List Nat       -- dies that it gates
  below   : Nat            -- TSTAMP since when every sample has been below SAVE − 5 °C; 0 while one is not
  noted   : List (Nat × TeamState × Nat) -- teams as the trip journal last listed them: id, state, hamper (R262)
  kmin    : SMap Nat       -- duty in force in the present window, by cell (R261)
  deriving DecidableEq, Repr

/-! ## Firmware, host and links -/

/-- What is known of a role's image (R274, R276, R281). -/
structure Image where
  layout  : Nat
  oldlay  : Nat
  version : Nat
  svn     : Nat
  digest  : List Byte
  addr    : Nat
  body    : List Byte      -- the image's body, which a stoker's local memory takes (R274, R276)
  deriving DecidableEq, Repr

/-- A hand-over under way (R275, R276). -/
structure Handover where
  role   : Nat
  addr   : Nat
  phase  : Nat
  newStk : Nat
  oldStk : Nat
  hbs    : Nat
  image  : Image           -- the new image
  old    : Image           -- the image it replaces
  frame  : Nat
  deriving DecidableEq, Repr

/-- Firmware state and host registers (R273 to R285). -/
structure Firm where
  role    : SMap Nat       -- role of each stoker, 3 standby
  dead    : List Nat       -- stokers that run nothing more until power-on (R178)
  beat    : SMap Bool      -- heartbeat written in the present major frame, by role
  missed  : SMap Nat       -- consecutive missed heartbeats, by role
  fresh   : List Nat       -- roles that changed hands, or came back, at the end of the present major frame (R273, R276, R278)
  moving  : SMap (Option Nat) -- role move under way: the stoker taking the role
  images  : SMap Image
  svnmin  : SMap Nat
  fwsub   : Option Handover
  fbusy   : Bool
  fresult : Nat
  fdrop   : Bool
  frole   : Nat
  fnew    : Nat
  fold    : Nat
  fhb     : Nat
  fallback : Option Handover -- fall-back under way
  evring  : Nat
  evcount : Nat
  evfail  : Bool
  meas    : SMap (List Byte) -- measurement of each role
  log     : List (List Byte) -- attestation log, 64 bytes each
  quote   : Option Nat
  qdone   : Bool
  qexh    : Bool
  qdrop   : Bool
  sigLeft : Nat
  watch   : SMap Word
  msgs    : List Nat       -- vectors of interrupt messages sent to the host, latest first
  hostData : Nat           -- what the last host read returned
  hostHeld : List (Nat × Nat × Nat) -- host accesses that the untrained Unulo link holds, in order: kind, address, value (R285)
  sigHeld : List (Nat × List Nat) -- signals to host memory that the untrained Unulo link holds, in order: address, words (R285)
  deriving DecidableEq, Repr

/-- A flit (R287): its sequence number, its channel, and what it carries. -/
structure Flit where
  seq  : Nat
  chan : Nat
  data : Nat
  sent : Nat               -- retransmissions so far
  deriving DecidableEq, Repr

/-- A link (R286 to R289): its registers, its sender and its receiver. -/
structure Link where
  up      : Bool
  half    : Bool
  spare   : Nat            -- spare lanes in use
  lanes   : Nat
  peerdev : Nat
  retrain : Nat
  replay  : Nat
  feccor  : Nat
  repairs : Nat
  window  : List Flit      -- not acknowledged, oldest first; those past the first 256 are held unsent
  nextOut : Nat            -- SEQ of the next flit
  nextIn  : Nat            -- SEQ after the latest that has come
  awaited : List (Nat × Option Nat) -- earlier SEQs that have not come good, with their channel once known
  held    : List Flit      -- come good, held for the order of their channel
  got     : List Flit      -- delivered, latest first
  reply   : Option (Nat × Bool) -- the last answer: SEQ, and whether it acknowledges
  repair  : Option (List Nat) -- a repair waits for these flits
  lost    : Bool           -- training lost, accesses held (R285)
  since   : Nat            -- TSTAMP of that loss
  errs    : SMap Nat       -- symbol errors of each lane in the present millisecond (R286, R289)
  errAt   : Nat            -- that millisecond, as TSTAMP div 1,000,000
  failing : Option Nat     -- the lane whose repair waits (R289)
  deriving DecidableEq, Repr

/-- The identification state (R27). -/
structure Ident where
  booted  : Bool
  ready   : Bool
  hardtrip : Bool
  bootfail : Bool
  gated   : Nat
  mgmt    : Nat
  fwver   : Nat
  dieok   : Nat
  mantle  : Nat
  hbmok   : Nat
  parksize : Nat
  measgen : Nat
  lnkctl  : Nat
  isorec  : Nat
  fenced  : List Nat       -- dies whose fabric port is fenced (R290)
  dieev   : SMap Word      -- die event counters, key 32 * die + 2 * n, and + 1 for the count (R227)
  deriving DecidableEq, Repr

/-! ## The issue of a bundle -/

/-- Where the slot instruction now executing belongs: its core, its slot number, the address of its bundle, whether it is a
sticky re-issue (R34), whether the checks of its bundle have passed, and the event counts as they stood when the cycle
began, which an MFSR reads (R227). -/
structure IssueCtx where
  cid     : Nat
  slot    : Nat
  ipc     : Nat
  bun     : Nat            -- last number given before the bundle issued
  reissue : Bool
  checked : Bool
  counts  : List Word
  deriving DecidableEq, Repr

/-- A slot operation of a bundle that has issued and is still to execute in the present step. -/
structure PendOp where
  slot    : Nat
  reissue : Bool
  op      : Instr
  deriving DecidableEq, Repr

/-- What the end of the present step still owes the issuing core: the advance of R29 to the next bundle, or the next
execution of a repeated one, and the end of its cycle. -/
structure Owed where
  advance : Bool
  cycle   : Bool
  next    : Nat            -- address of the word after the bundle
  rpt     : Nat            -- RPT of the bundle
  ib      : Bool           -- IB of the bundle
  stop    : Option Cause   -- a stop that lands after this execution (TRAP, R204)
  trip    : Bool           -- an MTSR of this execution clears DEVSTAT.HARDTRIP (R307, R309)
  deriving DecidableEq, Repr

/-- No execution is open. -/
def Owed.none : Owed := ⟨false, false, 0, 0, false, .none, false⟩

/-- The state of the module. -/
structure State where
  cores   : SMap Core
  mem     : List Host.Cell
  ueMem   : List Nat         -- doublewords of memory with an uncorrectable error, as address / 8 (R95)
  ceMem   : List Nat         -- doublewords of scratchpad with a one-bit error: memory holds what they are corrected to (R95)
  time    : Nat              -- fractions of a nanosecond since base-die power-up (R310)
  seq     : Nat              -- last issue or access number given
  ctx     : IssueCtx
  ops     : List PendOp
  owed    : Owed
  agenda  : List Instr
  turn    : Nat
  beat    : Nat              -- cycles of the cell clock since power-on (R22, R261)
  choice  : Nat              -- the device's free choices taken so far (log 8)
  writes  : List PendWrite   -- oldest first
  reads   : List PendRead
  fences  : List Fence
  from_   : List ReadFrom
  mat     : List MatOp       -- acceptance order
  xfers   : SMap Xfer        -- key: 8 * CID + slot; 8,192 + issue number for what a cluster engine runs
  collects : List Collect    -- members' parts in arrival order
  rounds  : SMap Nat         -- collectives begun, key (1,024 * team + LID) * 65,536 + GID (R143)
  groupEnd : SMap Nat        -- 1 plus the TSTAMP at which a group's last collective completed, key team * 65,536 + GID (R146)
  roundEnd : SMap Nat        -- how a collective ended without a result, key (team * 65,536 + GID) * 2^32 + its number: 1 COLLMATCH,
                             -- 2 COLLABSENT, 3 a lost peer link (R143)
  ending  : List GroupEnd    -- collectives with a result whose members here have not all completed (R146)
  accNo   : Nat              -- last engine access number given
  matNow  : List Nat       -- cells that issue a MAT operation in the present cycle (R259)
  taken   : List (Nat × Nat) -- accesses other than vector ones that scratchpad banks serve in the present cycle: address, and size of a scalar one or 0 (R94)
  images  : SMap (Option SavedImage) -- the images that the device has written, by physical address (log 10)
  tcache  : SMap (List Transl) -- key: holder, the CID of a copy engine or 1,024 + the cluster number
  invrs   : List Invr
  sched   : Sched
  power   : Power
  firm    : Firm
  links   : SMap Link
  ident   : Ident
  deriving DecidableEq, Repr

/-- Why the machine itself goes no further. -/
inductive Fault where
  /-- The module has no input power, or its hard trip has cut every domain: nothing executes until power returns (R228,
  R263). Raised by every step of an unpowered module but POWER_ON_RESET. Safe. -/
  | noPower
  deriving DecidableEq, Repr

/-- Why an instruction has no meaning here. -/
inductive Refusal where
  /-- The instruction has no meaning in this model yet. Raised by its own arm of `exec`. Safe. -/
  | notModelled (mnemonic : String)
  deriving DecidableEq, Repr

/-- The image of a role before any is known (log 4). -/
def Image.none : Image := ⟨0, 0, 0, 0, [], 0, []⟩

/-- A link at power-on (R286; UP, LANES and PEERDEV are FW: log 4). -/
def Link.reset : Link := ⟨false, false, 0, 0, 0, 0, 0, 0, 0, [], 0, 0, [], [], [], none, none, false, 0, [], 0, none⟩

/-- The scheduler's registers at power-on (R183, R219, R223, R224). -/
def Sched.reset : Sched where
  qtbase := 0
  qdb := []
  bells := []
  polls := []
  qctl := none
  qdone := false
  qcode := 0
  last := []
  destroying := []
  teams := []
  graphs := []
  nextId := 1
  lidmap := []
  cx := []
  fdump := 0
  slice := 64 + 50 * 65536
  thmig := 95 + 256
  migs := []
  retry := []
  clearing := []
  key := []
  keydat := []
  keyctl := none
  keyfull := false
  deep := []
  tried := []

/-- The power state at power-on (R235, R244, R254, R260, R262). The first tick finds a prediction and a correction of 0 (R241, log 80: DESIGN
CHOICE). -/
def Power.reset : Power where
  powered := true
  lc := 15
  lf := 15
  goalLc := 15
  goalLf := 15
  duty := 16
  grade := 0
  target := 6000
  band := 30
  miss := false
  pmeas := 0
  pred := ⟨0, 1⟩
  corr := ⟨0, 1⟩
  told := false
  allow := 0
  allowCap := 7
  allowHold := 0
  replays := []
  curve := none
  passed := 0
  pending := none
  curveSub := none
  cdone := false
  cresult := 0
  cdrop := false
  cseq := 0
  anchors := []
  utcofs := 0
  gateOrder := 0x53977
  gatedBy := []
  ramp := none
  rampAt := 0
  tripped := false
  needed := []
  droopctl := 1 + 12 * 2 + 64 * 64 + 30 * 65536
  droopidx := 0
  droops := []
  nibbles := []
  pre := []
  thsave := 105
  temps := []
  sampled := []
  saving := false
  hot := []
  below := 0
  noted := []
  kmin := []

/-- Firmware state at power-on (R19, R275, R280 to R282, R285; log 4 for LEFT). -/
def Firm.reset : Firm where
  role := [(0, 0), (1, 1), (2, 2)]
  dead := []
  beat := []
  fresh := []
  missed := []
  moving := []
  images := []
  svnmin := []
  fwsub := none
  fbusy := false
  fresult := 0
  fdrop := false
  frole := 0
  fnew := 0
  fold := 0
  fhb := 0
  fallback := none
  evring := 0
  evcount := 0
  evfail := false
  meas := []
  log := []
  quote := none
  qdone := false
  qexh := false
  qdrop := false
  sigLeft := 1048576
  watch := []
  msgs := []
  hostData := 0
  hostHeld := []
  sigHeld := []

/-- The identification state at power-on (R27): not ready, every die gated; DEVCFG and DEVSERIAL by log 4. -/
def Ident.reset : Ident where
  booted := false
  ready := false
  hardtrip := false
  bootfail := false
  gated := 0xFF
  mgmt := 0
  fwver := 0
  dieok := 0
  mantle := 0
  hbmok := 0
  parksize := 0
  measgen := 0
  lnkctl := 64 + 1024 * 65536 + 8 * 4294967296
  isorec := 0
  fenced := []
  dieev := []

/-- The module right after power-on reset, before the steps of R25: nothing listed in memory, every register at its reset
value, every die gated, no firmware started. -/
def State.reset : State where
  cores := []
  mem := []
  ueMem := []
  ceMem := []
  time := 0
  seq := 0
  ctx := ⟨0, 0, 0, 0, false, false, []⟩
  ops := []
  owed := Owed.none
  agenda := []
  turn := 0
  beat := 0
  choice := 0
  writes := []
  reads := []
  fences := []
  from_ := []
  mat := []
  xfers := []
  collects := []
  rounds := []
  groupEnd := []
  roundEnd := []
  ending := []
  accNo := 0
  matNow := []
  taken := []
  images := []
  tcache := []
  invrs := []
  sched := Sched.reset
  power := Power.reset
  firm := Firm.reset
  links := []
  ident := Ident.reset

end Sys2Proof.Machine
end

