-- ==== Sys2Proof/Machine/Ops.lean ====
section
/-!
DEFINITION. Machine/Ops.lean: the named operations over cores and registers that every meaning is written with: register
access (R294), teams (R40, R93), results in flight (R71), tokens and counters (R46, R123), event counters (R227), taking a
stop (R204 to R211) and returning from a handler (R212).
-/
namespace Sys2Proof.Machine

/-- What a meaning answers. -/
abbrev Step := Host.Outcome State Fault Refusal

/-! ## Bits -/

/-- Bits `hi:lo` of a natural. -/
def bits (x hi lo : Nat) : Nat := x / 2 ^ lo % 2 ^ (hi + 1 - lo)

/-- Bit `i` of a natural. -/
def bit (x i : Nat) : Bool := x / 2 ^ i % 2 == 1

/-- Bits `hi:lo` of a doubleword. -/
def field (x : Word) (hi lo : Nat) : Nat := bits x.toNat hi lo

/-- A natural with bits `hi:lo` replaced. -/
def setBits (x hi lo v : Nat) : Nat :=
  x - bits x hi lo * 2 ^ lo + v % 2 ^ (hi + 1 - lo) * 2 ^ lo

/-- A natural as a doubleword. -/
def word (x : Nat) : Word := BitVec.ofNat 64 x

/-- One bit as a natural. -/
def flag (b : Bool) : Nat := if b then 1 else 0

/-! ## Cores and registers -/

/-- Core `c`: cell by CID, or stoker 1,024 + k. -/
def State.core (s : State) (c : Nat) : Core := mapGet Core.reset s.cores c

/-- The state with core `c` replaced. -/
def State.setCore (s : State) (c : Nat) (k : Core) : State := { s with cores := mapSet Core.reset s.cores c k }

/-- The state with core `c` changed by a function. -/
def State.modCore (s : State) (c : Nat) (f : Core → Core) : State := s.setCore c (f (s.core c))

/-- The core number is a stoker's (R19). -/
def isStoker (c : Nat) : Bool := decide (1024 ≤ c)

/-- Scalar register `r`; s0 reads zero (R294). -/
def Core.reg (k : Core) (r : Nat) : Word := if r = 0 then 0 else mapGet 0 k.s r

/-- Scalar register `r` written; a write to s0 is discarded (R294). -/
def Core.setReg (k : Core) (r : Nat) (v : Word) : Core := if r = 0 then k else { k with s := mapSet 0 k.s r v }

/-- Lane `l` of vector register `r`. -/
def Core.lane (k : Core) (r l : Nat) : Lane := mapGet 0 k.v (128 * r + l)

/-- Lane `l` of vector register `r` written. -/
def Core.setLane (k : Core) (r l : Nat) (v : Lane) : Core := { k with v := mapSet 0 k.v (128 * r + l) v }

/-- Predicate `r`; p0 reads all ones (R294). -/
def Core.pred (k : Core) (r : Nat) : Pred := if r = 0 then BitVec.allOnes 128 else mapGet 0 k.p r

/-- Predicate `r` written; a write to p0 is discarded (R294). -/
def Core.setPred (k : Core) (r : Nat) (v : Pred) : Core := if r = 0 then k else { k with p := mapSet 0 k.p r v }

/-- Entry (i, j) of tile `t` (R16, R217). -/
def Core.entry (k : Core) (t i j : Nat) : AccEntry := mapGet accZero k.a (16384 * t + 128 * i + j)

/-- Entry (i, j) of tile `t` written. -/
def Core.setEntry (k : Core) (t i j : Nat) (v : AccEntry) : Core :=
  { k with a := mapSet accZero k.a (16384 * t + 128 * i + j) v }

/-- The core whose slot instruction executes. -/
def State.cur (s : State) : Core := s.core s.ctx.cid

/-- The state with the executing core changed. -/
def State.modCur (s : State) (f : Core → Core) : State := s.modCore s.ctx.cid f

/-- A scalar operand of the executing core, read in its issue cycle (R33). -/
def State.rd (s : State) (r : BitVec 6) : Word := s.cur.reg r.toNat

/-- The lanes of a bit pattern, 0 to 127. -/
def lanes128 : List Nat := List.range 128

/-- A latch of a core, by slot number 1 to 5. -/
def Core.latch (k : Core) (slot : Nat) : Latch := mapGet Latch.nop k.latches slot

/-- A latch set. -/
def Core.setLatch (k : Core) (slot : Nat) (l : Latch) : Core := { k with latches := mapSet Latch.nop k.latches slot l }

/-! ## Time -/

/-- Fractions of time in one nanosecond: every cell clock period and every period of R255 to R257 is a whole number of
them (log 1). -/
def nsUnit : Nat := 232792560

/-- TSTAMP in ns (R310). -/
def State.now (s : State) : Nat := s.time / nsUnit

/-- The length of a cell clock cycle at rail level `l`: 1 / (0.35 GHz + l × 0.05 GHz) (R22). -/
def cyclePeriod (l : Nat) : Nat := 20 * nsUnit / (7 + l)

/-! ## Teams -/

/-- The team holds its cells. -/
def Team.holds (t : Team) : Bool :=
  match t.state with
  | .loading | .loaded | .resident | .leaving | .ending => true
  | _ => false

/-- The team that holds a cell. -/
def State.teamOf (s : State) (c : Nat) : Option Team := s.sched.teams.find? (fun t => t.holds && t.cells.contains c)

/-- A team by its number. -/
def State.team (s : State) (id : Nat) : Option Team := s.sched.teams.find? (fun t => t.id == id)

/-- The state with the team of a number changed. -/
def State.modTeam (s : State) (id : Nat) (f : Team → Team) : State :=
  { s with sched := { s.sched with teams := s.sched.teams.map (fun t => if t.id == id then f t else t) } }

/-- The LID of a cell in its team. -/
def Team.lidOf (t : Team) (c : Nat) : Nat := t.cells.findIdx (· == c)

/-- The LID of a core that a team holds; 0 for a core that none holds. -/
def State.lid (s : State) (c : Nat) : Nat :=
  match s.teamOf c with
  | some t => t.lidOf c
  | none => 0

/-- The CIDs of the team's donors (R41, R188). -/
def Team.donorCells (t : Team) : List Nat := t.donors.map (fun l => t.cells.getD l 0)

/-- The cells of a team that are no donors. -/
def Team.workers (t : Team) : List Nat := t.cells.filter (fun c => !t.donorCells.contains c)

/-- The cell that a CID names to a team: itself if the team holds it, the target if the team's work left it by migration
(R93, R226). -/
def Team.resolve (t : Team) (c : Nat) : Option Nat :=
  if t.cells.contains c then some c else (t.homes.find? (fun h => h.1 == c)).map Prod.snd

/-- The binding-table entry of slot VEC, MAT or XFR, numbered as in R209 (R42). -/
def Core.bindOf (k : Core) (slot : Nat) : Nat := field k.bind (4 * (slot - 3) + 3) (4 * (slot - 3))

/-- The core whose engine serves a slot of core `c`: its own, or a bound donor (R41, R42). -/
def State.engine (s : State) (c slot : Nat) : Nat :=
  let e := (s.core c).bindOf slot
  if e == 15 || slot < 3 then c
  else match s.teamOf c with
    | some t => t.donorCells.getD e c
    | none => c

/-- The skew of slot VEC, MAT or XFR (R43). -/
def Core.skewOf (k : Core) (slot : Nat) : Nat := field k.skew (8 * (slot - 3) + 5) (8 * (slot - 3))

/-- The slack of slot VEC, MAT or XFR (R38). -/
def Core.slackOf (k : Core) (slot : Nat) : Nat := field k.slack (4 * (slot - 3) + 3) (4 * (slot - 3))

/-- What an operation captures at its issue (R91). -/
def Core.capture (k : Core) : Capture :=
  ⟨k.fmt, mapGet 0x3F803F803F803F80 k.sctab 0, mapGet 0x3F803F803F803F80 k.sctab 1, mapGet 0x3F803F803F803F80 k.sctab 2,
    mapGet 0x3F803F803F803F80 k.sctab 3, k.swz, k.unf0, k.unf1⟩

/-- The 16 scale entries of a capture (R84). -/
def Capture.scales (c : Capture) : List Nat :=
  [c.sc0, c.sc1, c.sc2, c.sc3].flatMap (fun w => [field w 15 0, field w 31 16, field w 47 32, field w 63 48])

/-- Fields of FMT (R89). -/
def fmtVf (f : Word) : Nat := field f 3 0
/-- FMT.MA (R89). -/
def fmtMa (f : Word) : Nat := field f 7 4
/-- FMT.MB (R89). -/
def fmtMb (f : Word) : Nat := field f 11 8
/-- FMT.RM (R89). -/
def fmtRm (f : Word) : Mode := modeOf (field f 13 12)
/-- FMT.GAP (R89). -/
def fmtGap (f : Word) : Nat := field f 18 16
/-- APX.NDIG (R264). -/
def apxNdig (a : Word) : Nat := field a 10 8
/-- APX.THETA (R264). -/
def apxTheta (a : Word) : Nat := field a 7 0

/-! ## Event counters -/

/-- A counter pair advanced by `n` events of code `src` (R227). -/
def bumpPair (sel cnt : Word) (src n : Nat) : Word × Word :=
  if field sel 7 0 == src && bit sel.toNat 8 then
    let c := cnt.toNat + n
    (if 2 ^ 48 ≤ c then sel ||| 0x200 else sel, word (c % 2 ^ 48))
  else (sel, cnt)

/-- One counter pair of a core. -/
def Core.bumpOne (src n : Nat) (k : Core) (i : Nat) : Core :=
  let r := bumpPair (mapGet 0 k.evsel i) (mapGet 0 k.evcnt i) src n
  { k with evsel := mapSet 0 k.evsel i r.1, evcnt := mapSet 0 k.evcnt i r.2 }

/-- The counters of a core after `n` events of a code; code 0 counts nothing. -/
def Core.bump (k : Core) (src n : Nat) : Core :=
  if src = 0 ∨ n = 0 then k else (List.range 8).foldl (Core.bumpOne src n) k

/-- One counter pair of a die. -/
def bumpDieOne (die src n : Nat) (m : SMap Word) (i : Nat) : SMap Word :=
  let r := bumpPair (mapGet 0 m (32 * die + 2 * i)) (mapGet 0 m (32 * die + 2 * i + 1)) src n
  mapSet 0 (mapSet 0 m (32 * die + 2 * i) r.1) (32 * die + 2 * i + 1) r.2

/-- The counters of a die after `n` events of a code (R227). -/
def State.countDie (s : State) (die src n : Nat) : State :=
  if n = 0 then s
  else { s with ident := { s.ident with dieev := (List.range 16).foldl (bumpDieOne die src n) s.ident.dieev } }

/-- The die of a cell (R15). -/
def dieOf (c : Nat) : Nat := c / 128

/-- The cluster of a cell, counted over the module (R15). -/
def clusterOf (c : Nat) : Nat := c / 8

/-- `n` events of a code at a cell: in its own counters and in its die's sum (R227). -/
def State.count (s : State) (c src n : Nat) : State :=
  if isStoker c then s else (s.modCore c (fun k => k.bump src n)).countDie (dieOf c) src n

/-! ## Tokens and counters -/

/-- Key of a counter in OUTCNT (R46). -/
def counterKey : Counter → Nat
  | .ld => 0
  | .st => 1
  | .cp => 2
  | .tl => 3
  | .none => 4

/-- A counter of R46. -/
def Core.counter (k : Core) (c : Counter) : Nat := mapGet 0 k.outcnt (counterKey c)

/-- A counter rises at issue (R46). -/
def Core.countUp (k : Core) (c : Counter) : Core :=
  match c with
  | .none => k
  | c => { k with outcnt := mapSet 0 k.outcnt (counterKey c) (k.counter c + 1) }

/-- A counter falls at completion (R46). -/
def Core.countDown (k : Core) (c : Counter) : Core :=
  match c with
  | .none => k
  | c => { k with outcnt := mapSet 0 k.outcnt (counterKey c) (k.counter c - 1) }

/-- The count of outstanding producers of a token; k0 is always complete (R123, R124). -/
def Core.tokCount (k : Core) (t : Nat) : Nat := if t = 0 then 0 else k.prods.countP (fun p => p.tok == t)

/-- A producer of a token issues (R123). -/
def Core.produce (k : Core) (t seq : Nat) : Core := if t = 0 then k else { k with prods := k.prods ++ [⟨t, seq⟩] }

/-- A list without the first element that meets a condition. -/
def dropFirst {α : Type} (p : α → Bool) : List α → List α
  | [] => []
  | x :: l => if p x then l else x :: dropFirst p l

/-- A producer of a token completes; with a fault it sets the token's TOKERR bit (R124). -/
def Core.complete (k : Core) (t seq : Nat) (failed : Bool) : Core :=
  if t = 0 then k
  else
    let k := { k with prods := dropFirst (fun p => p.tok == t && p.seq == seq) k.prods }
    if failed then { k with tokerr := k.tokerr ||| word (2 ^ t), failed := k.failed ++ [seq * 32 + t] } else k

/-- The producers that an operation issuing now waits on: those outstanding of the tokens that it consumes (R123). -/
def Core.waitsOn (k : Core) (t : Tokens) : List (Nat × Nat) :=
  (k.prods.filter (fun p => p.tok != 0 && (p.tok == t.tc0.toNat || p.tok == t.tc1.toNat || p.tok == t.tc2.toNat))).map
    (fun p => (p.tok, p.seq))

/-- None of the producers waited on is outstanding. -/
def Core.tokensReady (k : Core) (l : List (Nat × Nat)) : Bool :=
  l.all (fun p => !k.prods.any (fun q => q.tok == p.1 && q.seq == p.2))

/-- A producer waited on has failed (R124). -/
def Core.tokensFailed (k : Core) (l : List (Nat × Nat)) : Bool := l.any (fun p => k.failed.contains (p.2 * 32 + p.1))

/-- No tokens. -/
def noTokens : Tokens := ⟨0, 0, 0, 0⟩

/-! ## Causes, records and stops -/

/-- What a failed check names: class, detail, INFO and the failing address (R207, R209). -/
structure Trap where
  cls    : Nat
  detail : Nat
  info   : Nat
  addr   : Option Nat
  deriving DecidableEq, Repr

/-- IL of a detail (R207). -/
def trapIL (detail : Nat) : Trap := ⟨1, detail, 0, none⟩
/-- IL, detail ENCODING. -/
def trapEncoding : Trap := trapIL 0x00
/-- A trap of a class and detail. -/
def trapOf (cls detail : Nat) : Trap := ⟨cls, detail, 0, none⟩
/-- A trap of a class and detail at an address. -/
def trapAt (cls detail addr : Nat) : Trap := ⟨cls, detail, 0, some addr⟩

/-- The payload word of an instruction in its own format, 0 for a step of the device. -/
def payloadOf (i : Instr) : Nat :=
  match encodeCtl i, encodeS i, encodeCfg i, encodeVec i, encodeMat i, encodeXfr i with
  | some w, _, _, _, _, _ => w
  | _, some w, _, _, _, _ => w
  | _, _, some w, _, _, _ => w
  | _, _, _, some w, _, _ => w
  | _, _, _, _, some w, _ => w
  | _, _, _, _, _, some w => w
  | _, _, _, _, _, _ => 0

/-- The opcode of an instruction in its slot's map (R209, OPC). -/
def opcodeOf (i : Instr) : Nat :=
  match encodeVec i, encodeMat i, encodeXfr i with
  | none, none, none => payloadOf i / 2 ^ 24
  | _, _, _ => payloadOf i / 2 ^ 56

/-- A cause found at the issue of the executing instruction (R204, R205). -/
def State.issueCause (s : State) (i : Instr) (t : Trap) : Cause :=
  { seq := s.seq + 1, cls := t.cls, detail := t.detail, async := false, bound := s.engine s.ctx.cid s.ctx.slot != s.ctx.cid,
    ecid := s.engine s.ctx.cid s.ctx.slot, ipc := s.ctx.ipc, slot := s.ctx.slot, opc := opcodeOf i, xv := false, xslot := 0,
    move := 0, kv := false, kstep := 0, vav := t.addr.isSome, addr := t.addr.getD 0,
    info := if t.cls == 1 then payloadOf i % 2 ^ 32 else t.info }

/-- A cause with no operation behind it: a forced stop, with its detail. No bundle and no engine caused it, so IPC and ECID do not apply
and read zero (R207, R209, ST). -/
def forceCause (detail : Nat) : Cause :=
  { seq := 0, cls := 0x0B, detail := detail, async := false, bound := false, ecid := 0, ipc := 0, slot := 7, opc := 0,
    xv := false, xslot := 0, move := 0, kv := false, kstep := 0, vav := false, addr := 0, info := 0 }

/-- A cause found after issue (R214). -/
def lateCause (seq ecid ipc slot : Nat) (i : Instr) (t : Trap) (bound : Bool) : Cause :=
  { seq := seq, cls := t.cls, detail := t.detail, async := true, bound := bound, ecid := ecid, ipc := ipc, slot := slot,
    opc := opcodeOf i, xv := false, xslot := 0, move := 0, kv := false, kstep := 0, vav := t.addr.isSome,
    addr := t.addr.getD 0, info := if t.cls == 1 then payloadOf i % 2 ^ 32 else t.info }

/-- What an uncorrectable error in a snapshot entry or a latch raises where they are read back (R226, R331). -/
def Core.snapCauses (k : Core) : List Cause := if k.ueSnap then [{ forceCause 4 with cls := 5 }] else []

/-- A cause waits for the core's next bundle boundary (R204, R214). -/
def Core.addLate (k : Core) (x : Cause) : Core := { k with late := k.late ++ [x] }

/-- A cause found in an engine bound with a skew reaches the issuing cell when the skew has passed: the cycle in which it is found does not
count (R43, R214). -/
def Core.raise (k : Core) (skew : Nat) (x : Cause) : Core :=
  if skew = 0 then k.addLate x else { k with soon := k.soon ++ [(skew + 1, x)] }

/-- One schedule cycle of the causes on their way. -/
def Core.tickSoon (k : Core) : Core :=
  let l := k.soon.map (fun p => (p.1 - 1, p.2))
  { k with soon := l.filter (fun p => p.1 != 0), late := k.late ++ (l.filter (fun p => p.1 == 0)).map Prod.snd }

/-- The earliest cause: the one whose operation issued first (R205). -/
def earliest : Cause → List Cause → Cause
  | x, [] => x
  | x, y :: l => earliest (if y.seq < x.seq then y else x) l

/-- The fault record of a cause that lands now on core `c` (R209). -/
def State.record (s : State) (c : Nat) (x : Cause) (more : Nat) : FaultRec :=
  let k := s.core c
  { cls := x.cls, detail := x.detail, async := x.async, bound := x.bound, hnest := bit k.hand.epc.toNat 63, vav := x.vav,
    kv := x.kv, xv := x.xv, lid := s.lid c, ecid := x.ecid % 1024, pc := k.pc, rpt := k.rptLeft, ipc := x.ipc, slot := x.slot,
    opc := x.opc, xslot := x.xslot, move := x.move, kstep := x.kstep, addr := x.addr, time := s.now,
    info := if x.cls == 7 then (k.reg 1).toNat else x.info, scyc := k.cyc, more := min more 0xFFFFFFFF }

/-- The eight doublewords of a fault record (R209). -/
def FaultRec.words (r : FaultRec) : List Nat :=
  [ r.cls + r.detail * 2 ^ 8
      + (flag r.async + 2 * flag r.bound + 4 * flag r.hnest + 8 * flag r.vav + 16 * flag r.kv + 32 * flag r.xv) * 2 ^ 16
      + r.lid % 1024 * 2 ^ 32 + r.ecid % 1024 * 2 ^ 48,
    r.pc % 2 ^ 16 + r.rpt % 256 * 2 ^ 16 + r.ipc % 2 ^ 16 * 2 ^ 32,
    r.slot % 256 + r.opc % 256 * 2 ^ 8 + r.xslot % 256 * 2 ^ 16 + r.move % 256 * 2 ^ 24 + r.kstep % 2 ^ 32 * 2 ^ 32,
    r.addr % 2 ^ 64, r.time % 2 ^ 64, r.info % 2 ^ 64, r.scyc % 2 ^ 64, r.more % 2 ^ 32 ]

/-- A list of doublewords as a register family. -/
def wordsMap (l : List Nat) : SMap Word := mapSetAll 0 [] (l.zipIdx.map (fun p => (p.2, word p.1)))

/-- The stop goes to the cell's user handler: class SW or AR, enabled in HVEC, and not inside the handler (R208, R213). -/
def Core.handles (k : Core) (cls : Nat) : Bool :=
  !bit k.hand.epc.toNat 63 && ((cls == 7 && bit k.hand.hvec.toNat 16) || (cls == 6 && bit k.hand.hvec.toNat 17))

/-- The result belongs to a transfer, a gather, a collective or an XSTEP, which a stop does not touch (R71, R135). -/
def Flight.ofTransfer (f : Flight) : Bool := f.cnt == .cp || (f.slot == 5 && f.open_)

/-- The results of a core that stops: its transfers run on, and count among its results no more (R71, R135). -/
def Core.runOn (k : Core) : List Flight := k.flights.map (fun f => if f.ofTransfer then { f with ran := true } else f)

/-- Entry to the user handler (R211): the results in flight become the held entries, latches and RPTLEFT are saved, EPC and
FREC are written, and issue continues at HVEC.ENTRY. Operations that wait in a buffer wait for the return, and so does what the stop found
of waits, of a bundle's end and of faults on their way; a yield that had landed is only requested again (R213). `seq` is the last number
given. -/
def Core.enterHandler (k : Core) (r : FaultRec) (seq : Nat) : Core :=
  { k with
    hand := { k.hand with
      shadow := k.latches
      held := k.flights.filter (fun f => !f.ofTransfer)
      waits := k.waits
      wk := if k.st == .wait then k.waitk else 0
      since := seq
      popReq := k.popReq
      bindReq := k.bindReq
      soon := k.soon
      cyc := k.cyc
      lastIb := k.lastIb
      pend := k.shadow
      epc := word (k.pc % 2 ^ 16 + k.rptLeft % 256 * 2 ^ 16 + 2 ^ 63)
      frec := wordsMap r.words }
    flights := k.runOn.filter Flight.ofTransfer
    queue := k.queue.map (fun w => { w with held := true })
    popReq := false
    bindReq := none
    soon := []
    landing := false
    dueMore := 0
    shadow := []
    latches := []
    pc := field k.hand.hvec 15 0
    rptLeft := 0
    st := .run
    waitk := 0
    waits := Waits.none }

/-- A held entry as it replays from the schedule cycle after ERET (R73, R212): the cycle of ERET itself does not count, and `gone`
schedule cycles have passed since the stop, so that its digits and its chains go on where they stood (R61). -/
def Flight.replay (gone : Nat) (f : Flight) : Flight :=
  let f := { f with icyc := f.icyc + gone, start := f.start + gone }
  if f.landed then { f with skewl := f.skewl + 1 } else { f with rem := f.rem + 1 }

/-- Schedule cycles from the stop to the cycle after the present one. -/
def Core.handlerCycles (k : Core) : Nat := k.cyc + 1 - k.hand.cyc

/-- The waits that keep the core from issuing: RAWAIT's after each execution, the CTL slot's once its bundle's last one is over (R45, R320,
R374). -/
def Core.activeWaits (k : Core) : Waits := if k.rptLeft = 0 then k.waits else { k.waits with op := none, arg := 0 }

/-- WAITK of the waits in force (R45). -/
def Waits.code (w : Waits) : Nat :=
  match w.op, w.ring with
  | some (.wait ..), _ => 1
  | some .waitpred, _ => 2
  | some (.bar _), _ => 4
  | Option.none, some _ => 3
  | _, _ => 0

/-- Return from the handler (R212): latches, PC and RPTLEFT are restored, INH is cleared and the held entries replay. What waits in the
buffers and the shadowed writes go on once the cycle of ERET has passed. -/
def Core.leaveHandler (k : Core) : Core :=
  { k with
    latches := k.hand.shadow
    pc := field k.hand.epc 15 0
    rptLeft := field k.hand.epc 23 16
    flights := k.hand.held.map (Flight.replay k.handlerCycles) ++ k.flights
    lastIb := if k.hand.lastIb = 0 then 0 else k.hand.lastIb + k.handlerCycles
    st := if k.hand.wk = 0 then .run else .wait
    waits := k.hand.waits
    waitk := k.hand.wk
    hand := { k.hand with shadow := [], held := [], waits := Waits.none, wk := 0, leaving := true,
                          epc := word (k.hand.epc.toNat % 2 ^ 63) } }

/-- At the end of ERET's cycle the program's waiting operations, shadowed writes, faults on their way and what its bundle's end still owes go
on (R90, R212). -/
def Core.freeHeld (k : Core) : Core :=
  { k with
    queue := k.queue.map (fun w => if w.held then { w with held := false, icyc := w.icyc + (k.cyc - k.hand.cyc) } else w)
    shadow := k.hand.pend ++ k.shadow
    popReq := k.hand.popReq
    bindReq := k.hand.bindReq
    soon := k.hand.soon ++ k.soon
    hand := { k.hand with pend := [], leaving := false, popReq := false, bindReq := none, soon := [] } }

/-- The program that a handler returned to goes on from the next cycle, with the matrix operations that its stop drained (R212, R353). -/
def State.freeHeld (s : State) (c : Nat) : State :=
  if (s.core c).hand.leaving then
    { s.modCore c Core.freeHeld with mat := s.mat.map (fun (m : MatOp) => if m.owner == c && m.held == 4 then { m with held := 2 } else m) }
  else s

/-- The core stopped at its bundle boundary with its record filled (R71, R204, R209). -/
def Core.halted_ (k : Core) (r : FaultRec) : Core :=
  { k with st := .stopped, rec_ := some r, late := [], stopReq := none, holdCyc := 0, landing := false, flights := k.runOn, dueMore := 0 }

/-- A reported fault of a team: the one with the lower time, then the lower LID, is kept (R208). -/
def Team.report (t : Team) (r : FaultRec) : Team :=
  match t.fault with
  | none => { t with fault := some r, faultLid := r.lid }
  | some q =>
    if r.time < q.time || (r.time == q.time && r.lid < q.lid) then { t with fault := some r, faultLid := r.lid } else t

/-- The matrix operations of a core that stops are held: those that have failed are over, and those that its handler finds wait for the
handler's end (R211, R213). -/
def State.holdMats (s : State) (c : Nat) (taken : Bool) : State :=
  { s with mat := (s.mat.filter (fun (m : MatOp) => m.held != 3)).map (fun (m : MatOp) =>
    if m.owner == c && m.held != 4 then { m with held := if taken then 4 else 1 } else m) }

/-- A stop of core `c` lands now, at its bundle boundary (R204 to R211). With `forced` it is a stop that firmware demanded,
which no handler takes and nobody reports; otherwise it goes to the user handler where HVEC takes it, to the scheduler
where not (R208), and on a stoker it stops the stoker, whose role misses its heartbeat from this frame on (R178, R278). `more` counts the
causes after it, to which those come that were counted while the cell was stopped (R205, R215). -/
def State.landStop (s : State) (c : Nat) (x : Cause) (more : Nat) (forced : Bool) : State :=
  let r := s.record c x (more + (s.core c).dueMore)
  let s := s.count c 0x1C 1
  let s := s.holdMats c (!forced && !isStoker c && (s.core c).handles x.cls)
  if isStoker c then
    { s.modCore c (fun k => k.halted_ r) with firm := { s.firm with
      dead := s.firm.dead ++ [c - 1024]
      beat := mapSet false s.firm.beat (mapGet 3 s.firm.role (c - 1024)) false } }
  else if !forced && (s.core c).handles x.cls then
    s.modCore c (fun k => { k.enterHandler r s.seq with late := [] })
  else
    let s := s.modCore c (fun k => k.halted_ r)
    if forced then s
    else match s.teamOf c with
      | some t => s.modTeam t.id (fun t => t.report r)
      | none => s

/-- The stop of the executing core that a failed check at issue raises: it lands before the bundle (R204), so what the issue
of the bundle still owed is dropped, and the causes that waited count as later ones where they issued later (R205). -/
def State.stopAtIssue (s : State) (x : Cause) : State :=
  let late := (s.core s.ctx.cid).late
  let first := earliest x late
  { s.landStop s.ctx.cid first late.length false with ops := [], owed := Owed.none }

/-- The meaning of an instruction behind its checks at issue: the checks of a bundle have already passed for all its slots
when its operations execute (R204); alone, the instruction makes its own. -/
def State.guarded (s : State) (i : Instr) (check : Option Trap) (k : State → State) : Step :=
  if s.ctx.checked then .next (k s)
  else match check with
    | none => .next (k s)
    | some t => .next (s.stopAtIssue (s.issueCause i t))

/-! ## Results in flight -/

/-- A result in flight of the executing instruction, with the fields that most operations leave empty. -/
def State.newFlight (s : State) (i : Instr) (kind : Nat) (dest : Dest) (rem : Nat) : Flight :=
  { seq := s.seq + 1, slot := s.ctx.slot, op := i, ipc := s.ctx.ipc, eng := s.ctx.cid, kind := kind, dest := dest, rem := rem,
    open_ := false, free := false, skewl := 0, landed := false, sval := 0, lanes := [], flags := flagNone, fmt := s.cur.fmt, tok := 0,
    cnt := .none, sb := false, chain := none, icyc := s.cur.cyc, start := s.cur.cyc, eph := false, cutc := false, heldw := false, parts := 0, fault := none, ran := false }

/-- A result joins the results in flight, under the next issue number (R71). -/
def State.launch (s : State) (c : Nat) (f : Flight) : State :=
  { s.modCore c (fun k => { k with flights := k.flights ++ [f] }) with seq := s.seq + 1 }

/-- A scalar result of the executing instruction that lands at the end of schedule cycle t + `rem` (R32). -/
def State.scalarResult (s : State) (i : Instr) (d : BitVec 6) (rem : Nat) (v : Word) : State :=
  s.launch s.ctx.cid { s.newFlight i 3 (.scalar d.toNat) rem with sval := v }

/-- The same, with a scoreboarded destination (R47). -/
def State.scalarPending (s : State) (i : Instr) (d : BitVec 6) (rem : Nat) (v : Word) : State :=
  s.launch s.ctx.cid { s.newFlight i 3 (.scalar d.toNat) rem with sval := v, sb := true }

/-- The latch of the executing slot takes the operation as encoded, at the execution that encodes it (R34). -/
def State.latchOp (s : State) (i : Instr) (addr k0 row0 : Nat) : State :=
  if s.ctx.reissue then s else s.modCur (fun k => k.setLatch s.ctx.slot ⟨some i, addr, k0, row0⟩)

/-- The cell is inside its user handler (EPC.INH, R210). -/
def Core.inHandler (k : Core) : Bool := bit k.hand.epc.toNat 63

/-- Next instruction's bundle: a branch leaves the loop stack as it is (R29). -/
def State.jump (s : State) (target : Nat) : State :=
  { s.modCur (fun k => { k with pc := target % 2 ^ 16, rptLeft := 0 }) with owed := { s.owed with advance := false } }

end Sys2Proof.Machine
end

