-- ==== Sys2Proof/Machine/Order.lean ====
section
/-!
DEFINITION. Machine/Order.lean: memory by home (R92, R98 to R101, R148) and the ordering machine of R150 to R168: writes on
their way home, reads that find them, fences and ordered accesses as holds, and atomics at home.
-/
namespace Sys2Proof.Machine

/-! ## Homes -/

/-- What stands at a physical address (R98). -/
inductive Region where
  | hbm
  | park
  | scratch
  | window
  | host
  | hole
  deriving DecidableEq, Repr

/-- The region of a physical address, without regard to failed stacks (R98). -/
def regionOf (pa : Nat) : Region :=
  if pa < 0x20000000000 then .hbm
  else if pa < 0x40000000000 then .park
  else if pa < 0x40100000000 then .scratch
  else if pa < 0x40200000000 then .window
  else if pa < 0x8000000000000 then .hole
  else if pa < 0x10000000000000 then .host
  else .hole

/-- The row of the physical map that an address lies in: the two HBM4 views are rows of their own (R98, R104). -/
def mapRow (pa : Nat) : Nat :=
  if pa < 0x10000000000 then 0
  else if pa < 0x20000000000 then 1
  else if pa < 0x40000000000 then 2
  else if pa < 0x40100000000 then 3
  else if pa < 0x40200000000 then 4
  else if pa < 0x8000000000000 then 6
  else 5

/-- The canonical address of a byte of HBM4 under either view (R99, R100); other addresses name themselves. -/
def canonical (pa : Nat) : Nat :=
  if 0x10000000000 ≤ pa ∧ pa < 0x20000000000 then
    let q := pa - 0x10000000000
    let p := q % 0x2000000000
    p / 2 ^ 13 * 2 ^ 16 + (2 * (q / 0x2000000000) + p / 2 ^ 12 % 2) * 2 ^ 12 + p % 2 ^ 12
  else pa

/-- The stack of a canonical HBM4 address (R99). -/
def stackOf (pa : Nat) : Nat := bits pa 15 12

/-- Address of a byte of a cell's scratchpad in the physical map (R98). -/
def spKey (cid off : Nat) : Nat := 0x40000000000 + cid * 0x400000 + off

/-- The cell whose scratchpad holds a physical address. -/
def spCell (pa : Nat) : Nat := (pa - 0x40000000000) / 0x400000

/-- The bank of an offset (R94). -/
def bankOf (off : Nat) : Nat := off / 64 % 32

/-- The banks that a run of bytes touches. -/
def banksOf (off n : Nat) : List Nat := (List.range ((n + 63) / 64)).map (fun i => bankOf (off + 64 * i))

/-- The banks of the scratchpads that hold bytes serve an access in the present cycle (R94, R345). -/
def State.serve (s : State) (l : List Nat) : State :=
  { s with taken := s.taken ++ (((l.filter (fun pa => decide (regionOf pa = .scratch))).map (fun pa => pa / 64 * 64)).eraseDups).map (fun pa => (pa, 0)) }

/-- A bank of a cell's scratchpad serves another access in the present cycle; a scalar access that `meets` the bytes of the asking one
does not count (R94, R345). -/
def State.bankTaken (s : State) (cid : Nat) (meets : Nat → Nat → Bool) (b : Nat) : Bool :=
  s.taken.any (fun p => spCell p.1 == cid && bankOf (p.1 - 0x40000000000) == b && !(p.2 != 0 && meets p.1 p.2))

/-- Where a byte of a stoker's local memory stands in `mem`, above every physical address (R177). -/
def localKey (stk off : Nat) : Nat := 0x10000000000000 + (stk - 1024) * 0x40000 + off

/-- The physical address is a hole: no row covers it, its stack is out of the map, or it lies beyond a cell's SPCAP (R98,
R101). The management window is no hole. Of the park tier, what lies at or above PARKSIZE × 64 GiB is a hole (log 64: DESIGN CHOICE). -/
def State.isHole (s : State) (pa : Nat) : Bool :=
  match regionOf pa with
  | .hbm => !bit s.ident.hbmok (stackOf (canonical pa))
  | .park => decide (s.ident.parksize * 0x1000000000 ≤ pa - 0x20000000000)
  | .scratch => decide ((s.core (spCell pa)).spcap ≤ (pa - 0x40000000000) % 0x400000)
  | .window => false
  | .host => false
  | .hole => true

/-- The byte at home (R148); an unlisted byte reads 0 (log 2). -/
def State.home (s : State) (pa : Nat) : Byte := mapGet 0 s.mem (canonical pa)

/-- A byte written at home. -/
def State.setHome (s : State) (pa : Nat) (b : Byte) : State := { s with mem := mapSet 0 s.mem (canonical pa) b }

/-- Several bytes written at home. -/
def State.setHomes (s : State) (l : List (Nat × Byte)) : State := l.foldl (fun s p => s.setHome p.1 p.2) s

/-- Little-endian bytes of a natural at consecutive addresses (R4). -/
def bytesAt (pa n x : Nat) : List (Nat × Byte) :=
  (natBytes x n).zipIdx.map (fun p => (pa + p.2, BitVec.ofNat 8 p.1))

/-- `n` bytes at home as a little-endian natural. -/
def State.homeNat (s : State) (pa n : Nat) : Nat := bytesNat ((List.range n).map (fun i => (s.home (pa + i)).toNat))

/-- `n` bytes written at home from a natural. -/
def State.setHomeNat (s : State) (pa n x : Nat) : State := s.setHomes (bytesAt pa n x)

/-- Two runs of bytes overlap. -/
def overlaps (a n b m : Nat) : Bool := decide (a < b + m) && decide (b < a + n)

/-- A write touches a run of bytes. -/
def PendWrite.touches (w : PendWrite) (a n : Nat) : Bool := w.bytes.any (fun p => decide (a ≤ p.1) && decide (p.1 < a + n))

/-- Two writes touch a common byte. -/
def PendWrite.meets (w v : PendWrite) : Bool := w.bytes.any (fun p => v.bytes.any (fun q => p.1 == q.1))

/-- A cell's scratchpad is being copied to a migration's target (R226). -/
def State.movingCell (s : State) (c : Nat) : Bool := s.sched.migs.any (fun m => m.source == c)

/-- An access of cell `c` to an address waits for a migration (R449). The migrating cell's own stores and reads perform before
it leaves (R175). -/
def State.waitsMove (s : State) (c pa : Nat) (engine : Bool) : Bool :=
  regionOf pa == .scratch && s.movingCell (spCell pa) && (engine || c != spCell pa)

/-- The Unulo link carries accesses (R284, R285). -/
def State.hostUp (s : State) : Bool := let l := mapGet Link.reset s.links 18; l.up && !l.lost

/-- The link of a compute die has lost its training: what crosses it is held (R285, R286). -/
def State.dieLinkLost (s : State) (d : Nat) : Bool := (mapGet Link.reset s.links (19 + d)).lost

/-- An access of cell `c` to an address crosses a die link or the Unulo link that has lost its training. -/
def State.linkHeld (s : State) (c pa : Nat) : Bool :=
  let here := dieOf c
  (regionOf pa == .host && !s.hostUp) ||
  if regionOf pa == .scratch then
    let there := dieOf (spCell pa)
    here != there && ((decide (c < 1024) && s.dieLinkLost here) || s.dieLinkLost there)
  else decide (c < 1024) && s.dieLinkLost here

/-- A flit joins a link's sender (R287, R288). -/
def State.sendFlit (s : State) (link chan data : Nat) : State :=
  { s with links := mapModify Link.reset s.links link (fun l =>
      { l with window := l.window ++ [⟨l.nextOut, chan, data, 0⟩], nextOut := (l.nextOut + 1) % 4096 }) }

/-- Bytes that a read takes. -/
def ReadKind.size : ReadKind → Nat
  | .load n _ => n
  | .amo _ n _ => n
  | .cas n _ _ => n
  | .lane _ n _ => n

/-- The read is an atomic (R165). -/
def ReadKind.atomic : ReadKind → Bool
  | .amo .. => true
  | .cas .. => true
  | _ => false

/-! ## Visibility -/

/-- Rank of a place: the widest scope at which a write there is visible to its issuer's agents (R152). -/
def Place.rank : Place → Nat
  | .queue => 0
  | .cluster => 1
  | .die => 2

/-- The write is a transfer's: under way (slot 5) or of a transfer that has completed (slot 7) (R160). -/
def PendWrite.ofEngine (w : PendWrite) : Bool := w.slot == 5 || w.slot == 7

/-- The cell from whose cluster and die the write travels: an engine's own cell, or the issuing cell (R150). -/
def PendWrite.origin (w : PendWrite) : Nat := if w.ofEngine then w.own else w.cid

/-- The places a read by cell `c` searches before home, in order (R151): 0 from the write queue, 1 from the cluster buffer. -/
def PendWrite.seenFrom (w : PendWrite) (c : Nat) (p : Place) : Bool :=
  decide (w.place = p) &&
    match p with
    | .queue => w.cid == c
    | .cluster => clusterOf w.origin == clusterOf c
    | .die => dieOf w.origin == dieOf c

/-- The write of a list that issued last; of one access, the one that stands last. -/
def latestIssued : List PendWrite → Option PendWrite
  | [] => none
  | w :: l =>
    match latestIssued l with
    | none => some w
    | some v => some (if v.seq < w.seq then w else v)

/-- The youngest write to a byte in one place (R151): in a write queue the one issued last, in a buffer the one that entered it last,
which stands last among those in it. -/
def State.findIn (s : State) (c : Nat) (p : Place) (bun : Nat) (pa : Nat) : Option PendWrite :=
  let l := s.writes.filter (fun w => w.seenFrom c p && (w.cid != c || w.ofEngine || decide (w.bun < bun)) && w.touches pa 1)
  if p = .queue then latestIssued l else l.getLast?

/-- The byte that a read by cell `c` finds, with the own number of the write it takes it from while that is not at home (R151).
`first` is false for gather and collective engines, which start at the cluster buffer. A read does not find the stores of its
own bundle or later ones (R156); the writes of its engines it finds wherever they stand, as their places have it (R151). -/
def State.findByte (s : State) (c : Nat) (first : Bool) (bun pa : Nat) : Byte × Option Nat :=
  let a := canonical pa
  let at_ (w : PendWrite) : Byte × Option Nat := (((w.bytes.find? (fun p => p.1 == a)).map Prod.snd).getD 0, some w.id)
  match (if first then s.findIn c .queue bun a else none), s.findIn c .cluster bun a, s.findIn c .die bun a with
  | some w, _, _ => at_ w
  | none, some w, _ => at_ w
  | none, none, some w => at_ w
  | none, none, none => (s.home a, none)

/-- `n` bytes as found by cell `c`: the natural and the writes it came from. -/
def State.findNat (s : State) (c : Nat) (bun pa n : Nat) : Nat × List Nat :=
  let l := (List.range n).map (fun i => s.findByte c true bun (pa + i))
  (bytesNat (l.map (fun p => p.1.toNat)), l.filterMap Prod.snd)

/-- A write not yet home is visible at a scope of cell `c`: in its write queue at cell scope, in a cluster buffer at cluster scope of
that cluster's agents, in a die buffer at die scope of that die's (R152). -/
def PendWrite.visibleTo (w : PendWrite) (c scope : Nat) : Bool :=
  match w.place with
  | .queue => w.cid == c && scope == 0
  | .cluster => clusterOf w.origin == clusterOf c && decide (scope ≤ 1)
  | .die => dieOf w.origin == dieOf c && decide (scope ≤ 2)

/-- The write with own number `n` is visible at a scope of cell `c`, or home (R152). -/
def State.writeAt (s : State) (c n scope : Nat) : Bool := s.writes.all (fun w => w.id != n || w.visibleTo c scope)

/-- The access is prior to number `n` of cell `c` (R160). -/
def priorWrite (c n : Nat) (w : PendWrite) : Bool := w.cid == c && w.slot != 5 && decide (w.seq < n)

/-- Steps of an array operation that still have to fetch operands, or rows that MLDACC still has to read. -/
def MatOp.reads (m : MatOp) : Bool :=
  match m.op with
    | .mma f => m.fault.isNone && (!m.begun || decide (m.step < f.ks.toNat) || (m.step == f.ks.toNat && m.clock == m.len))
    | .mmas f => m.fault.isNone && (!m.begun || decide (m.step < f.ks.toNat) || (m.step == f.ks.toNat && m.clock == m.len))
    | .mldacc _ => !m.begun || decide (m.clock < 128)
    | _ => false

/-- Rows that MSTACC still has to store. -/
def MatOp.stores (m : MatOp) : Bool :=
  match m.op with
  | .mstacc _ => !m.begun || decide (m.done < 128)
  | _ => false

/-- What a stopped cell holds does not go on there: its team leaves its cells or is over, or the cell moves (R175). -/
def State.leftBehind (s : State) (c : Nat) : Bool :=
  (s.core c).st == .stopped && (s.movingCell c || (s.teamOf c).all (fun t => t.state != .resident))

/-- An operation that waits for the end of a user handler, if `held` says so, bears on an access numbered `n`: one that the program
issued, before the stop that entered the handler. The handler's own accesses go ahead of it (R211, R335, log 49). -/
def Core.bearsOn (k : Core) (held : Bool) (n : Nat) : Bool := !held || decide (n ≤ k.hand.since)

/-- The operation waits outside its engine: a stop drained it, or the stop that entered the user handler did (R211, R353). -/
def MatOp.away (m : MatOp) : Bool := m.held == 1 || m.held == 4

/-- A VEC or MAT operation that reads memory. -/
def isRead (i : Instr) : Bool :=
  match i with
  | .vld _ | .vgth _ | .mma _ | .mmas _ | .mldacc _ => true
  | _ => false

/-- A VEC or MAT operation that stores. -/
def isVecStore (i : Instr) : Bool :=
  match i with
  | .vst _ | .vsct _ | .mstacc _ => true
  | _ => false

/-- A VEC or MAT operation of cell `c` that issued before number `n` has still to read memory. -/
def State.readsLeft (s : State) (c n : Nat) : Bool :=
  (s.core c).queue.any (fun w => (s.core c).bearsOn w.held n && isRead w.op && decide (w.seq < n))
    || s.mat.any (fun m => m.owner == c && (s.core c).bearsOn (m.held == 4) n && m.held != 3 && m.reads && decide (m.seq < n))

/-- The same of stores. -/
def State.storesLeft (s : State) (c n : Nat) : Bool :=
  (s.core c).queue.any (fun w => (s.core c).bearsOn w.held n && isVecStore w.op && decide (w.seq < n))
    || s.mat.any (fun m => m.owner == c && (s.core c).bearsOn (m.held == 4) n && m.stores && decide (m.seq < n))

/-- Either, wherever it is to go on: an arrival at a barrier waits for it (R171). -/
def State.leftToCome (s : State) (c n : Nat) : Bool := s.readsLeft c n || s.storesLeft c n

/-- Reads that go on at the cell: a stop changes nothing of them (R161, R175, R335); what a cell leaves behind reads no more there. -/
def State.readsToCome (s : State) (c n : Nat) : Bool := !s.leftBehind c && s.readsLeft c n

/-- The same of stores. -/
def State.storesToCome (s : State) (c n : Nat) : Bool := !s.leftBehind c && s.storesLeft c n

/-- Every read of cell `c` numbered below `n` has performed (R161, acq). -/
def State.readsDone (s : State) (c n : Nat) : Bool :=
  !s.reads.any (fun r => r.cid == c && decide (r.seq < n)) && !s.readsToCome c n

/-- Every read of cell `c` numbered below `n`, and every write numbered below `m`, has performed at a scope of it (R152, R161). -/
def State.doneBefore (s : State) (c n m scope : Nat) : Bool :=
  s.readsDone c n && !s.storesToCome c m && s.writes.all (fun w => !priorWrite c m w || w.visibleTo c scope)
    && s.from_.all (fun f => f.cid != c || decide (n ≤ f.seq) || s.writeAt c f.wid scope)

/-- Every access of cell `c` numbered below `n` has performed at a scope (R152, R161). -/
def State.priorDone (s : State) (c n scope : Nat) : Bool := s.doneBefore c n n scope

/-- The access numbered `n` itself has performed at a scope, or at all where the scope is 0 (R164). -/
def State.selfDone (s : State) (c n scope : Nat) : Bool :=
  !s.reads.any (fun r => r.cid == c && r.seq == n)
    && s.writes.all (fun w => !(w.cid == c && w.seq == n) || w.visibleTo c scope)
    && s.from_.all (fun f => !(f.cid == c && f.seq == n) || s.writeAt c f.wid scope)

/-- The fence still holds later accesses (R161, R164). -/
def State.fenceHolds (s : State) (f : Fence) : Bool :=
  if f.self then !s.selfDone f.cid f.seq f.scope
  else if f.acq then !s.readsDone f.cid f.seq
  else !s.priorDone f.cid f.seq f.scope

/-- A fence bears on an access of the cell: the access is later, and of a kind the fence holds (R161, R164). -/
def Fence.bears (f : Fence) (c n bun : Nat) (write : Bool) : Bool :=
  f.cid == c && decide (f.seq < n) && (if write then f.writes else f.reads) && !(f.store && !write && f.bun == bun)

/-- An access is held by a fence of its cell (R162). -/
def State.fenced (s : State) (c n bun : Nat) (write : Bool) : Bool :=
  s.fences.any (fun f => f.bears c n bun write && s.fenceHolds f)

/-- An access's own order holds it: a release or sc access until every prior access has performed at its scope, of the reads those
numbered below `n` and of the writes those numbered below `m` (R164). -/
def State.selfHeld (s : State) (c n m : Nat) (hold : Option Nat) : Bool :=
  match hold with
  | none => false
  | some scope => !s.doneBefore c n m scope

/-- A write is held (R162). -/
def State.writeHeld (s : State) (w : PendWrite) : Bool :=
  (!w.ofEngine && s.fenced w.cid w.seq w.bun true) || s.selfHeld w.cid w.seq w.seq w.hold

/-- A read is held (R162); one that writes is held as a write too. No order holds a load behind a store of its own bundle (R164). -/
def State.readHeld (s : State) (r : PendRead) : Bool :=
  s.fenced r.cid r.seq r.bun false || (r.kind.atomic && s.fenced r.cid r.seq r.bun true)
    || s.selfHeld r.cid r.seq (if r.kind.atomic then r.seq else r.bun + 1) r.hold

/-- The hold of an access of cell `c` waits for VEC or MAT operations of the cell itself, which only cycles of its schedule bring on. -/
def State.holdNeedsCycles (s : State) (c : Nat) : Bool :=
  s.fences.any (fun f => f.cid == c && !f.self && (s.readsToCome c f.seq || (!f.acq && s.storesToCome c f.seq)))
    || s.reads.any (fun r => r.cid == c && r.hold.isSome && (s.readsToCome c r.seq || s.storesToCome c r.seq))
    || s.writes.any (fun w => w.cid == c && w.hold.isSome && (s.readsToCome c w.seq || s.storesToCome c w.seq))

/-! ## Orders (R163, R164) -/

/-- The hold that an access's order puts on it: rel, ar and sc wait for prior accesses at the scope. -/
def orderHold (ord scp : Nat) : Option Nat := if 2 ≤ ord then some scp else none

/-- The fence that an ordered access leaves for later ones: acq and ar until it has performed, sc until it has performed at
the scope. -/
def orderFence (c seq bun ord scp : Nat) (store : Bool) : List Fence :=
  if ord == 1 || ord == 3 then [⟨c, seq, true, true, false, true, store, bun, 0⟩]
  else if ord == 4 then [⟨c, seq, true, true, false, true, store, bun, scp⟩]
  else []

/-! ## Writes -/

/-- The next place of a write on its way home; none is home itself (R150). A write to a scratchpad of the issuer's cluster
passes no buffer, one to its die only the cluster buffer. -/
def PendWrite.nextPlace (w : PendWrite) : Option Place :=
  let home := (w.bytes.head?.map Prod.fst).getD 0
  let inCluster := decide (regionOf home = .scratch) && clusterOf (spCell home) == clusterOf w.origin
  let inDie := decide (regionOf home = .scratch) && dieOf (spCell home) == dieOf w.origin
  match w.place with
  | .queue => if inCluster then none else some .cluster
  | .cluster => if inDie then none else some .die
  | .die => none

/-- Two writes stand in one buffer (R150). -/
def PendWrite.sameBuffer (v w : PendWrite) : Bool :=
  v.place == w.place &&
    match w.place with
    | .queue => v.cid == w.cid
    | .cluster => clusterOf v.origin == clusterOf w.origin
    | .die => dieOf v.origin == dieOf w.origin

/-- Write `v` was issued before `w` by the same agent: a cell, whose completed transfers' writes count as its own, or its engines (R150,
R170). -/
def PendWrite.before (v w : PendWrite) : Bool :=
  v.cid == w.cid && (if v.ofEngine && w.ofEngine then decide (v.id < w.id) else (!v.ofEngine || v.slot == 7) && !w.ofEngine && decide (v.seq < w.seq))

/-- Write `v` has passed the point that `w` moves to, or stands in the buffer there. -/
def PendWrite.ahead (v w : PendWrite) : Bool :=
  match w.nextPlace with
  | none => false
  | some p => decide (p.rank < v.place.rank) || v.sameBuffer { w with place := p }

/-- An earlier read of the cell took bytes of a write that is still behind on its way: a later write of the cell to those bytes comes after
it (R153). -/
def State.readFirst (s : State) (w : PendWrite) : Bool :=
  !w.ofEngine && s.from_.any (fun f => f.cid == w.cid && decide (f.seq < w.seq)
    && s.writes.any (fun v => v.id == f.wid && v.id != w.id && !v.ahead w && v.meets w))

/-- A write may move on: nothing holds it, every older write of its agent to the same bytes is ahead (R150), and so is every write that its
cell has read there (R153), none that entered its buffer earlier holds the same bytes (R151, R153), and no earlier read of its cell to
those bytes waits (R153, R156). -/
def State.mayAdvance (s : State) (w : PendWrite) : Bool :=
  !(w.place == .queue && s.writeHeld w)
    && !(w.nextPlace.isNone && w.bytes.any (fun p => s.waitsMove w.cid p.1 w.ofEngine || s.linkHeld w.origin p.1))
    && !s.writes.any (fun v => v.before w && !v.ahead w && v.meets w) && !s.readFirst w
    && !(w.place != .queue && (s.writes.takeWhile (fun v => v.id != w.id)).any (fun v => v.sameBuffer w && v.meets w))
    && !s.reads.any (fun r => !w.ofEngine && r.cid == w.cid
          && (if r.kind.atomic then decide (r.seq < w.seq) else decide (r.bun ≤ w.bun)) && w.touches (canonical r.addr) r.kind.size)

/-- A result in flight changed by its issue number, at whichever core it belongs to. -/
def Core.modFlight (k : Core) (n : Nat) (f : Flight → Flight) : Core :=
  { k with flights := k.flights.map (fun x => if x.seq == n then f x else x),
           hand := { k.hand with held := k.hand.held.map (fun x => if x.seq == n then f x else x) } }

/-- One of the accesses that a result waits for has performed: with the last one, it is written once its latency is over. -/
def Flight.partDone (f : Flight) : Flight :=
  if f.parts ≤ 1 then { f with parts := 0, open_ := false } else { f with parts := f.parts - 1 }

/-- A result found faulty in schedule cycle `cyc` of its core: its cause waits for its landing (R214). ASYNC says that this is
later than its issue (R209). -/
def Flight.fail (f : Flight) (c cyc : Nat) (t : Trap) : Flight :=
  match f.fault with
  | some _ => f
  | none => { f with fault := some { lateCause f.seq f.eng f.ipc f.slot f.op t (f.eng != c) with async := cyc != f.icyc } }

/-! ## Encrypted device memory -/

/-- The address lies in HBM4 or the park tier, where the AES units stand (R117, R118). -/
def encrypted (pa : Nat) : Bool := regionOf pa == .hbm || regionOf pa == .park

/-- The 16-byte blocks that a run of bytes touches, by canonical address. -/
def blocksOf (l : List (Nat × Byte)) : List Nat := (l.map (fun p => canonical p.1 / 16 * 16)).eraseDups

/-- The bytes of a run that lie in one block, over the block's own bytes. -/
def overBlock (l : List (Nat × Byte)) (b : Nat) (old : List Nat) : List Nat :=
  old.zipIdx.map (fun p => ((l.find? (fun q => canonical q.1 == b + p.2)).map (fun q => q.2.toNat)).getD p.1)

/-- The 16 stored bytes of a block. -/
def State.block (s : State) (b : Nat) : List Nat := (List.range 16).map (fun i => (s.home (b + i)).toNat)

/-- One block written under a key, as one read, decrypt, merge, encrypt and write (R118). -/
def State.setKeyedBlock (s : State) (key : Nat) (l : List (Nat × Byte)) (b : Nat) : State :=
  let new := xtsEncrypt key b (overBlock l b (xtsDecrypt key b (s.block b)))
  s.setHomes (new.zipIdx.map (fun p => (b + p.2, BitVec.ofNat 8 p.1)))

/-- Bytes written at home, under a key where one is given. -/
def State.putHome (s : State) (key : Option Nat) (l : List (Nat × Byte)) : State :=
  match key with
  | none => s.setHomes l
  | some k => (blocksOf l).foldl (fun s b => s.setKeyedBlock k l b) s

/-! ## Uncorrectable errors on the way home -/

/-- A run of bytes covers an 8-byte granule whole. Lanes are narrower: however many of a `narrow` run meet in a granule, each merges into
it (R431). -/
def coversGranule (narrow : Bool) (l : List (Nat × Byte)) (d : Nat) : Bool :=
  !narrow && (List.range 8).all (fun i => l.any (fun p => canonical p.1 == 8 * d + i))

/-- The marked granules that a run of bytes covers only in part (R393). -/
def State.spoiled (s : State) (l : List (Nat × Byte)) (narrow : Bool := false) : List Nat :=
  s.ueMem.filter (fun d => l.any (fun p => canonical p.1 / 8 == d) && !coversGranule narrow l d)

/-- Scratchpad bytes with those of granules that keep their error left out (R393, R433). -/
def State.soundBytes (s : State) (l : List (Nat × Byte)) (narrow : Bool := false) : List (Nat × Byte) :=
  l.filter (fun p => !(regionOf p.1 == .scratch && (s.spoiled l narrow).contains (canonical p.1 / 8)))

/-- Granules written whole get fresh check bits (R393). -/
def State.healed (s : State) (l : List (Nat × Byte)) (narrow : Bool := false) : List Nat :=
  s.ueMem.filter (fun d => !coversGranule narrow l d)

/-- The write is one of lanes: a vector store's (R431). -/
def PendWrite.narrow (w : PendWrite) : Bool := w.slot == 3

/-- The transfer that a write belongs to fails. -/
def Xfer.fail (x : Xfer) (c : Cause) : Xfer :=
  match x.fault with
  | some _ => x
  | none => { x with fault := some c }

/-- What a write that met an uncorrectable error tells the operation behind it (R214, R393). -/
def State.reportSpoiled (s : State) (w : PendWrite) : State :=
  match (s.soundBytes w.bytes w.narrow).length == w.bytes.length, s.spoiled w.bytes w.narrow with
  | false, d :: _ =>
    let shown := (8 * d - 0x40000000000) % 2 ^ 32
    let s := if w.flight = 0 then s
      else s.modCore w.cid (fun k => k.modFlight w.flight (fun f => f.fail w.cid (s.core w.cid).cyc (trapAt 5 0x00 shown)))
    match w.xfer with
    | none => s
    | some (key, n) =>
      { s with xfers := s.xfers.map (fun p =>
          if p.1 == key && p.2.acc.any (fun a => a.n == n) then
            let j := ((p.2.acc.find? (fun a => a.n == n)).map Access.move).getD 0
            (p.1, p.2.fail { lateCause p.2.seq p.2.eng p.2.ipc 5 (p.2.op.getD .nopXfr) (trapAt 5 0x00 shown)
                               (p.2.eng != p.2.owner) with xv := p.2.kind == .copy, xslot := key % 8, move := j })
          else p) }
  | _, _ => s

/-- One-bit errors in granules of cell `c`'s scratchpad are corrected, written back, and counted at the cell (R95). -/
def State.correct (s : State) (c : Nat) (l : List Nat) : State :=
  if l.isEmpty then s else { s.count c 0x15 l.length with ceMem := s.ceMem.filter (fun d => !l.contains d) }

/-- A run of bytes of a scratchpad is read: the one-bit errors in it are corrected (R95). -/
def State.scrub (s : State) (pa n : Nat) : State :=
  s.correct (spCell (canonical pa)) (s.ceMem.filter (fun d => overlaps (8 * d) 8 (canonical pa) n))

/-- Several runs of bytes are read (R95). -/
def State.scrubAll (s : State) (l : List (Nat × Nat)) : State :=
  if s.ceMem.isEmpty then s else l.foldl (fun s p => s.scrub p.1 p.2) s

/-- A run of bytes is written: doublewords that it covers whole take fresh check bits, the others are read for the merge (R95, R393). -/
def State.rewrite (s : State) (l : List (Nat × Byte)) : State :=
  if s.ceMem.isEmpty then s
  else
    let whole (d : Nat) : Bool := (List.range 8).all (fun i => l.any (fun p => canonical p.1 == 8 * d + i))
    ({ s with ceMem := s.ceMem.filter (fun d => !whole d) } : State).scrubAll (l.map (fun p => (p.1, 1)))

/-- A write has reached home: its bytes are in memory, reads that took it have it visible everywhere, and what waits for it
goes on. -/
def State.reachHome (s : State) (w : PendWrite) : State :=
  let s := (s.reportSpoiled w).rewrite w.bytes
  let s := { s.putHome w.key (s.soundBytes w.bytes w.narrow) with
    ueMem := s.healed w.bytes w.narrow
    writes := s.writes.filter (fun v => v.id != w.id)
    from_ := s.from_.filter (fun f => f.wid != w.id) }
  let s := if w.flight = 0 then s else s.modCore w.cid (fun k => k.modFlight w.flight Flight.partDone)
  { s with mat := s.mat.map (fun m => if m.seq == w.flight && m.owner == w.cid then { m with writes := m.writes - 1 } else m) }

/-- One move of a write on its way (R150): it enters a buffer behind those that entered it earlier. -/
def State.advanceWrite (s : State) (w : PendWrite) : State :=
  if s.mayAdvance w then
    match w.nextPlace with
    | none => s.reachHome w
    | some p => { s with writes := s.writes.filter (fun v => v.id != w.id) ++ [{ w with place := p }] }
  else s

/-- A write to a cell's own scratchpad that nothing holds and nothing older overlaps goes straight to home (R150, R156). -/
def State.goesHome (s : State) (w : PendWrite) : Bool :=
  decide (w.place = .queue) && w.bytes.all (fun p => decide (regionOf p.1 = .scratch) && spCell p.1 == w.own) && s.mayAdvance w

/-- Fences that hold nothing more are dropped. -/
def State.dropFences (s : State) : State := { s with fences := s.fences.filter (fun f => s.fenceHolds f) }

/-! ## Reads and atomics -/

/-- The result of a loaded value of `n` bytes in a 64-bit register (R344). -/
def loadExtend (n : Nat) (sext : Bool) (x : Nat) : Word :=
  word (if sext then wrapInt 64 (signedOf (8 * n) x) else x)

/-- The new value of an AMO (R297, R318). -/
def amoResult (op n : Nat) (old operand : Nat) : Nat :=
  let w := 8 * n
  let b := operand % 2 ^ w
  match op with
  | 0 => (old + b) % 2 ^ w
  | 1 => (BitVec.ofNat w old &&& BitVec.ofNat w b).toNat
  | 2 => (BitVec.ofNat w old ||| BitVec.ofNat w b).toNat
  | 3 => (BitVec.ofNat w old ^^^ BitVec.ofNat w b).toNat
  | 4 => if signedOf w old ≤ signedOf w b then old else b
  | 5 => if signedOf w old ≤ signedOf w b then b else old
  | 6 => min old b
  | 7 => max old b
  | _ => b

/-- Earlier writes of the cell to the bytes of an atomic have reached home (R165, R170). -/
def State.atomicReady (s : State) (r : PendRead) : Bool :=
  !s.writes.any (fun w => w.cid == r.cid && w.slot != 5 && decide (w.seq < r.seq) && w.touches (canonical r.addr) r.kind.size)

/-- An uncorrectable error stands in a run of bytes at home (R95). -/
def State.ueIn (s : State) (pa n : Nat) : Bool := s.ueMem.any (fun d => overlaps (8 * d) 8 (canonical pa) n)

/-- A read by cell `c` takes a byte from a granule with an uncorrectable error (R95). -/
def State.readsUe (s : State) (c bun pa n : Nat) : Bool :=
  s.ueIn pa n && (List.range n).any (fun i => s.ueIn (pa + i) 1 && (s.findByte c true bun (pa + i)).2 == none)

/-- A value lands in the result in flight that waits for it. -/
def Flight.take (f : Flight) (kind : ReadKind) (x : Nat) : Flight :=
  match kind with
  | .load n sext => Flight.partDone { f with sval := loadExtend n sext x }
  | .amo _ n _ => Flight.partDone { f with sval := loadExtend n false x }
  | .cas n _ _ => Flight.partDone { f with sval := loadExtend n false x }
  | .lane l n sext =>
    let v : Lane := BitVec.ofNat 32 (if sext then wrapInt 32 (signedOf (8 * n) x) else x)
    let set (p : LaneRes × Nat) : LaneRes := if p.2 == l then { p.1 with val := v } else p.1
    Flight.partDone { f with lanes := f.lanes.zipIdx.map set }

/-- The read at the head of its hold performs (R151, R157, R165): a load takes each byte where R151 finds it; an atomic reads
home and writes home as one step. The value lands in the flight that waits. -/
def State.performRead (s : State) (r : PendRead) : State :=
  let s0 := ({ s with reads := s.reads.filter (fun q => q.seq != r.seq || q.cid != r.cid || q.kind != r.kind) } : State).scrub r.addr r.kind.size
  let ue := if r.kind.atomic then s0.ueIn r.addr r.kind.size else s0.readsUe r.cid r.bun r.addr r.kind.size
  if ue then
    s0.modCore r.cid (fun k => k.modFlight r.flight
      (fun f => (f.fail r.cid (s0.core r.cid).cyc (trapAt 5 0x00 ((r.addr - 0x40000000000) % 2 ^ 32))).partDone))
  else match r.kind with
  | .amo op n operand =>
    let old := s0.homeNat r.addr n
    (s0.setHomeNat r.addr n (amoResult op n old operand.toNat)).modCore r.cid
      (fun k => k.modFlight r.flight (fun f => f.take r.kind old))
  | .cas n expected new =>
    let old := s0.homeNat r.addr n
    let won := old == expected.toNat % 2 ^ (8 * n)
    let s1 := if won then s0.setHomeNat r.addr n new.toNat else s0
    let s1 := { s1 with fences := s1.fences ++ orderFence r.cid r.seq r.bun (if won then r.ord else r.ordf) r.scp false }
    s1.modCore r.cid (fun k => k.modFlight r.flight (fun f => f.take r.kind old))
  | .load n _ =>
    let v := s0.findNat r.cid r.bun r.addr n
    ({ s0 with from_ := s0.from_ ++ v.2.map (fun w => (⟨r.cid, r.seq, w⟩ : ReadFrom)) }).modCore r.cid
      (fun k => k.modFlight r.flight (fun f => f.take r.kind v.1))
  | .lane _ n _ =>
    let v := s0.findNat r.cid r.bun r.addr n
    ({ s0 with from_ := s0.from_ ++ v.2.map (fun w => (⟨r.cid, r.seq, w⟩ : ReadFrom)) }).modCore r.cid
      (fun k => k.modFlight r.flight (fun f => f.take r.kind v.1))

/-- A read may perform now: no hold is on it, and an atomic's earlier overlapping writes are home; an earlier read or atomic
of its cell to the same bytes comes first (R153). -/
def State.mayPerform (s : State) (r : PendRead) : Bool :=
  !s.readHeld r && (!r.kind.atomic || s.atomicReady r) && !s.waitsMove r.cid r.addr false && !s.linkHeld r.cid r.addr
    && !s.reads.any (fun q => q.cid == r.cid && decide (q.seq < r.seq)
          && overlaps (canonical q.addr) q.kind.size (canonical r.addr) r.kind.size)

/-- An earlier atomic of the cell to the bytes of a read has not performed: the read waits for it (R153). -/
def State.atomicAhead (s : State) (c pa n : Nat) : Bool :=
  s.reads.any (fun r => r.cid == c && r.kind.atomic && overlaps (canonical r.addr) r.kind.size pa n)

/-- A write of the executing instruction joins the ordering machine. -/
def State.store (s : State) (c own : Nat) (bytes : List (Nat × Byte)) (ord scp flight : Nat) : State :=
  let w : PendWrite := ⟨s.seq, s.ctx.bun, c, own, .queue, bytes, orderHold ord scp, s.ctx.slot, flight, none, none, none, 256 * s.seq, 0⟩
  { s with writes := s.writes ++ [w], fences := s.fences ++ orderFence c s.seq s.ctx.bun ord scp true }

end Sys2Proof.Machine
end

