-- ==== Sys2Proof/Machine/Operands.lean ====
section
/-!
DEFINITION. Machine/Operands.lean: operand forms: the words of a bundle in instruction memory (R291), scratchpad addresses
and their checks (R92, R93, R177).
-/
namespace Sys2Proof.Machine

/-! ## Instruction words -/

/-- Words that a core can execute from: instruction memory of a cell, local memory of a stoker (R292, R308). -/
def codeLimit (c : Nat) : Nat := if isStoker c then 65536 else 49152

/-- Word `n` of the code of a core. -/
def State.codeWord (s : State) (c n : Nat) : Nat :=
  if isStoker c then s.homeNat (localKey c (4 * n)) 4 else (mapGet 0 (s.core c).imem n).toNat

/-- Step 1 of R292: the tag is 0xA and bits 11:0 are zero. -/
def headerOk (h : Nat) : Bool := h / 2 ^ 28 == 10 && h % 2 ^ 12 == 0

/-- A slot's PRES bit in a header, by slot number 0 to 6 (R291). -/
def present (h slot : Nat) : Bool := bit h (21 + slot)

/-- Words of a slot's payload (R291). -/
def slotWords (slot : Nat) : Nat := if slot == 3 || slot == 4 || slot == 5 then 2 else 1

/-- Payload words of a header (R291). -/
def payloadWords (h : Nat) : Nat :=
  (List.range 7).foldl (fun n slot => if present h slot then n + slotWords slot else n) 0

/-- RPT of a header (R291). -/
def headerRpt (h : Nat) : Nat := bits h 20 13

/-- IB of a header (R291). -/
def headerIb (h : Nat) : Bool := bit h 12

/-- Place of a slot's payload after the header word at `pc`. -/
def payloadAt (h pc slot : Nat) : Nat :=
  (List.range slot).foldl (fun n j => if present h j then n + slotWords j else n) (pc + 1)

/-- A slot's payload: one word, or two with the low word first (R291). -/
def State.payload (s : State) (c h pc slot : Nat) : Nat :=
  let w := payloadAt h pc slot
  if slotWords slot == 1 then s.codeWord c w else s.codeWord c w + 2 ^ 32 * s.codeWord c (w + 1)

/-- The format of a slot (R296 to R305). -/
def slotFormat (slot : Nat) : Format :=
  match slot with
  | 0 => .c32
  | 1 => .s32
  | 2 => .s32
  | 3 => .v64
  | 4 => .m64
  | 5 => .x64
  | _ => .g32

/-! ## Scratchpad addresses -/

/-- The cell that a CID names to core `c`: itself, a cell of its team, or the new cell of migrated work (R92, R93, R226). -/
def State.target (s : State) (c cid : Nat) : Option Nat :=
  if cid == c then some c else (s.teamOf c).bind (fun t => t.resolve cid)

/-- An address operand: local offsets name the cell `own`, global addresses the cell of their bits 31:22 (R92). -/
def addrCell (own : Nat) (g : Bool) (a : Nat) : Nat := if g then bits a 31 22 else own

/-- The offset of an address operand (R92). -/
def addrOffset (a : Nat) : Nat := bits a 21 0

/-- The failing address that a record shows: the local offset, or the global address (R209). -/
def shownAddr (g : Bool) (a : Nat) : Nat := if g then a % 2 ^ 32 else addrOffset a

/-- The checks of R93 on an access of `n` bytes at an offset of the cell that `cid` names, aligned to `al`. -/
def State.spCheck (s : State) (c cid off n al shown : Nat) : Option Trap :=
  match s.target c cid with
  | none => some (trapAt 3 0x02 shown)
  | some q =>
    if off % al != 0 then some (trapAt 2 0x00 shown)
    else if (s.core q).spcap < off + n then some (trapAt 8 0x00 shown)
    else none

/-- Physical place of an offset of the cell that a CID names. -/
def State.spAddr (s : State) (c cid off : Nat) : Nat := spKey ((s.target c cid).getD cid) off

/-- The access of core `c` through an engine of cell `own` is local: the address names that cell's scratchpad (R92). -/
def State.isLocal (s : State) (c own cid : Nat) : Bool := s.target c cid == some own

/-- Scratchpad bytes accessed by core `c` through an engine of `own`, counted by distance (R227, events 0x0E to 0x10). -/
def State.countBytes (s : State) (c own cell n : Nat) : State :=
  s.count c (if cell == own then 0x0E else if dieOf cell == dieOf own then 0x0F else 0x10) n

/-- The checks of R177 on a stoker's access of `n` bytes. -/
def State.stokerCheckAddr (s : State) (a : Word) (n : Nat) : Option Trap :=
  if bit a.toNat 63 then
    if field a 62 52 != 0 then some (trapAt 3 0x03 a.toNat)
    else if a.toNat % n != 0 then some (trapAt 2 0x00 a.toNat)
    else if s.isHole (field a 51 0) then some (trapAt 4 0x02 a.toNat)
    else none
  else if a.toNat % n != 0 then some (trapAt 2 0x00 a.toNat)
  else if 0x40000 < a.toNat + n then some (trapAt 8 0x0D a.toNat)
  else none

/-- Where a stoker's checked address stands (R177). -/
def stokerAddr (c : Nat) (a : Word) : Nat := if bit a.toNat 63 then field a 51 0 else localKey c a.toNat

/-- Orders that an access may carry (R163), with a scope of 0 to 4. -/
def orderCheck (ok : Bool) (scp : Nat) : Option Trap := if ok && decide (scp ≤ 4) then none else some (trapIL 0x08)

/-- The first check that fails. -/
def firstTrap : List (Option Trap) → Option Trap
  | [] => none
  | none :: l => firstTrap l
  | some t :: _ => some t

end Sys2Proof.Machine
end

