-- ==== Sys2Proof/Machine/Scalar.lean ====
section
/-!
DEFINITION. Machine/Scalar.lean: the register-only operations of SA and SB (R316 to R378): the two-operand mould, the
division mould, compares, selects and moves.
-/
namespace Sys2Proof.Machine

/-- FORMAT where the type is not accepted (R297). -/
def typeCheck (ok : Bool) : Option Trap := if ok then none else some (trapIL 0x07)

/-- ENCODING where a field holds what its layout does not allow (R293). -/
def encodingCheck (ok : Bool) : Option Trap := if ok then none else some trapEncoding

/-- The checks at issue of the register-only operations of SA and SB. -/
def scalarCheck (i : Instr) : Option Trap :=
  match i with
  | .addSr _ _ _ t => typeCheck (arithType t)
  | .subSr _ _ _ t => typeCheck (arithType t)
  | .mulSr _ _ _ t => typeCheck (arithType t)
  | .mulh _ _ _ t => typeCheck (arithType t)
  | .div _ _ _ t => typeCheck (arithType t)
  | .rem _ _ _ t => typeCheck (arithType t)
  | .minSr _ _ _ t => typeCheck (arithType t)
  | .maxSr _ _ _ t => typeCheck (arithType t)
  | .andSr _ _ _ t => typeCheck (logicType t)
  | .orSr _ _ _ t => typeCheck (logicType t)
  | .xorSr _ _ _ t => typeCheck (logicType t)
  | .andnSr _ _ _ t => typeCheck (logicType t)
  | .shlSr _ _ _ t => typeCheck (logicType t)
  | .shrSr _ _ _ t => typeCheck (logicType t)
  | .sraSr _ _ _ t => typeCheck (logicType t)
  | .clz _ _ t => typeCheck (logicType t)
  | .popc _ _ t => typeCheck (logicType t)
  | i => encodingCheck (WellFormed i)

/-- An operation of the mould of R316: no effect but sD, written at the end of cycle t + `rem`. -/
def State.mould (s : State) (i : Instr) (d : BitVec 6) (rem : Nat) (v : Word) : Step :=
  s.guarded i (scalarCheck i) (fun s => (s.latchOp i 0 0 0).scalarResult i d rem v)

/-- A two-operand result in layout SR: `f` acts on the low w bits of each source, and Ext widens what it gives (R316). -/
def extSR (t : BitVec 4) (f : Nat → Nat → Nat → Nat) (a b : Word) : Word :=
  let w := formatWidth t.toNat
  word (extendTo 64 t.toNat (f w (lowBits w a.toNat) (lowBits w b.toNat)))

/-- The 11-bit immediate, sign-extended (R298). -/
def immSigned (imm : BitVec 11) : Word := imm.signExtend 64

/-- The 11-bit immediate, zero-extended (R298). -/
def immZero (imm : BitVec 11) : Word := imm.zeroExtend 64

/-- The sum of R317. -/
def addBits (w a b : Nat) : Nat := (a + b) % 2 ^ w
/-- The difference of R394. -/
def subBits (w a b : Nat) : Nat := (a + 2 ^ w - b) % 2 ^ w
/-- AND of R317. -/
def andBits (_ a b : Nat) : Nat := a &&& b
/-- OR of R370. -/
def orBits (_ a b : Nat) : Nat := a ||| b
/-- XOR of R439. -/
def xorBits (_ a b : Nat) : Nat := a ^^^ b
/-- AND NOT of R317. -/
def andnBits (w a b : Nat) : Nat := a &&& (2 ^ w - 1 - b)
/-- SHL of R385. -/
def shlBits (w a c : Nat) : Nat := if c < w then a * 2 ^ c % 2 ^ w else 0
/-- SHR of R385. -/
def shrBits (w a c : Nat) : Nat := if c < w then a / 2 ^ c else 0
/-- SRA of R385: a count of w or more copies the sign to every bit. -/
def sraBits (w a c : Nat) : Nat := wrapInt w ((signedOf w a).fdiv ((2 ^ min c w : Nat) : Int))
/-- The product of MUL in R367. -/
def mulBits (t : Nat) (w a b : Nat) : Nat := wrapInt w (intValue t a * intValue t b)
/-- The high half of MULH in R367. -/
def mulhBits (t : Nat) (w a b : Nat) : Nat := wrapInt w ((intValue t a * intValue t b).fdiv ((2 ^ w : Nat) : Int))
/-- The quotient of R333. -/
def divBits (t : Nat) (w a b : Nat) : Nat :=
  if intValue t b = 0 then 2 ^ w - 1 else wrapInt w ((intValue t a).tdiv (intValue t b))
/-- The remainder of R333. -/
def remBits (t : Nat) (w a b : Nat) : Nat :=
  if intValue t b = 0 then a else wrapInt w ((intValue t a).tmod (intValue t b))
/-- The smaller of R356. -/
def minBits (t : Nat) (_ a b : Nat) : Nat := if intValue t b < intValue t a then b else a
/-- The larger of R356. -/
def maxBits (t : Nat) (_ a b : Nat) : Nat := if intValue t a < intValue t b then b else a

/-- Leading zeros of a w-bit pattern (R327). -/
def leadingZeros (w a : Nat) : Nat := if a = 0 then w else w - 1 - a.log2

/-- One bits among the low `n` bits of a pattern (R371). -/
def onesBelow : Nat → Nat → Nat
  | 0, _ => 0
  | n + 1, a => a % 2 + onesBelow n (a / 2)

/-- Latency of DIV and REM by width (R332). -/
def divLatency (t : BitVec 4) : Nat :=
  match formatWidth t.toNat with
  | 8 => 6
  | 16 => 10
  | 32 => 18
  | _ => 34

/-- A condition of R328 on two 64-bit values. -/
def condHolds (cnd : BitVec 4) (a b : Word) : Bool :=
  match cnd.toNat with
  | 0 => a == b
  | 1 => a != b
  | 2 => a.slt b
  | 3 => a.sle b
  | 4 => b.slt a
  | 5 => b.sle a
  | 6 => a.ult b
  | 7 => a.ule b
  | 8 => b.ult a
  | _ => b.ule a

/-- 1 or 0 (R328). -/
def boolWord (b : Bool) : Word := if b then 1 else 0

/-- Index of loop stack entry i`n`; 0 at or above DEPTH (R297, R362). The list holds the top entry first. -/
def Core.loopIndex (k : Core) (n : Nat) : Nat := ((k.loops.reverse[n]?).map LoopEntry.index).getD 0

/-- NOP in SA or SB sets the slot's latch to NOP (R369). -/
def execNopS (s : State) : Step := .next (s.modCur (fun k => k.setLatch s.ctx.slot Latch.nop))

/-- ADD, layout SR (R317). -/
def execAddSr (d a b : BitVec 6) (t : BitVec 4) (s : State) : Step :=
  s.mould (.addSr d a b t) d 1 (extSR t addBits (s.rd a) (s.rd b))

/-- ADD, layout SI (R317). -/
def execAddSi (d a : BitVec 6) (imm : BitVec 11) (s : State) : Step :=
  s.mould (.addSi d a imm) d 1 (s.rd a + immSigned imm)

/-- SUB, layout SR (R394). -/
def execSubSr (d a b : BitVec 6) (t : BitVec 4) (s : State) : Step :=
  s.mould (.subSr d a b t) d 1 (extSR t subBits (s.rd a) (s.rd b))

/-- SUB, layout SI (R394). -/
def execSubSi (d a : BitVec 6) (imm : BitVec 11) (s : State) : Step :=
  s.mould (.subSi d a imm) d 1 (s.rd a - immSigned imm)

/-- MUL, layout SR (R367). -/
def execMulSr (d a b : BitVec 6) (t : BitVec 4) (s : State) : Step :=
  s.mould (.mulSr d a b t) d 3 (extSR t (mulBits t.toNat) (s.rd a) (s.rd b))

/-- MUL, layout SI (R367). -/
def execMulSi (d a : BitVec 6) (imm : BitVec 11) (s : State) : Step :=
  s.mould (.mulSi d a imm) d 3 (s.rd a * immSigned imm)

/-- MULH (R367). -/
def execMulh (d a b : BitVec 6) (t : BitVec 4) (s : State) : Step :=
  s.mould (.mulh d a b t) d 3 (extSR t (mulhBits t.toNat) (s.rd a) (s.rd b))

/-- An operation of the division mould: sD is scoreboarded until it is written (R332). -/
def State.divMould (s : State) (i : Instr) (d : BitVec 6) (t : BitVec 4) (v : Word) : Step :=
  s.guarded i (scalarCheck i) (fun s => (s.latchOp i 0 0 0).scalarPending i d (divLatency t) v)

/-- DIV (R332, R333). -/
def execDiv (d a b : BitVec 6) (t : BitVec 4) (s : State) : Step :=
  s.divMould (.div d a b t) d t (extSR t (divBits t.toNat) (s.rd a) (s.rd b))

/-- REM (R333, R377). -/
def execRem (d a b : BitVec 6) (t : BitVec 4) (s : State) : Step :=
  s.divMould (.rem d a b t) d t (extSR t (remBits t.toNat) (s.rd a) (s.rd b))

/-- AND, layout SR (R317). -/
def execAndSr (d a b : BitVec 6) (t : BitVec 4) (s : State) : Step :=
  s.mould (.andSr d a b t) d 1 (extSR t andBits (s.rd a) (s.rd b))

/-- AND, layout SI (R317). -/
def execAndSi (d a : BitVec 6) (imm : BitVec 11) (s : State) : Step :=
  s.mould (.andSi d a imm) d 1 (s.rd a &&& immZero imm)

/-- OR, layout SR (R370). -/
def execOrSr (d a b : BitVec 6) (t : BitVec 4) (s : State) : Step :=
  s.mould (.orSr d a b t) d 1 (extSR t orBits (s.rd a) (s.rd b))

/-- OR, layout SI (R370). -/
def execOrSi (d a : BitVec 6) (imm : BitVec 11) (s : State) : Step :=
  s.mould (.orSi d a imm) d 1 (s.rd a ||| immZero imm)

/-- XOR, layout SR (R439). -/
def execXorSr (d a b : BitVec 6) (t : BitVec 4) (s : State) : Step :=
  s.mould (.xorSr d a b t) d 1 (extSR t xorBits (s.rd a) (s.rd b))

/-- XOR, layout SI (R439). -/
def execXorSi (d a : BitVec 6) (imm : BitVec 11) (s : State) : Step :=
  s.mould (.xorSi d a imm) d 1 (s.rd a ^^^ immZero imm)

/-- ANDN, layout SR (R317). -/
def execAndnSr (d a b : BitVec 6) (t : BitVec 4) (s : State) : Step :=
  s.mould (.andnSr d a b t) d 1 (extSR t andnBits (s.rd a) (s.rd b))

/-- ANDN, layout SI (R317). -/
def execAndnSi (d a : BitVec 6) (imm : BitVec 11) (s : State) : Step :=
  s.mould (.andnSi d a imm) d 1 (s.rd a &&& ~~~immZero imm)

/-- SHL, layout SR (R385). -/
def execShlSr (d a b : BitVec 6) (t : BitVec 4) (s : State) : Step :=
  s.mould (.shlSr d a b t) d 1 (extSR t shlBits (s.rd a) (s.rd b))

/-- SHL, layout SI (R385). -/
def execShlSi (d a : BitVec 6) (imm : BitVec 11) (s : State) : Step :=
  s.mould (.shlSi d a imm) d 1 (word (shlBits 64 (s.rd a).toNat imm.toNat))

/-- SHR, layout SR (R385). -/
def execShrSr (d a b : BitVec 6) (t : BitVec 4) (s : State) : Step :=
  s.mould (.shrSr d a b t) d 1 (extSR t shrBits (s.rd a) (s.rd b))

/-- SHR, layout SI (R385). -/
def execShrSi (d a : BitVec 6) (imm : BitVec 11) (s : State) : Step :=
  s.mould (.shrSi d a imm) d 1 (word (shrBits 64 (s.rd a).toNat imm.toNat))

/-- SRA, layout SR (R385). -/
def execSraSr (d a b : BitVec 6) (t : BitVec 4) (s : State) : Step :=
  s.mould (.sraSr d a b t) d 1 (extSR t sraBits (s.rd a) (s.rd b))

/-- SRA, layout SI (R385). -/
def execSraSi (d a : BitVec 6) (imm : BitVec 11) (s : State) : Step :=
  s.mould (.sraSi d a imm) d 1 (word (sraBits 64 (s.rd a).toNat imm.toNat))

/-- CLZ (R327). -/
def execClz (d a : BitVec 6) (t : BitVec 4) (s : State) : Step :=
  let w := formatWidth t.toNat
  s.mould (.clz d a t) d 1 (word (leadingZeros w (lowBits w (s.rd a).toNat)))

/-- POPC (R371). -/
def execPopc (d a : BitVec 6) (t : BitVec 4) (s : State) : Step :=
  s.mould (.popc d a t) d 1 (word (onesBelow (formatWidth t.toNat) (s.rd a).toNat))

/-- MIN, layout SR (R356). -/
def execMinSr (d a b : BitVec 6) (t : BitVec 4) (s : State) : Step :=
  s.mould (.minSr d a b t) d 1 (extSR t (minBits t.toNat) (s.rd a) (s.rd b))

/-- MIN, layout SI (R356). -/
def execMinSi (d a : BitVec 6) (imm : BitVec 11) (s : State) : Step :=
  s.mould (.minSi d a imm) d 1 (if (s.rd a).sle (immSigned imm) then s.rd a else immSigned imm)

/-- MAX, layout SR (R356). -/
def execMaxSr (d a b : BitVec 6) (t : BitVec 4) (s : State) : Step :=
  s.mould (.maxSr d a b t) d 1 (extSR t (maxBits t.toNat) (s.rd a) (s.rd b))

/-- MAX, layout SI (R356). -/
def execMaxSi (d a : BitVec 6) (imm : BitVec 11) (s : State) : Step :=
  s.mould (.maxSi d a imm) d 1 (if (immSigned imm).sle (s.rd a) then s.rd a else immSigned imm)

/-- CMP, layout SC (R328). -/
def execCmpSc (d a b : BitVec 6) (cnd : BitVec 4) (s : State) : Step :=
  s.mould (.cmpSc d a b cnd) d 1
    (boolWord (condHolds cnd (s.rd a) (s.rd b)))

/-- CMP, layout SCI (R328). -/
def execCmpSci (d a : BitVec 6) (cnd : BitVec 4) (imm : BitVec 7) (s : State) : Step :=
  s.mould (.cmpSci d a cnd imm) d 1
    (boolWord (condHolds cnd (s.rd a) (imm.signExtend 64)))

/-- SEL (R383). -/
def execSel (d a b : BitVec 6) (c : BitVec 5) (s : State) : Step :=
  s.mould (.sel d a b c) d 1 (if s.rd (c.zeroExtend 6) = 0 then s.rd b else s.rd a)

/-- MOV, layout SM: a register or a loop index (R362). -/
def execMovSm (d a : BitVec 6) (k : BitVec 3) (s : State) : Step :=
  s.mould (.movSm d a k) d 1
    (if k = 0 then s.rd a else word (s.cur.loopIndex (k.toNat - 1)))

/-- MOV, layout SWI (R362). -/
def execMovSwi (d : BitVec 6) (imm : BitVec 17) (s : State) : Step :=
  s.mould (.movSwi d imm) d 1 (imm.signExtend 64)

/-- MOVH (R363). -/
def execMovh (d : BitVec 6) (imm : BitVec 16) (s : State) : Step :=
  s.mould (.movh d imm) d 1 (s.rd d <<< 16 ||| imm.zeroExtend 64)

/-- EXT (R337). -/
def execExt (d a pos : BitVec 6) (len : BitVec 5) (s : State) : Step :=
  s.mould (.ext d a pos len) d 1 (word (field (s.rd a) (pos.toNat + len.toNat) pos.toNat))

/-- INS (R337). -/
def execIns (d a pos : BitVec 6) (len : BitVec 5) (s : State) : Step :=
  s.mould (.ins d a pos len) d 1
    (word (setBits (s.rd d).toNat (pos.toNat + len.toNat) pos.toNat (s.rd a).toNat))

end Sys2Proof.Machine
end

