-- ==== Sys2Proof/Machine/Control.lean ====
section
/-!
DEFINITION. Machine/Control.lean: the CTL slot of a cell (R320 to R348, R398, R434, R435, R443): transfers, loops, waits,
barriers, DRAIN, TRAP and ERET.
-/
namespace Sys2Proof.Machine

/-- The checks of LOOP in their order, with the count and the end given (R347). -/
def State.loopCheck (s : State) (i : Instr) (count stop : Nat) : Option Trap :=
  let k := s.cur
  firstTrap [encodingCheck (s.owed.rpt == 0 && WellFormed i),
    if k.loops.length < 6 then none else some (trapIL 0x01),
    if stop < s.owed.next then some (trapIL 0x03) else none,
    match k.loops with
    | [] => none
    | top :: _ => if top.stop == k.pc || decide (top.stop < stop) then some (trapIL 0x03) else none,
    if count == 0 && !headerOk (s.codeWord s.ctx.cid stop) then some trapEncoding else none]

/-- The checks at issue of the CTL slot that any core may make, and of the codes that a stoker refuses (R296, R308). -/
def ctlCheck (i : Instr) (s : State) : Option Trap :=
  let stk := isStoker s.ctx.cid
  let once := s.owed.rpt == 0
  match i with
  | .br .. => encodingCheck (WellFormed i && once)
  | .bri .. => encodingCheck (WellFormed i && once)
  | .call .. => encodingCheck once
  | .ret .. => encodingCheck once
  | .loopReg a e => s.loopCheck i (field (s.rd a) 31 0) e.toNat
  | .loopImm n e => s.loopCheck i n.toNat e.toNat
  | .lbrk => if s.cur.loops.isEmpty then some (trapIL 0x02) else none
  | .halt => if !once then some trapEncoding else if s.cur.inHandler then some (trapIL 0x10) else none
  | .wait .. => encodingCheck (!stk)
  | .waitpred => encodingCheck (!stk)
  | .handoff => encodingCheck (!stk)
  | .yield => encodingCheck (!stk && once)
  | .eret => if stk || !once then some trapEncoding else if s.cur.inHandler then none else some (trapIL 0x10)
  | .drain ord scp => orderCheck (ord == 1 || ord == 2 || ord == 4) scp.toNat
  | .bar scp => if stk then some trapEncoding else if scp.toNat < 4 then none else some (trapIL 0x0E)
  | _ => none

/-- NOP in CTL does nothing (R369). -/
def execNopCtl (s : State) : Step := .next s

/-- A branch condition of R322. -/
def branchTaken (cnd : BitVec 2) (v : Word) : Bool :=
  match cnd.toNat with
  | 0 => true
  | 1 => v == 0
  | 2 => v != 0
  | _ => v.msb

/-- BR (R322, R323). -/
def execBr (cnd : BitVec 2) (c : BitVec 6) (tgt : BitVec 16) (s : State) : Step :=
  s.guarded (.br cnd c tgt) (ctlCheck (.br cnd c tgt) s)
    (fun s => if branchTaken cnd (s.rd c) then s.jump tgt.toNat else s)

/-- BRI (R324). -/
def execBri (cnd : BitVec 2) (c b : BitVec 6) (s : State) : Step :=
  s.guarded (.bri cnd c b) (ctlCheck (.bri cnd c b) s)
    (fun s => if branchTaken cnd (s.rd c) then s.jump (field (s.rd b) 15 0) else s)

/-- CALL: the link is the word after the bundle (R325). -/
def execCall (d : BitVec 6) (tgt : BitVec 16) (s : State) : Step :=
  s.guarded (.call d tgt) (ctlCheck (.call d tgt) s)
    (fun s => (s.scalarResult (.call d tgt) d 1 (word (s.owed.next % 2 ^ 16))).jump tgt.toNat)

/-- RET (R378). -/
def execRet (a : BitVec 6) (s : State) : Step :=
  s.guarded (.ret a) (ctlCheck (.ret a) s) (fun s => s.jump (field (s.rd a) 15 0))

/-- The effect of a LOOP that passes its checks: a push, or a skip past the body's last bundle (R348). -/
def State.loop (s : State) (count stop : Nat) : State :=
  if count = 0 then s.jump (stop + 1 + payloadWords (s.codeWord s.ctx.cid stop))
  else s.modCur (fun k => { k with loops := ⟨0, count, s.owed.next, stop⟩ :: k.loops })

/-- LOOP with its count in a register (R347, R348). -/
def execLoopReg (a : BitVec 6) (e : BitVec 16) (s : State) : Step :=
  s.guarded (.loopReg a e) (ctlCheck (.loopReg a e) s) (fun s => s.loop (field (s.rd a) 31 0) e.toNat)

/-- LOOP with its count encoded (R347, R348). -/
def execLoopImm (n : BitVec 7) (e : BitVec 16) (s : State) : Step :=
  s.guarded (.loopImm n e) (ctlCheck (.loopImm n e) s) (fun s => s.loop n.toNat e.toNat)

/-- The wait of the CTL slot, which starts at the end of the bundle's last execution. -/
def State.atEnd (s : State) (i : Instr) (arg : Nat) : State :=
  s.modCur (fun k => { k with waits := { k.waits with op := some i, arg := arg } })

/-- LBRK pops the top entry at the end of its bundle's last execution (R343). -/
def execLbrk (s : State) : Step := s.guarded .lbrk (ctlCheck .lbrk s) (fun s => s.modCur (fun k => { k with popReq := true }))

/-- HALT (R338, R339): the cell halts, hands off and drops its requests; a stoker stops for good. -/
def execHalt (s : State) : Step :=
  s.guarded .halt (ctlCheck .halt s) (fun s =>
    if isStoker s.ctx.cid then
      { s.modCur (fun k => { k with st := .stopped }) with
        firm := { s.firm with dead := s.firm.dead ++ [s.ctx.cid - 1024] } }
    else s.modCur (fun k => { k with st := .halted, waitk := 0, handoff := true, yreq := false, migReq := none }))

/-- WAIT (R434). -/
def execWait (ldl stl cpl tll : BitVec 4) (s : State) : Step :=
  s.guarded (.wait ldl stl cpl tll) (ctlCheck (.wait ldl stl cpl tll) s) (fun s => s.atEnd (.wait ldl stl cpl tll) 0)

/-- WAITPRED (R435). -/
def execWaitpred (s : State) : Step := s.guarded .waitpred (ctlCheck .waitpred s) (fun s => s.atEnd .waitpred 0)

/-- HANDOFF (R340). -/
def execHandoff (s : State) : Step :=
  s.guarded .handoff (ctlCheck .handoff s) (fun s => s.modCur (fun k => { k with handoff := true }))

/-- YIELD (R443): with a request and outside a handler the yield lands here, and the cell holds until it can be saved. -/
def execYield (s : State) : Step :=
  s.guarded .yield (ctlCheck .yield s) (fun s =>
    if s.cur.yreq && !s.cur.inHandler then s.modCur (fun k => { k with landing := true, st := .hold, waitk := 5 }) else s)

/-- TRAP: the stop lands after the execution (R398). -/
def execTrap (code : BitVec 8) (s : State) : Step :=
  s.guarded (.trap code) (ctlCheck (.trap code) s) (fun s =>
    { s with owed := { s.owed with stop := some (s.issueCause (.trap code) (trapOf 7 code.toNat)) } })

/-- ERET (R212, R336). -/
def execEret (s : State) : Step :=
  s.guarded .eret (ctlCheck .eret s) (fun s =>
    { s.modCur Core.leaveHandler with owed := { s.owed with advance := false } })

/-- DRAIN (R161, R334): a fence for later accesses; on a stoker nothing (R172). -/
def execDrain (ord scp : BitVec 3) (s : State) : Step :=
  s.guarded (.drain ord scp) (ctlCheck (.drain ord scp) s) (fun s =>
    if isStoker s.ctx.cid then s
    else { s with
      seq := s.seq + 1
      fences := s.fences ++ [⟨s.ctx.cid, s.seq + 1, ord != 2, true, ord == 1, false, false, s.ctx.bun, scp.toNat⟩] })

/-- BAR (R320): arrival at the scope, and a wait; at cell scope nothing. The wait remembers which accesses came before
(R171). -/
def execBar (scp : BitVec 3) (s : State) : Step :=
  s.guarded (.bar scp) (ctlCheck (.bar scp) s) (fun s =>
    if scp = 0 then s
    else (s.modCur (fun k => { k with arrived := mapSet false k.arrived scp.toNat true })).atEnd (.bar scp) (s.seq + 1))

end Sys2Proof.Machine
end

