-- ==== Sys2Proof/Machine/SysReg.lean ====
section
/-!
DEFINITION. Machine/SysReg.lean: system registers by number (R309): reading, writing, the shadow of R90, MFSR and MTSR
(R357, R366).
-/
namespace Sys2Proof.Machine

/-! ## Reading -/

/-- A list of fields as one doubleword: (value, low bit). -/
def pack (l : List (Nat × Nat)) : Word := word (l.foldl (fun n p => n + p.1 * 2 ^ p.2) 0)

/-- DEVCFG (R27). -/
def Ident.devcfg (d : Ident) : Word :=
  pack [(d.dieok, 0), (d.mantle, 8), (d.hbmok, 16), (d.parksize, 32), (0x12, 40), (0x80, 48)]

/-- Every die, mantle and stack passed (R27, DEGRADED). -/
def Ident.whole (d : Ident) : Bool := d.dieok == 0xFF && d.mantle == 0xFF && d.hbmok == 0xFFFF

/-- DEVSTAT (R27). -/
def Ident.devstat (d : Ident) : Word :=
  pack [(flag d.ready, 0), (flag (!d.whole), 1), (flag d.hardtrip, 2), (flag d.bootfail, 3), (d.gated, 8), (d.mgmt, 16)]

/-- SEQSTAT.STATE of a run state (R31, R179). -/
def RunState.code : RunState → Nat
  | .run => 0
  | .wait => 1
  | .hold => 2
  | .donor => 3
  | .halted => 4
  | .stopped => 5
  | .free => 0

/-- SEQSTAT as a context image or a stoker shows it (R31). -/
def Core.seqstat (k : Core) : Word :=
  pack [(k.st.code % 8, 0), (k.waitk % 16, 4), (k.loops.length % 8, 8), (flag k.yreq, 11), (k.rptLeft % 256, 12)]

/-- Entry i`n` of the loop stack, counted from the bottom (R29). -/
def Core.loopEntry (k : Core) (n : Nat) : Option LoopEntry := k.loops.reverse[n]?

/-- LSI`n` (R31). -/
def Core.lsi (k : Core) (n : Nat) : Word :=
  match k.loopEntry n with
  | some e => pack [(e.index, 0), (e.count, 32)]
  | none => 0

/-- LSB`n` (R31). -/
def Core.lsb (k : Core) (n : Nat) : Word :=
  match k.loopEntry n with
  | some e => pack [(e.start, 0), (e.stop, 16)]
  | none => 0

/-- OUTCNT (R46). -/
def Core.outcntWord (k : Core) : Word :=
  pack [(k.counter .ld, 0), (k.counter .st, 8), (k.counter .cp, 16), (k.counter .tl, 24)]

/-- TOKCNT0 for `h` = 0, TOKCNT1 for `h` = 1 (R124). -/
def Core.tokcnt (k : Core) (h : Nat) : Word :=
  pack ((List.range 16).map (fun i => (k.tokCount (16 * h + i) % 16, 4 * i)))

/-- Key of transfer slot `xs` of a core. -/
def xferKey (c xs : Nat) : Nat := 8 * c + xs

/-- Transfer slot `xs` of a core. -/
def State.xfer (s : State) (c xs : Nat) : Xfer := mapGet Xfer.idle s.xfers (xferKey c xs)

/-- The key of the transfer that slot `xs` of core `c` holds: one that a migration left on its old engine keeps its slot (R226). -/
def State.slotKey (s : State) (c xs : Nat) : Nat :=
  match s.xfers.find? (fun p => decide (p.1 < 8192) && p.1 % 8 == xs && p.2.busy && p.2.eng != c && p.2.side == c) with
  | some p => p.1
  | none => xferKey c xs

/-- XSTAGE (R133). The stage of an idle slot is that of its last transfer (log 56: DESIGN CHOICE). -/
def State.xstage (s : State) (c : Nat) : Word :=
  pack ((List.range 8).flatMap (fun i =>
    let x := mapGet Xfer.idle s.xfers (s.slotKey c i)
    [(x.stage % 128, 7 * i), (flag x.busy, 56 + i)]))

/-- TAGKEY: the entry that TAGIDX names (R97). -/
def Core.tagkey (k : Core) : Word :=
  match mapGet none k.tags (field k.tagidx 9 0) with
  | some key => word (2 ^ 63 + key.toNat)
  | none => 0

/-- A word of the record cache entry that RCIDX names (R396). -/
def Core.rcent (k : Core) (n : Nat) : Word :=
  let e := mapGet ⟨0, 0, 0, false⟩ k.rcache (field k.rcidx 7 0)
  match n with
  | 0 => pack [(e.index % 2 ^ 16, 0), (flag e.valid, 16)]
  | 1 => e.w2
  | _ => e.w3

/-- LIDQ: the translation of its LID under the LID map store (R40, R179). -/
def State.lidqWord (s : State) (k : Core) : Word :=
  let l := field k.lidq 9 0
  let ok := decide (l < field k.team 26 16)
  pack [(l, 0), (if ok then mapGet 0 s.sched.lidmap (k.lmbase + l) % 1024 else 0, 16), (flag ok, 26)]

/-- A doubleword of the scale table (R84). -/
def Core.sctabWord (k : Core) (n : Nat) : Word := mapGet 0x3F803F803F803F80 k.sctab n

/-- A doubleword of the fault record of the last stop handled (R210). -/
def Core.frecWord (k : Core) (n : Nat) : Word := mapGet 0 k.hand.frec n

/-- EBAL in two's complement (R258). -/
def Core.ebalWord (k : Core) : Word := word (wrapInt 64 k.ebal)

/-- ROLE of a stoker: 3 when it holds none (R310). -/
def State.roleOf (s : State) (stk : Nat) : Nat := mapGet 3 s.firm.role stk

/-- STKID (R310). -/
def State.stkid (s : State) (c : Nat) : Word := pack [(c - 1024, 0), (s.roleOf (c - 1024), 3)]

/-- The module-wide registers of R309, by number. -/
def State.deviceReg (s : State) (n : Nat) : Option Word :=
  match n with
  | 0x000 => some (pack [(0x5A7, 0), (0x4C, 16), (0x09, 24), (0x400, 32)])
  | 0x001 => some (pack [(0xB1, 0), (0xB1, 8), (0xA2, 16), (s.ident.fwver % 2 ^ 32, 32)])
  | 0x002 => some Config.serial
  | 0x003 => some s.ident.devcfg
  | 0x004 => some s.ident.devstat
  | 0x005 => some (word s.now)
  | 0x007 => some (word s.ident.measgen)
  | _ => none

/-- System register `n` of cell `c` (R309); none for a number that the table does not list, and for STKID. With `self` the
cell reads itself, so it sees STATE 0 and WAITK 0 (R31). -/
def State.cellReg (s : State) (c n : Nat) (self : Bool) : Option Word :=
  let k := s.core c
  if n < 0x008 ∧ n ≠ 0x006 then s.deviceReg n
  else if 0x012 ≤ n ∧ n ≤ 0x017 then some (k.lsi (n - 0x012))
  else if 0x018 ≤ n ∧ n ≤ 0x01D then some (k.lsb (n - 0x018))
  else if 0x042 ≤ n ∧ n ≤ 0x045 then some (k.sctabWord (n - 0x042))
  else if 0x053 ≤ n ∧ n ≤ 0x055 then some (k.rcent (n - 0x053))
  else if 0x068 ≤ n ∧ n ≤ 0x06F then some (k.frecWord (n - 0x068))
  else if 0x070 ≤ n ∧ n ≤ 0x077 then some (mapGet 0 k.evsel (n - 0x070))
  else if 0x078 ≤ n ∧ n ≤ 0x07F then some (mapGet 0 k.evcnt (n - 0x078))
  else if 0x082 ≤ n ∧ n ≤ 0x086 then some (word (mapGet 0 k.ecost (n - 0x082)))
  else match n with
    | 0x006 => some (word c)
    | 0x010 => some (word (if self then s.ctx.ipc else k.pc))
    | 0x011 => some (if self then pack [(k.loops.length % 8, 8), (flag k.yreq, 11), (k.rptLeft % 256, 12)] else k.seqstat)
    | 0x020 => some k.team
    | 0x021 => some (s.lidqWord k)
    | 0x022 => some k.predst
    | 0x023 => some k.wswap
    | 0x024 => some k.ctxasid
    | 0x025 => some (pack [(k.spcap, 0), (flag (k.spcap == 0x400000), 23)])
    | 0x026 => some k.celltemp
    | 0x030 => some k.slack
    | 0x031 => some k.skew
    | 0x032 => some k.bind
    | 0x033 => some k.outcntWord
    | 0x040 => some k.fmt
    | 0x041 => some k.vstat
    | 0x046 => some k.swz
    | 0x047 => some k.unf0
    | 0x048 => some k.unf1
    | 0x049 => some k.apx
    | 0x04A => some k.apxcnt
    | 0x050 => some k.tagidx
    | 0x051 => some k.tagkey
    | 0x052 => some k.rcidx
    | 0x058 => some (k.tokcnt 0)
    | 0x059 => some (k.tokcnt 1)
    | 0x05A => some k.tokerr
    | 0x05B => some (s.xstage c)
    | 0x060 => some k.hand.hvec
    | 0x061 => some k.hand.epc
    | 0x062 => some k.ycfg
    | 0x063 => some k.ystat
    | 0x080 => some k.ebalWord
    | 0x081 => some (word k.erate)
    | _ => none

/-- What MFSR reads on core `c`; none raises ENCODING (R308, R309). -/
def State.readReg (s : State) (c n : Nat) : Option Word :=
  if isStoker c then (if n = 0x008 then some (s.stkid c) else s.deviceReg n) else s.cellReg c n true

/-! ## Writing -/

/-- Bits of FMT that are no reserved ones (R89). -/
def fmtMask : Word := 0x03F73FFF

/-- The bits of a register that are no reserved ones, as a register image holds it (R8, R265). -/
def imageMask (n : Nat) : Word :=
  match n with
  | 0x010 => 0xFFFF
  | 0x011 => 0xFFFF7
  | 0x020 => 0x3FFFFFFFF
  | 0x021 => 0x7FF03FF
  | 0x022 => 0x3FFFFFFFF
  | 0x023 => 0xFFFFFFFF
  | 0x030 => 0xFFF
  | 0x031 => 0x3F3F3F
  | 0x032 => 0xFFF
  | 0x033 => 0x3F3F3F3F
  | 0x040 => fmtMask
  | 0x041 => 0x7F
  | 0x046 => 0x1FFF
  | 0x047 => 0xFFFFFFFF003FFFFF
  | 0x048 => 0x000FFFFFFFFFFFFF
  | 0x049 => 0x1F3FFF
  | 0x04A => 0xFFFFFFFF
  | 0x050 => 0x3FF
  | 0x052 => 0xFF
  | 0x05A => 0xFFFFFFFF
  | 0x060 => 0x3FFFF
  | 0x061 => 0x8000000000FFFFFF
  | 0x062 => 0x7FFFFFFFF
  | 0x063 => 0x3FFFFFFFF
  | _ => 0xFFFFFFFFFFFFFFFF

/-- What an MTSR to a number does on a cell (R309). -/
inductive MtsrKind where
  | writes | ignored | protected_ | unlisted
  deriving DecidableEq, Repr

/-- The MTSR column of R309. -/
def mtsrKind (n : Nat) : MtsrKind :=
  if n = 0x004 ∨ (0x010 ≤ n ∧ n ≤ 0x01D) ∨ n = 0x023 ∨ n = 0x058 ∨ n = 0x059 ∨ (0x080 ≤ n ∧ n ≤ 0x086) then .protected_
  else if n = 0x021 ∨ n = 0x030 ∨ n = 0x031 ∨ (0x040 ≤ n ∧ n ≤ 0x045) ∨ n = 0x049 ∨ n = 0x04A ∨ n = 0x050 ∨ n = 0x052
      ∨ n = 0x05A ∨ (0x060 ≤ n ∧ n ≤ 0x062) ∨ (0x070 ≤ n ∧ n ≤ 0x07F) then .writes
  else if n ≤ 0x003 ∨ (0x005 ≤ n ∧ n ≤ 0x007) ∨ n = 0x020 ∨ n = 0x022 ∨ (0x024 ≤ n ∧ n ≤ 0x026) ∨ n = 0x032 ∨ n = 0x033
      ∨ (0x046 ≤ n ∧ n ≤ 0x048) ∨ n = 0x051 ∨ (0x053 ≤ n ∧ n ≤ 0x055) ∨ n = 0x05B ∨ n = 0x063
      ∨ (0x068 ≤ n ∧ n ≤ 0x06F) then .ignored
  else .unlisted

/-- The target code of a register whose writes stand in the shadow of R90 (R217), 0 for the others. -/
def shadowTarget (n : Nat) : Nat :=
  if n = 0x040 then 1
  else if 0x042 ≤ n ∧ n ≤ 0x045 then n - 0x042 + 2
  else if n = 0x046 then 6
  else if n = 0x047 then 7
  else if n = 0x048 then 8
  else if n = 0x049 then 9
  else 0

/-- Targets of the writes that take effect at the end of their own cycle: a system register by number, a TAGS by slot, a
TAGI by slot, and a TAGI of every slot. They share the list of pending writes. -/
def targetReg (n : Nat) : Nat := 0x100 + n
/-- The target of a TAGS. -/
def targetTags (slot : Nat) : Nat := 0x1000 + slot
/-- The target of a TAGI. -/
def targetTagi (slot : Nat) : Nat := 0x2000 + slot
/-- The target of a TAGI of every slot. -/
def targetTagiAll : Nat := 0x3000

/-- A pending write joins the list (R90). -/
def Core.pend (k : Core) (target left : Nat) (v : Word) : Core := { k with shadow := k.shadow ++ [⟨target, left, v⟩] }

/-- Entry `slot` of the tag table set, and any other valid entry with the key invalidated (R96). -/
def Core.tagStore (k : Core) (slot : Nat) (key : BitVec 52) : Core :=
  { k with
    tags := mapSet none (k.tags.filter (fun p => p.2 != some key)) slot (some key)
    ueTags := k.ueTags.filter (· != slot)
    ceTags := k.ceTags.filter (· != slot) }

/-- A system register written as an MTSR's value takes effect at the end of the issue cycle: reserved bits are ignored, W1C
bits clear (R6, R8, R309). -/
def Core.writeReg (k : Core) (n : Nat) (v : Word) : Core :=
  if 0x070 ≤ n ∧ n ≤ 0x077 then
    let old := mapGet 0 k.evsel (n - 0x070)
    { k with evsel := mapSet 0 k.evsel (n - 0x070) ((v &&& 0x1FF) ||| (old &&& 0x200 &&& ~~~v)) }
  else if 0x078 ≤ n ∧ n ≤ 0x07F then
    { k with evcnt := mapSet 0 k.evcnt (n - 0x078) (v &&& 0xFFFFFFFFFFFF) }
  else match n with
    | 0x021 => { k with lidq := v &&& 0x3FF }
    | 0x030 => { k with slack := v &&& 0xFFF }
    | 0x031 => { k with skew := v &&& 0x3F3F3F }
    | 0x041 => { k with vstat := k.vstat &&& ~~~v }
    | 0x04A => { k with apxcnt := v &&& 0xFFFFFFFF }
    | 0x050 => { k with tagidx := v &&& 0x3FF }
    | 0x052 => { k with rcidx := v &&& 0xFF }
    | 0x05A => { k with tokerr := k.tokerr &&& ~~~v }
    | 0x060 => { k with hand := { k.hand with hvec := v &&& 0x3FFFF } }
    | 0x061 => { k with hand := { k.hand with epc := (v &&& 0xFFFFFF) ||| (k.hand.epc &&& 0x8000000000000000) } }
    | 0x062 => { k with ycfg := v &&& 0x7FFFFFFFF }
    | _ => k

/-- A pending write takes effect. -/
def Core.applyPending (k : Core) (x : Shadowed) : Core :=
  match x.target with
  | 1 => { k with fmt := x.val }
  | 2 => { k with sctab := mapSet 0x3F803F803F803F80 k.sctab 0 x.val }
  | 3 => { k with sctab := mapSet 0x3F803F803F803F80 k.sctab 1 x.val }
  | 4 => { k with sctab := mapSet 0x3F803F803F803F80 k.sctab 2 x.val }
  | 5 => { k with sctab := mapSet 0x3F803F803F803F80 k.sctab 3 x.val }
  | 6 => { k with swz := x.val }
  | 7 => { k with unf0 := x.val }
  | 8 => { k with unf1 := x.val }
  | 9 => { k with apx := x.val }
  | t =>
    if t < 0x1000 then k.writeReg (t - 0x100) x.val
    else if t < 0x2000 then k.tagStore (t - 0x1000) (x.val.truncate 52)
    else if t < 0x3000 then { k with
      tags := mapSet none k.tags (t - 0x2000) none
      ueTags := k.ueTags.filter (· != t - 0x2000)
      ceTags := k.ceTags.filter (· != t - 0x2000) }
    else { k with tags := [], ueTags := [], ceTags := [] }

/-- The write is of SLACK or SKEW, which govern from the next bundle on: not the later executions of their own (R43, R388, R389). -/
def Shadowed.atBundle (x : Shadowed) : Bool := x.target == targetReg 0x030 || x.target == targetReg 0x031

/-- The end of a schedule cycle for the pending writes: those whose cycles are up take effect in issue order (R90, R307). -/
def Core.tickPending (k : Core) : Core :=
  let l := k.shadow.map (fun x => if k.rptLeft != 0 && x.atBundle then x else { x with left := x.left - 1 })
  (l.filter (fun x => x.left == 0)).foldl Core.applyPending { k with shadow := l.filter (fun x => x.left != 0) }

/-- Four patterns that the scale table may hold (R84). -/
def scalesOk (v : Word) : Bool :=
  scaleOk (field v 15 0) && scaleOk (field v 31 16) && scaleOk (field v 47 32) && scaleOk (field v 63 48)

/-- The value that a shadowed register takes: its reserved bits stay 0 (R8). -/
def shadowValue (n : Nat) (v : Word) : Word :=
  if n = 0x040 then v &&& fmtMask else if n = 0x049 then v &&& 0x1F3FFF else v

/-- An MTSR's write joins the pending ones: at its cycle plus 4 for a shadowed register, else at the end of its cycle. -/
def Core.mtsr (k : Core) (n : Nat) (v : Word) : Core :=
  if mtsrKind n = .writes then
    if shadowTarget n = 0 then k.pend (targetReg n) 1 v else k.pend (shadowTarget n) 4 (shadowValue n v)
  else k

/-- The register is TAGKEY of a cell. -/
def isTagkey (c n : Nat) : Bool := !isStoker c && n == 0x051

/-- The checks of MFSR and MTSR (R357, R366, R84). An uncorrectable error in the entry that TAGKEY shows fails its read (R95; log 57). -/
def sysCheck (i : Instr) (s : State) : Option Trap :=
  let c := s.ctx.cid
  match i with
  | .mfsr _ n => firstTrap [encodingCheck (s.readReg c n.toNat).isSome,
      if isTagkey c n.toNat && s.cur.ueTags.contains (field s.cur.tagidx 9 0) then some (trapOf 5 0x00) else none]
  | .mtsr a n =>
    if isStoker c then encodingCheck (s.readReg c n.toNat).isSome
    else match mtsrKind n.toNat with
      | .unlisted => some trapEncoding
      | .protected_ => some (trapOf 3 0x01)
      | .ignored => none
      | .writes =>
        if 0x042 ≤ n.toNat && n.toNat ≤ 0x045 && !scalesOk (s.rd a) then some (trapOf 6 0x06) else none
  | _ => none

/-- What an MFSR finds: an event count as it stood when the cycle began (R227), any other register as it stands. -/
def State.mfsrValue (s : State) (n : Nat) : Word :=
  match (if 0x078 ≤ n ∧ n ≤ 0x07F then s.ctx.counts[n - 0x078]? else none) with
  | some w => w
  | none => (s.readReg s.ctx.cid n).getD 0

/-- Entries of the tag table are read: their one-bit errors are corrected and counted (R95). -/
def State.scrubTags (s : State) (c : Nat) (read : Nat → Bool) : State :=
  let k := s.core c
  if k.ceTags.any read then
    (s.count c 0x15 (k.ceTags.countP read)).modCore c (fun k => { k with ceTags := k.ceTags.filter (fun n => !read n) })
  else s

/-- MFSR (R357). -/
def execMfsr (d : BitVec 6) (sys : BitVec 11) (s : State) : Step :=
  s.guarded (.mfsr d sys) (sysCheck (.mfsr d sys) s) (fun s =>
    ((s.latchOp (.mfsr d sys) 0 0 0).scalarResult (.mfsr d sys) d 1 (s.mfsrValue sys.toNat)).scrubTags s.ctx.cid
      (fun n => isTagkey s.ctx.cid sys.toNat && n == field s.cur.tagidx 9 0))

/-- MTSR (R366); a stoker's acts only on DEVSTAT.HARDTRIP (R309), which its bundle's MFSRs still read as it was (R307). -/
def execMtsr (a : BitVec 6) (sys : BitVec 11) (s : State) : Step :=
  s.guarded (.mtsr a sys) (sysCheck (.mtsr a sys) s) (fun s =>
    let t := s.latchOp (.mtsr a sys) 0 0 0
    if isStoker s.ctx.cid then
      if sys = 0x004 ∧ bit (s.rd a).toNat 2 then { t with owed := { t.owed with trip := true } } else t
    else t.modCur (fun k => k.mtsr sys.toNat (s.rd a)))

/-! ## The tag table (R96, R97, R397) -/

/-- The slot operand of TAGS, or of TAGI with −1 allowed (R397). -/
def slotOk (v : Word) (all : Bool) : Bool := decide (v.toNat < 1024) || (all && v == BitVec.allOnes 64)

/-- The checks of TAGL, TAGS and TAGI. TAGL reads every entry: an uncorrectable error in one fails it, with the detail of a scratchpad (R95;
log 57: DESIGN CHOICE). -/
def tagCheck (i : Instr) (s : State) : Option Trap :=
  if isStoker s.ctx.cid then some trapEncoding
  else match i with
    | .tags a _ => if slotOk (s.rd a) false then none else some (trapOf 8 0x01)
    | .tagi a => if slotOk (s.rd a) true then none else some (trapOf 8 0x01)
    | .tagl .. => if s.cur.ueTags.isEmpty then none else some (trapOf 5 0x00)
    | _ => none

/-- The index of the valid entry with a key, or −1 (R96). -/
def Core.tagFind (k : Core) (key : BitVec 52) : Word :=
  match k.tags.find? (fun p => p.2 == some key) with
  | some p => word p.1
  | none => BitVec.allOnes 64

/-- TAGL: sD lands at the end of cycle t + 2 (R97). -/
def execTagl (d a : BitVec 6) (s : State) : Step :=
  s.guarded (.tagl d a) (tagCheck (.tagl d a) s) (fun s =>
    ((s.latchOp (.tagl d a) 0 0 0).scalarResult (.tagl d a) d 2 (s.cur.tagFind ((s.rd a).truncate 52))).scrubTags s.ctx.cid (fun _ => true))

/-- TAGS: the table changes at the end of the cycle (R397). -/
def execTags (a b : BitVec 6) (s : State) : Step :=
  s.guarded (.tags a b) (tagCheck (.tags a b) s) (fun s =>
    (s.latchOp (.tags a b) 0 0 0).modCur (fun k => k.pend (targetTags (s.rd a).toNat) 1 (s.rd b)))

/-- TAGI: the table changes at the end of the cycle (R397). -/
def execTagi (a : BitVec 6) (s : State) : Step :=
  s.guarded (.tagi a) (tagCheck (.tagi a) s) (fun s =>
    (s.latchOp (.tagi a) 0 0 0).modCur (fun k =>
      k.pend (if (s.rd a).toNat < 1024 then targetTagi (s.rd a).toNat else targetTagiAll) 1 0))

end Sys2Proof.Machine
end

