-- ==== Sys2Proof/Machine/Cfg.lean ====
section
/-!
DEFINITION. Machine/Cfg.lean: the CFG slot (R380 to R390, R395): SFMT, SSCL, SUNF, SSWZ, SAPX, SBIND, SSKEW, SSLK.
-/
namespace Sys2Proof.Machine

/-- Fields of SWZST (R139). -/
def swzChunk (v : Nat) : Nat := v % 8
/-- ROWSH of SWZST. -/
def swzRowsh (v : Nat) : Nat := bits v 8 3
/-- SWW of SWZST. -/
def swzSww (v : Nat) : Nat := bits v 11 9
/-- AEN of SWZST. -/
def swzAen (v : Nat) : Bool := bit v 12

/-- The condition on a swizzle (R114, R390). -/
def swizzleOk (chunk rowsh sww : Nat) : Bool := decide (chunk ≤ 5) && (chunk == 0 || decide (sww + chunk + 3 ≤ rowsh))

/-- SWIZ check of a SWZST value (R390). -/
def swzCheck (v : Nat) : Option Trap :=
  if swizzleOk (swzChunk v) (swzRowsh v) (swzSww v) then none else some (trapIL 0x0A)

/-- The knob table of R267: THETA, NDIG, OVS. -/
def knob (q : Nat) : Nat × Nat × Nat :=
  match q with
  | 0 => (0, 0, 0) | 1 => (0, 0, 1) | 2 => (0, 0, 2) | 3 => (110, 0, 2) | 4 => (114, 0, 2) | 5 => (114, 5, 2)
  | 6 => (118, 5, 3) | 7 => (118, 4, 3) | 8 => (120, 4, 3) | 9 => (120, 3, 4) | 10 => (122, 3, 4) | 11 => (122, 2, 4)
  | 12 => (124, 2, 5) | 13 => (124, 2, 6) | 14 => (126, 1, 6) | _ => (126, 1, 7)

/-- APX after a write through the knob (R264). -/
def apxOfKnob (q : Nat) : Word := pack [((knob q).1, 0), ((knob q).2.1, 8), ((knob q).2.2, 11), (q, 16)]

/-- The latest value written to a shadowed register, pending writes included (R384). -/
def Core.latest (k : Core) (target : Nat) (now : Word) : Word :=
  match k.shadow.reverse.find? (fun x => x.target == target) with
  | some x => x.val
  | none => now

/-- FMT with one field replaced (R305, R384). -/
def fmtWithField (f : Word) (fld : BitVec 3) (val : BitVec 4) : Word :=
  let v := val.toNat
  match fld.toNat with
  | 0 => word (setBits f.toNat 3 0 v)
  | 1 => word (setBits f.toNat 7 4 v)
  | 2 => word (setBits f.toNat 11 8 v)
  | 3 => word (setBits f.toNat 13 12 v)
  | _ => word (setBits f.toNat 18 16 v)

/-! ## The unfolding unit (R140) -/

/-- The fields of UNF0 and UNF1. -/
structure Unfold where
  base : Nat
  w : Nat
  h : Nat
  c : Nat
  ef : Nat
  kh : Nat
  kw : Nat
  sy : Nat
  sx : Nat
  dy : Nat
  dx : Nat
  ph : Nat
  pw : Nat
  deriving DecidableEq, Repr

/-- UNF0 and UNF1 read as fields. -/
def unfoldOf (u0 u1 : Word) : Unfold :=
  ⟨field u0 21 0, field u0 47 32, field u0 63 48, field u1 15 0, field u1 19 16, field u1 23 20, field u1 27 24,
    field u1 31 28, field u1 35 32, field u1 39 36, field u1 43 40, field u1 47 44, field u1 51 48⟩

/-- OH of R140, by floor division. -/
def Unfold.oh (u : Unfold) : Int :=
  ((u.h : Int) + 2 * u.ph - u.dy * ((u.kh : Int) - 1) - 1).fdiv u.sy + 1

/-- OW of R140. -/
def Unfold.ow (u : Unfold) : Int :=
  ((u.w : Int) + 2 * u.pw - u.dx * ((u.kw : Int) - 1) - 1).fdiv u.sx + 1

/-- Bytes of the tensor (R395). -/
def Unfold.size (u : Unfold) : Nat :=
  let n := u.w * u.h * u.c
  match u.ef with
  | 0 => 4 * n
  | 1 => 2 * n
  | 2 => 136 * ((n + 127) / 128)
  | _ => 72 * ((n + 127) / 128)

/-- The record-cache entry of a record index (R396). -/
def Core.cachedRecord (k : Core) (idx : Nat) : Option CachedRecord :=
  (k.rcache.find? (fun p => p.2.valid && p.2.index == idx)).map Prod.snd

/-- V of a layout record's word 2 (R113). -/
def recV (w2 : Word) : Bool := bit w2.toNat 0
/-- R of a layout record's word 2. -/
def recR (w2 : Word) : Bool := bit w2.toNat 1
/-- W of a layout record's word 2. -/
def recW (w2 : Word) : Bool := bit w2.toNat 2

/-- UNF0 and UNF1 that SUNF sets from the cached record and its operands (R395). -/
def sunfWords (r : CachedRecord) (a b : Word) : Word × Word :=
  (pack [(field a 37 16, 0), (field r.w3 15 0, 32), (field r.w3 31 16, 48)],
   pack [(field r.w3 47 32, 0), (field r.w3 51 48, 16), (field b 31 0, 20)])

/-- The checks of SUNF in their order (R395). -/
def State.sunfCheck (s : State) (a b : Word) : Option Trap :=
  let at_ (t : Trap) : Trap := { t with info := field a 15 0 }
  match s.cur.cachedRecord (field a 15 0) with
  | none => some (at_ (trapOf 8 0x02))
  | some r =>
    let u := unfoldOf (sunfWords r a b).1 (sunfWords r a b).2
    let cap := (s.core (s.engine s.ctx.cid 4)).spcap
    if !recV r.w2 then some (at_ (trapOf 8 0x02))
    else if !recR r.w2 then some (at_ (trapOf 3 0x04))
    else if 3 < u.ef then some (at_ (trapOf 8 0x03))
    else if u.kh == 0 || u.kw == 0 || u.sy == 0 || u.sx == 0 || u.dy == 0 || u.dx == 0 || decide (u.oh < 1)
        || decide (u.ow < 1) then some (trapIL 0x0B)
    else if cap < u.base + u.size then some (trapAt 8 0x00 (s.engine s.ctx.cid 4 * 0x400000 + u.base))
    else none

/-! ## Binding (R42, R382) -/

/-- Another cell of the team has a donor's engine of a slot bound. -/
def State.boundElsewhere (s : State) (t : Team) (c slot e : Nat) : Bool :=
  t.cells.any (fun q => q != c && (s.core q).bindOf slot == e)

/-- The check of SBIND (R382). -/
def State.bindCheck (s : State) (e sl : Nat) : Option Trap :=
  let ok :=
    if sl == 3 then false
    else if e == 15 then true
    else if 8 ≤ e then false
    else match s.teamOf s.ctx.cid with
      | none => false
      | some t => decide (e < t.donors.length) && !s.boundElsewhere t s.ctx.cid (sl + 3) e
  if ok then none else some (trapIL 0x0C)

/-- The checks at issue of the CFG slot; a stoker's CFG slot is refused whole (R308, R380). -/
def cfgCheck (i : Instr) (s : State) : Option Trap :=
  if isStoker s.ctx.cid then some (trapIL 0x0D)
  else match i with
    | .sscl a _ => if scalesOk (s.rd a) then none else some (trapOf 6 0x06)
    | .sunf a b => s.sunfCheck (s.rd a) (s.rd b)
    | .sswzReg a => swzCheck (field (s.rd a) 12 0)
    | .sswzImm v => swzCheck v.toNat
    | .sbind e sl => s.bindCheck e.toNat sl.toNat
    | i => encodingCheck (WellFormed i)

/-- A write of the CFG slot behind its checks: pending on a target for a number of cycles. -/
def State.cfgWrite (s : State) (i : Instr) (target left : Nat) (v : Word) : Step :=
  s.guarded i (cfgCheck i s) (fun s => s.modCur (fun k => k.pend target left v))

/-- NOP in CFG does nothing (R369). -/
def execNopCfg (s : State) : Step := s.guarded .nopCfg (cfgCheck .nopCfg s) (fun s => s)

/-- SFMT, register form (R384). -/
def execSfmtReg (a : BitVec 6) (s : State) : Step := s.cfgWrite (.sfmtReg a) 1 4 (s.rd a &&& fmtMask)

/-- SFMT, field form: it merges into the latest value written (R384). -/
def execSfmtField (fld : BitVec 3) (val : BitVec 4) (s : State) : Step :=
  s.cfgWrite (.sfmtField fld val) 1 4 (fmtWithField (s.cur.latest 1 s.cur.fmt) fld val)

/-- SSCL (R387). -/
def execSscl (a : BitVec 6) (grp : BitVec 2) (s : State) : Step := s.cfgWrite (.sscl a grp) (2 + grp.toNat) 4 (s.rd a)

/-- SUNF: both registers take their values in the shadow (R395). -/
def execSunf (a b : BitVec 6) (s : State) : Step :=
  s.guarded (.sunf a b) (cfgCheck (.sunf a b) s) (fun s =>
    match s.cur.cachedRecord (field (s.rd a) 15 0) with
    | none => s
    | some r =>
      let u := sunfWords r (s.rd a) (s.rd b)
      s.modCur (fun k => (k.pend 7 4 u.1).pend 8 4 u.2))

/-- SSWZ, register form (R390). -/
def execSswzReg (a : BitVec 6) (s : State) : Step := s.cfgWrite (.sswzReg a) 6 4 (word (field (s.rd a) 12 0))

/-- SSWZ, immediate form (R390). -/
def execSswzImm (v : BitVec 13) (s : State) : Step := s.cfgWrite (.sswzImm v) 6 4 (v.zeroExtend 64)

/-- SAPX through the knob (R381). -/
def execSapxKnob (qk : BitVec 4) (s : State) : Step := s.cfgWrite (.sapxKnob qk) 9 4 (apxOfKnob qk.toNat)

/-- SAPX with its fields: EXPL is set and QK kept (R264, R381). -/
def execSapxExplicit (ovs ndig : BitVec 3) (theta : BitVec 8) (s : State) : Step :=
  s.cfgWrite (.sapxExplicit ovs ndig theta) 9 4
    (pack [(theta.toNat, 0), (ndig.toNat, 8), (ovs.toNat, 11), (field (s.cur.latest 9 s.cur.apx) 19 16, 16), (1, 20)])

/-- SBIND's effect after the last execution of its bundle: the slot's latch is NOP and BIND changes (R382). -/
def Core.rebind (k : Core) (e sl : Nat) : Core :=
  { k.setLatch (sl + 3) Latch.nop with bind := word (setBits k.bind.toNat (4 * sl + 3) (4 * sl) e) }

/-- SBIND (R42, R382): the binding waits for the last execution of its bundle. -/
def execSbind (e : BitVec 4) (sl : BitVec 2) (s : State) : Step :=
  s.guarded (.sbind e sl) (cfgCheck (.sbind e sl) s) (fun s =>
    s.modCur (fun k => { k with bindReq := some (e.toNat, sl.toNat) }))

/-- SSKEW (R388). -/
def execSskew (k : BitVec 6) (sl : BitVec 2) (s : State) : Step :=
  s.cfgWrite (.sskew k sl) (targetReg 0x031) 1
    (word (setBits (s.cur.latest (targetReg 0x031) s.cur.skew).toNat (8 * sl.toNat + 5) (8 * sl.toNat) k.toNat))

/-- SSLK (R389). -/
def execSslk (xfr mat vec : BitVec 4) (s : State) : Step :=
  s.cfgWrite (.sslk xfr mat vec) (targetReg 0x030) 1 (pack [(vec.toNat, 0), (mat.toNat, 4), (xfr.toNat, 8)])

end Sys2Proof.Machine
end

