-- ==== Sys2Proof/Machine/Lanes.lean ====
section
/-!
DEFINITION. Machine/Lanes.lean: what the VA operations compute in their lanes (R57 to R66, R85, R86, R399 to R430), as
functions of the operands alone: formats accepted, kinds, latencies, lane results and flags.
-/
namespace Sys2Proof.Machine

/-- The operation and fields of a VA instruction. -/
def vaParts (i : Instr) : Option (VAOp × FieldsVA) :=
  match i with
  | .vadd f => some (.vadd, f) | .vsub f => some (.vsub, f) | .vmul f => some (.vmul, f) | .vfma f => some (.vfma, f)
  | .vdiv f => some (.vdiv, f) | .vsqrt f => some (.vsqrt, f) | .vrsq f => some (.vrsq, f) | .vexp f => some (.vexp, f)
  | .vmin f => some (.vmin, f) | .vmax f => some (.vmax, f) | .vabs f => some (.vabs, f) | .vneg f => some (.vneg, f)
  | .vcmp f => some (.vcmp, f) | .vthr f => some (.vthr, f) | .vsel f => some (.vsel, f) | .vand f => some (.vand, f)
  | .vor f => some (.vor, f) | .vxor f => some (.vxor, f) | .vshl f => some (.vshl, f) | .vshr f => some (.vshr, f)
  | .vcvt f => some (.vcvt, f) | .vqnt f => some (.vqnt, f) | .vamax f => some (.vamax, f) | .vred f => some (.vred, f)
  | .vmov f => some (.vmov, f) | .vbcst f => some (.vbcst, f) | .vperm f => some (.vperm, f) | .vidx f => some (.vidx, f)
  | _ => none

/-- The format of a VA operation: T, or FMT.VF as captured (R399). -/
def vaFormat (f : FieldsVA) (fmt : Word) : Nat := if f.td = 1 then f.t.toNat else fmtVf fmt

/-- Integer codes of at most 32 bits. -/
def isLaneInt (t : Nat) : Bool := (decide (4 ≤ t) && decide (t ≤ 6)) || (decide (8 ≤ t) && decide (t ≤ 10))

/-- Raw codes of at most 32 bits. -/
def isLaneRaw (t : Nat) : Bool := decide (12 ≤ t) && decide (t ≤ 14)

/-- A format code that a lane can hold on either side of VCVT, block sources apart (R409). -/
def isLaneFormat (t : Nat) : Bool := isFloat t || isLaneInt t || isLaneRaw t

/-- The formats that an operation accepts (R400, R409, R420, R424). -/
def vaAccepts (op : VAOp) (f : FieldsVA) (fmt : Word) : Bool :=
  let t := vaFormat f fmt
  match op with
  | .vadd | .vsub | .vmul | .vcmp | .vabs | .vneg | .vmin | .vmax | .vred => isFloat t || isLaneInt t
  | .vfma | .vdiv | .vsqrt | .vrsq | .vexp | .vthr | .vamax => isFloat t
  | .vand | .vor | .vxor | .vbcst => isLaneFormat t
  | .vshl | .vshr => isLaneInt t || isLaneRaw t
  | .vcvt => f.td == 1 && isLaneFormat t && (isLaneFormat f.c.toNat || isBlock f.c.toNat)
  | .vqnt => f.td == 1 && isBlock f.t.toNat && isFloat (fmtVf fmt)
  | .vsel | .vmov | .vperm | .vidx => true

/-- Online delay of a digit-serial operation; 0 for one that never is (R58). -/
def vaDelta (op : VAOp) : Nat :=
  match op with
  | .vadd | .vsub | .vcmp | .vthr => 1
  | .vmul | .vfma => 2
  | .vdiv | .vsqrt | .vrsq | .vexp => 3
  | _ => 0

/-- The operation streams digits in a format (R57, R58). -/
def vaSerial (op : VAOp) (t : Nat) : Bool := vaDelta op != 0 && isFloat t

/-- The operation may be a chained producer (R59). -/
def vaProduces (op : VAOp) (t : Nat) : Bool := vaSerial op t && op != .vcmp && op != .vthr

/-- Latency in schedule cycles (R58, R400, R420). -/
def vaLatency (op : VAOp) (t : Nat) : Nat :=
  if vaSerial op t then vaDelta op + digitLength t
  else match op with
    | .vadd | .vsub | .vcmp | .vmin | .vmax | .vperm => 2
    | .vmul => 3
    | .vabs | .vneg => if isFloat t then 1 else 2
    | .vamax | .vcvt => 4
    | .vred => if isFloat t then 10 else 4
    | .vqnt => 6
    | _ => 1

/-- A float lane pattern with its sign bit set to a value. -/
def floatWithSign (t : Nat) (neg : Bool) (a : Nat) : Nat :=
  lowBits (formatWidth t - 1) a + (if neg then 2 ^ (formatWidth t - 1) else 0)

/-- VMIN and VMAX of R417: `takeB` says when the second operand wins. -/
def pickValue (t : Nat) (takeB : Value → Value → Bool) (takeBInt : Int → Int → Bool) (a b : Nat) : Result :=
  let w := formatWidth t
  if isFloat t then
    let x := floatValue t (lowBits w a)
    let y := floatValue t (lowBits w b)
    if x.isNaN || y.isNaN then nanResult t (x.isSignalling || y.isSignalling)
    else (lowBits w (if takeB x y then b else a), flagNone)
  else (lowBits w (if takeBInt (intValue t a) (intValue t b) then b else a), flagNone)

/-- VTHR of one lane (R430). -/
def thresholdLane (t : Nat) (a thr : Nat) : Result :=
  let w := formatWidth t
  let x := floatValue t (lowBits w a)
  let y := floatValue t (lowBits w thr)
  if x.isNaN || y.isNaN then nanResult t (x.isSignalling || y.isSignalling || (y.isNaN && !x.isNaN))
  else if valueLt x y then (0, flagNone)
  else (lowBits w a, flagNone)

/-- VCMP of one lane (R407). -/
def compareLane (t cnd : Nat) (a b : Nat) : Bool × Flags :=
  let w := formatWidth t
  if isFloat t then
    let x := floatValue t (lowBits w a)
    let y := floatValue t (lowBits w b)
    let nan := x.isNaN || y.isNaN
    let fl := invIf (x.isSignalling || y.isSignalling || (nan && decide (2 ≤ cnd)))
    let r := match cnd with
      | 0 => valueEq x y
      | 1 => !valueEq x y
      | 2 => valueLt x y
      | 3 => valueLt x y || valueEq x y
      | 4 => valueLt y x
      | _ => valueLt y x || valueEq x y
    (r, fl)
  else
    let x := signedOf w a
    let y := signedOf w b
    let m := lowBits w a
    let n := lowBits w b
    let r := match cnd with
      | 0 => m == n
      | 1 => m != n
      | 2 => decide (x < y)
      | 3 => decide (x ≤ y)
      | 4 => decide (y < x)
      | 5 => decide (y ≤ x)
      | 6 => decide (m < n)
      | 7 => decide (m ≤ n)
      | 8 => decide (n < m)
      | _ => decide (n ≤ m)
    (r, flagNone)

/-- The rounding mode of VCVT (R302). -/
def cvtMode (rms : Nat) (fmt : Word) : Mode := if rms = 0 then fmtRm fmt else modeOf (rms - 1)

/-- The result of one lane of an elementwise operation, before it is widened to the lane: `t` the format, `m` the mode,
`ndig` APX.NDIG; `a`, `b`, `c` the lane's operands, `x` the scalar operand. -/
def vaLane (op : VAOp) (f : FieldsVA) (fmt : Word) (t ndig : Nat) (a b c x : Nat) : Result :=
  let w := formatWidth t
  let m := fmtRm fmt
  let fv (p : Nat) : Value := floatValue t (lowBits w p)
  match op with
  | .vadd => if isFloat t then addValues t m (fv a) (fv b) else (lowBits w (a + b), flagNone)
  | .vsub => if isFloat t then addValues t m (fv a) (fv b).negate else (subBits w (lowBits w a) (lowBits w b), flagNone)
  | .vmul => if isFloat t then mulValues t m (fv a) (truncateDigits ndig (fv b)) else (lowBits w (a * b), flagNone)
  | .vfma => fmaValues t m (fv a) (truncateDigits ndig (fv b)) (fv c)
  | .vdiv => divValues t m (fv a) (fv b)
  | .vsqrt => sqrtValue t m (fv a)
  | .vrsq => rsqrtValue t m (fv a)
  | .vexp => expValue t m (fv a)
  | .vmin => pickValue t (fun u v => valueLtZero v u) (fun u v => decide (v < u)) a b
  | .vmax => pickValue t (fun u v => valueLtZero u v) (fun u v => decide (u < v)) a b
  | .vabs => if isFloat t then (floatWithSign t false a, flagNone) else (wrapInt w (intValue t a).natAbs, flagNone)
  | .vneg => if isFloat t then (floatWithSign t (!bit a (w - 1)) a, flagNone) else (subBits w 0 (lowBits w a), flagNone)
  | .vand => (lowBits w a &&& lowBits w b, flagNone)
  | .vor => (lowBits w a ||| lowBits w b, flagNone)
  | .vxor => (lowBits w a ^^^ lowBits w b, flagNone)
  | .vshl => (shlBits w (lowBits w a) (lowBits w b), flagNone)
  | .vshr => (if isSigned t then sraBits w (lowBits w a) (lowBits w b) else shrBits w (lowBits w a) (lowBits w b), flagNone)
  | .vcvt => convertLane f.c.toNat t (cvtMode f.b.toNat fmt) a
  | .vthr => thresholdLane t a x
  | .vbcst => (lowBits w x, flagNone)
  | _ => (0, flagNone)

/-- A lane's bits as the register holds them (R75). -/
def laneBits (t x : Nat) : Lane := BitVec.ofNat 32 (extendTo 32 t x)

/-- The lanes that a source names: 128 patterns of 32 bits. -/
abbrev Source := List Lane

/-- Lane `l` of a source. -/
def srcAt (s : Source) (l : Nat) : Nat := (s.getD l 0).toNat

/-- The operands of a VA operation, as its start cycle finds them. -/
structure VecIn where
  a : Source
  b : Source
  c : Source
  act : Pred
  old : Source        -- the destination before the write
  sel : Pred          -- VSEL's selector
  x : Nat             -- scalar operand
  deriving DecidableEq, Repr

/-- A lane result with no decision yet. -/
def laneRes (v : Lane) (act : Bool) (fl : Flags) : LaneRes :=
  ⟨v, act, if act then fl else flagNone, false, false, false, false, false, false, 0, 7, dyadZero, 0, false, []⟩

/-- Lane `l` active. -/
def activeAt (p : Pred) (l : Nat) : Bool := p.getLsbD l

/-- The bytes of a group image held in a register: four to a lane (R83). -/
def sourceByte (s : Source) (n : Nat) : Nat := srcAt s (n / 4) / 256 ^ (n % 4) % 256

/-- The group of R83 held in a register: element `i` as a value, the scale from the captured table (R82). -/
def groupElement (t : Nat) (sc : List Nat) (byte : Nat → Nat) (i : Nat) : Value :=
  let h := bytesNat ((List.range 8).map byte)
  scaleBy (blockElement t h i (groupCode t byte i)) (scaleValue (scaleEntry sc (h % 16)))

/-- VCVT from a block format (R409): element `l` of the group image that vA holds. A raw target takes the element's own
bits, with no flag (R85; log 17, DEDUCED). -/
def vcvtBlock (f : FieldsVA) (cap : Capture) (t : Nat) (s : Source) (l : Nat) : Result :=
  if isRaw t then (lowBits (formatWidth t) (groupCode f.c.toNat (sourceByte s) l), flagNone)
  else convertValue t (cvtMode f.b.toNat cap.fmt) (groupElement f.c.toNat cap.scales (sourceByte s) l)

/-- The magnitude that VAMAX forms over one sub-block (R404). -/
def amaxBlock (t : Nat) (xs : List Value) : Result :=
  if xs.any Value.isNaN then nanResult t (xs.any Value.isSignalling)
  else if xs.any Value.isInf then (floatInf t false, flagNone)
  else
    let m := xs.foldl (fun a v => maxMagnitude a ⟨v.dyad.m.natAbs, v.dyad.e⟩) dyadZero
    roundDyadic t .rtz false m

/-- Every lane of a list of lane functions. -/
def eachLane (f : Nat → LaneRes) : List LaneRes := lanes128.map f

/-- What a VA operation computes: its lanes, and the flags of the operation as a whole (R399 to R430). The pattern of a lane
is that of an inactive lane's old contents, which a chained consumer receives (R60). -/
def vaCompute (op : VAOp) (f : FieldsVA) (cap : Capture) (ndig : Nat) (v : VecIn) : List LaneRes × Flags :=
  let t := vaFormat f cap.fmt
  let act (l : Nat) : Bool := activeAt v.act l
  let put (l : Nat) (x : Lane) (fl : Flags) : LaneRes := laneRes (if act l then x else v.old.getD l 0) (act l) fl
  match op with
  | .vmov => (eachLane (fun l => put l (v.a.getD l 0) flagNone), flagNone)
  | .vidx => (eachLane (fun l => put l (BitVec.ofNat 32 l) flagNone), flagNone)
  | .vperm => (eachLane (fun l => put l (v.a.getD (srcAt v.b l % 128) 0) flagNone), flagNone)
  | .vsel => (eachLane (fun l => put l (if activeAt v.sel l then v.a.getD l 0 else v.b.getD l 0) flagNone), flagNone)
  | .vcmp =>
    (eachLane (fun l =>
      let r := compareLane t f.c.toNat (srcAt v.a l) (srcAt v.b l)
      put l (if r.1 then 1 else 0) r.2), flagNone)
  | .vred =>
    let ls := lanes128.filter act
    if isFloat t then
      let r := sumValues t (fmtRm cap.fmt) (ls.map (fun l => floatValue t (lowBits (formatWidth t) (srcAt v.a l))))
      (eachLane (fun _ => laneRes (laneBits t r.1) true flagNone), r.2)
    else
      let x := ls.foldl (fun n l => n + srcAt v.a l) 0
      (eachLane (fun _ => laneRes (laneBits t (lowBits (formatWidth t) x)) true flagNone), flagNone)
  | .vamax =>
    let blk (b : Nat) : Result :=
      amaxBlock t (((List.range 32).filter (fun i => act (32 * b + i))).map
        (fun i => floatValue t (lowBits (formatWidth t) (srcAt v.a (32 * b + i)))))
    let bs := [blk 0, blk 1, blk 2, blk 3]
    (eachLane (fun l => put l (laneBits t (bs.getD (l / 32) (0, flagNone)).1) flagNone), unionFlags (bs.map Prod.snd))
  | .vqnt =>
    let vf := fmtVf cap.fmt
    let xs := lanes128.map (fun l => floatValue vf (lowBits (formatWidth vf) (srcAt v.a l)))
    let q := quantise f.t.toNat f.b.toNat (fmtGap cap.fmt) cap.scales (fmtRm cap.fmt) xs
    let bytes := groupBytes f.t.toNat q.1 q.2.1
    (eachLane (fun l => laneRes (BitVec.ofNat 32 (bytesNat ((bytes.drop (4 * l)).take 4))) true flagNone), q.2.2)
  | .vcvt =>
    if isBlock f.c.toNat then
      (eachLane (fun l => let r := vcvtBlock f cap t v.a l; put l (laneBits t r.1) r.2), flagNone)
    else
      (eachLane (fun l => let r := vaLane op f cap.fmt t ndig (srcAt v.a l) 0 0 v.x; put l (laneBits t r.1) r.2), flagNone)
  | _ =>
    (eachLane (fun l =>
      let r := vaLane op f cap.fmt t ndig (srcAt v.a l) (srcAt v.b l) (srcAt v.c l) v.x
      put l (laneBits t r.1) r.2), flagNone)

/-- Truncated multiplier digits of an operation (R269): those of each active lane of a float VMUL or VFMA. -/
def vaTruncated (op : VAOp) (t ndig : Nat) (act : Pred) : Nat :=
  if isFloat t && (op == .vmul || op == .vfma) then
    (lanes128.filter (activeAt act)).length * truncatedDigits ndig t
  else 0

/-- A lane of a producer is kept by a `.cut` consumer (R62): `v` is the producer's value, `c` the comparison point. -/
def keepLane (thr : Bool) (v c : Value) : Bool :=
  if v.isNaN then true
  else if thr then !c.isNaN && !valueLt v c
  else valueEq v c

end Sys2Proof.Machine
end

