-- ==== Sys2Proof/Machine/Digits.lean ====
section
/-!
DEFINITION. Machine/Digits.lean: the digit streams of digit-serial lanes (R55, R57, R58, R62 to R64, R452): the stream exponent, the
digits that the units form, and the digit at which a `.cut` consumer decides a lane.
-/
namespace Sys2Proof.Machine

/-! ## Streams (R55, R452) -/

/-- The exponent of a nonzero number: the integer e with 2^(e − 1) ≤ |x| < 2^e (R452). -/
def Dyadic.exponent (x : Dyadic) : Int := (x.m.natAbs.log2 + 1 : Nat) + x.e

/-- The greatest integer not above a number. -/
def Dyadic.floor (x : Dyadic) : Int :=
  if 0 ≤ x.e then x.m * (2 ^ x.e.toNat : Nat) else x.m.fdiv (2 ^ (-x.e).toNat : Nat)

/-- The number times a power of two. -/
def Dyadic.scale (x : Dyadic) (e : Int) : Dyadic := ⟨x.m, x.e + e⟩

/-- The value is finite. -/
def Value.isFinite : Value → Bool
  | .fin _ _ _ => true
  | _ => false

/-- The quotient of two numbers cut off after 160 bits below the binary point of its integer part: it lies in the binade of the exact
one. -/
def Dyadic.quotient (a b : Dyadic) : Dyadic := ⟨(a.m * 2 ^ 160).tdiv b.m, a.e - b.e - 160⟩

/-- The exponent in the sense of R452 of the exponential of a number between −256 and 256: one more than the whole part of x ÷ ln 2. -/
def Dyadic.expExponent (x : Dyadic) : Int :=
  (x.m * 10 ^ 25 * (2 ^ x.e.toNat : Nat)).fdiv (6931471805599453094172321 * (2 ^ (-x.e).toNat : Nat)) + 1

/-- The exponential as its digits stand for it: the rounded result where that lies in the binade of the exact one or at its end, and
otherwise a number of that binade; below 2^−256 the digits stand for nothing. -/
def expNumber (x v : Dyadic) : Dyadic :=
  if 256 ≤ x.floor then ⟨1, 300⟩
  else if x.floor < -256 then dyadZero
  else
    let e := x.expExponent
    if v.m ≠ 0 ∧ (v.exponent = e ∨ v.exponent = e + 1) then v else ⟨1, e - 1⟩

/-- The number that a lane's digits stand for; none for the special lanes of R452 whose operands decide the result. `v` is the
rounded result, `x` the scalar operand. VCMP streams the difference of its operands, VTHR its result, a root its rounded result, and a
quotient or an exponential a number of the exact result's binade: what their units form beyond it is the revision's own (log 50). -/
def streamNumber (op : VAOp) (a b c x v : Value) : Option Dyadic :=
  let near : Option Dyadic := if v.isFinite then some v.dyad else none
  match op with
  | .vadd => if a.isFinite && b.isFinite then some (a.dyad.add b.dyad) else none
  | .vsub => if a.isFinite && b.isFinite then some (a.dyad.add b.negate.dyad) else none
  | .vcmp => if a.isFinite && b.isFinite then some (a.dyad.add b.negate.dyad) else none
  | .vthr => if a.isFinite && x.isFinite then some v.dyad else none
  | .vmul => if a.isFinite && b.isFinite then some (a.dyad.mul b.dyad) else none
  | .vfma => if a.isFinite && b.isFinite && c.isFinite then some ((a.dyad.mul b.dyad).add c.dyad) else none
  | .vdiv => if a.isFinite && b.isFinite && !b.isZero then some (a.dyad.quotient b.dyad) else none
  | .vsqrt => if a.isFinite then near else none
  | .vrsq => if a.isFinite && !a.isZero then near else none
  | .vexp => if a.isFinite then some (expNumber a.dyad (if v.isFinite then v.dyad else dyadZero)) else none
  | _ => none

/-- The stream exponent of an additive operation: the larger exponent of the finite nonzero operands plus one, or 0 (R452). -/
def additiveExponent (l : List Value) : Int :=
  match (l.filter (fun v => v.isFinite && !v.isZero)).map (fun v => v.dyad.exponent) with
  | [] => 0
  | e :: es => es.foldl max e + 1

/-- The stream exponent, biased by 256: that of R452 for an additive operation, and otherwise one that the unit chooses by `pick` within
the two bounds. -/
def streamExponent (op : VAOp) (a b x : Value) (n : Dyadic) (pick : Nat) : Nat :=
  match op with
  | .vadd | .vsub | .vcmp => (additiveExponent [a, b] + 256).toNat
  | .vthr => (additiveExponent [a, x] + 256).toNat
  | _ =>
    let low := if n.m = 0 then 0 else (n.exponent + 256).toNat
    low + pick % (512 - low)

/-- A lane with the stream of a number, and its exponent biased by 256; a special one forms digits of zero with E = 0: one that its operands
decide, or one whose exact result cannot be held within ±2^255 (R452). -/
def LaneRes.stream (l : LaneRes) (op : VAOp) (a b c x v : Value) (pick : Nat) : LaneRes :=
  match (streamNumber op a b c x v).filter (fun n => n.m == 0 || decide (n.exponent ≤ 255)) with
  | none => { l with num := dyadZero, exp := 256, whole := true }
  | some n => { l with num := n, exp := streamExponent op a b x n pick }

/-- The lanes of a digit-serial operation of issue number `seq` with their streams. -/
def withStreams (op : VAOp) (t ndig seq : Nat) (v : VecIn) (l : List LaneRes) : List LaneRes :=
  let value (s : Source) (i : Nat) : Value := floatValue t (lowBits (formatWidth t) (srcAt s i))
  let multiplier (b : Value) : Value := if op == .vmul || op == .vfma then truncateDigits ndig b else b
  l.zipIdx.map (fun p =>
    if p.1.act then
      p.1.stream op (value v.a p.2) (multiplier (value v.b p.2)) (value v.c p.2) (floatValue t (lowBits (formatWidth t) v.x))
        (floatValue t (lowBits (formatWidth t) p.1.val.toNat)) (Config.digitChoice seq p.2 0)
    else p.1)

/-! ## Digits (R55, R58) -/

/-- A digit as the units form it, never −16 (R55). -/
def digitClamp (d : Int) : Int := max (-15) (min 15 d)

/-- `n` digits from digit `j` on of a stream whose rest is `r`, in units of the digit before: each is the one below or the one above the
rest, as the unit picks, so that what is left lies within one of its units (R55, R63). -/
def digitsFrom (seq lane : Nat) : Nat → Nat → Dyadic → List Int
  | 0, _, _ => []
  | n + 1, j, r =>
    let y : Dyadic := r.scale 4
    let d := digitClamp (y.floor + (if r.m = 0 then 0 else (Config.digitChoice seq lane j % 2 : Nat)))
    d :: digitsFrom seq lane n (j + 1) (y.add ⟨-d, 0⟩)

/-- The number that digits stand for, in units of 2^E (R55). -/
def digitsNumber (l : List Int) : Dyadic := l.zipIdx.foldl (fun n p => n.add ⟨p.1, -4 * ((p.2 : Int) + 1)⟩) dyadZero

/-- The first `n` digits of a lane: those that an image brought, then those that the unit forms of what they leave. -/
def LaneRes.digits (x : LaneRes) (seq lane n : Nat) : List Int :=
  let j := x.pre.length
  let rest := (((x.num.scale (256 - (x.exp : Int))).add ⟨-(digitsNumber x.pre).m, (digitsNumber x.pre).e⟩).scale (4 * j))
  x.pre.take n ++ digitsFrom seq lane (n - j) (j + 1) rest

/-- Digits that a result has formed before schedule cycle `cyc`, the guard digit among them (R58). -/
def Flight.digits (f : Flight) (cyc : Nat) : Nat :=
  match vaParts f.op with
  | some (op, va) => if f.kind = 1 then min (digitLength (vaFormat va f.fmt) + 1) (cyc - f.start - vaDelta op) else 0
  | none => 0

/-- A digit's code of 5 bits (R55). -/
def digitCode (d : Int) : Nat := wrapInt 5 d

/-- The field DIG of a lane record with digits `l`: d1 in bits 34:30; digits not formed read 0 (R72). -/
def digitField (l : List Int) : Nat :=
  (List.range 7).foldl (fun n j => n + digitCode (l.getD j 0) * 2 ^ (30 - 5 * j)) 0

/-! ## Decisions (R62, R63) -/

/-- Every rounded value still open after digits of value `p` and a tail within ±16^(−j) × 2^`e` lies strictly below `c`, or at or
above it (R63). -/
def intervalDecides (t : Nat) (m : Mode) (c : Value) (e : Int) (p : Dyadic) (j : Nat) : Bool :=
  let tail (s : Int) : Value := floatValue t (roundDyadic t m false ((p.add ⟨s, -4 * (j : Int)⟩).scale e)).1
  valueLt (tail 1) c || !valueLt (tail (-1)) c

/-- The first of the digits from `j` on after which the lane is decided; the digit after them all where none decides (R63). -/
def decidingDigit (t : Nat) (m : Mode) (c : Value) (e : Int) : Nat → Dyadic → List Int → Nat
  | j, _, [] => j
  | j, p, d :: l =>
    let q := p.add ⟨d, -4 * (j : Int)⟩
    if intervalDecides t m c e q j then j else decidingDigit t m c e (j + 1) q l

/-- The digit after which a consumer with comparison point `c` decides a lane of the result of issue number `seq`: the guard digit for a
special lane, a NaN comparison point, and a value equal to it (R63, R452). -/
def LaneRes.decidesAt (x : LaneRes) (t : Nat) (m : Mode) (seq lane : Nat) (v c : Value) : Nat :=
  let n := digitLength t
  if x.whole || c.isNaN || valueEq v c then n + 1
  else decidingDigit t m c ((x.exp : Int) - 256) 1 dyadZero (x.digits seq lane n)

end Sys2Proof.Machine
end

