-- ==== Sys2Proof/Machine/Vector.lean ====
section
/-!
DEFINITION. Machine/Vector.lean: the VEC slot (R36, R43, R59 to R64, R399 to R433, R453): checks at issue, the elastic buffer,
the start of an operation, chains and cancelled lanes, vector memory; and one meaning for each of its instructions.
-/
namespace Sys2Proof.Machine

/-! ## Elastic buffers -/

/-- The operations of a slot that wait longest, one for each engine that the slot has sent to (R382). -/
def Core.heads (k : Core) (slot : Nat) : List Waiting :=
  (k.queue.filter (fun w => w.slot == slot && !w.held)).foldl (fun l w => if l.any (fun x => x.eng == w.eng) then l else l ++ [w]) []

/-- Key of a slot and an engine in SKEWOUT. -/
def startKey (slot eng : Nat) : Nat := 8 * eng + slot

/-- A waiting operation leaves its buffer. -/
def Core.unqueue (k : Core) (seq : Nat) : Core := { k with queue := k.queue.filter (fun w => w.seq != seq) }

/-- A waiting operation changed. -/
def Core.modWaiting (k : Core) (seq : Nat) (f : Waiting → Waiting) : Core :=
  { k with queue := k.queue.map (fun w => if w.seq == seq then f w else w) }

/-- The schedule cycle from which the engine of a waiting operation may start another of the slot (R388). -/
def Core.nextStart (k : Core) (w : Waiting) : Nat := mapGet 0 k.skewOut (startKey w.slot w.eng)

/-- An operation starts on its engine in this cycle. -/
def Core.noteStart (k : Core) (w : Waiting) : Core :=
  { k with skewOut := mapSet 0 k.skewOut (startKey w.slot w.eng) (k.cyc + 1) }

/-- A result joins the results in flight in issue order. -/
def insertFlight (f : Flight) : List Flight → List Flight
  | [] => [f]
  | g :: l => if f.seq < g.seq then f :: g :: l else g :: insertFlight f l

/-- A result of core `c` joins its results in flight. -/
def Core.fly (k : Core) (f : Flight) : Core := { k with flights := insertFlight f k.flights }

/-- The flight of an operation that starts now. -/
def Waiting.flight (w : Waiting) (k : Core) (kind : Nat) (dest : Dest) (rem : Nat) : Flight :=
  { seq := w.seq, slot := w.slot, op := w.op, ipc := w.ipc, eng := w.eng, kind := kind, dest := dest, rem := rem,
    open_ := false, free := false, skewl := w.skew, landed := false, sval := 0, lanes := [], flags := flagNone, fmt := w.cap.fmt, tok := 0,
    cnt := .none, sb := false, chain := w.chain, icyc := w.icyc, start := k.cyc, eph := false, cutc := false,
    heldw := false, parts := 0, fault := none, ran := false }

/-- A cause found in an operation after its issue (R214). -/
def Waiting.cause (w : Waiting) (c : Nat) (async : Bool) (t : Trap) : Cause :=
  { lateCause w.seq w.eng w.ipc w.slot w.op t (w.eng != c) with async := async }

/-- Cycles that a fault found on the operation's engine takes to the issuing cell `c`: the skew of R43 from a bound engine, none from the
cell's own (R95, R204, R214). -/
def Waiting.faultSkew (w : Waiting) (c : Nat) : Nat := if w.eng = c then 0 else w.skew

/-- The most that the one-way delay takes between an issuing cell and an engine on links of full width (R43). -/
def oneWayBound (c e : Nat) : Nat :=
  if c = e then 0
  else if clusterOf c = clusterOf e then 2
  else if dieOf c = dieOf e then 6
  else if dieOf c / 4 = dieOf e / 4 then 14
  else 26

/-- The path between a cell and an engine crosses a link that runs at half width (R43, R286). -/
def State.narrowPath (s : State) (c e : Nat) : Bool :=
  dieOf c != dieOf e && ((mapGet Link.reset s.links (19 + dieOf c)).half || (mapGet Link.reset s.links (19 + dieOf e)).half)

/-- The one-way delay between an issuing cell and an engine: the device's own, within the bound of R43 while the links on its path have
their full width. -/
def State.oneWay (s : State) (c e : Nat) : Nat :=
  if c = e then 0
  else if s.narrowPath c e then Config.oneWay c e
  else min (Config.oneWay c e) (oneWayBound c e)

/-- The operation as it enters its slot's buffer: operands read, FMT and the tables captured, slack and skew in force (R36,
R38, R43, R91). -/
def State.waitingOp (s : State) (i : Instr) (x0 x1 x2 : Word) (t : Tokens) (chain : Option Nat) (chdist : Nat) : Waiting :=
  let k := s.cur
  let slot := s.ctx.slot
  { seq := s.seq + 1, slot := slot, op := i, ipc := s.ctx.ipc, eng := s.engine s.ctx.cid slot, cap := k.capture, x0 := x0.toNat,
    x1 := x1.toNat, x2 := x2.toNat, due := k.skewOf slot, late := 0, slack := k.slackOf slot, skew := k.skewOf slot,
    way := s.oneWay s.ctx.cid (s.engine s.ctx.cid slot),
    bun := s.ctx.bun, toks := k.waitsOn t, chain := chain, chdist := chdist, given := [], icyc := k.cyc,
    arr := s.beat + s.oneWay s.ctx.cid (s.engine s.ctx.cid slot), stall := none, held := false }

/-- The operation issues: it takes its number, its counter and token rise, and it enters the buffer (R46, R123). -/
def State.enqueue (s : State) (w : Waiting) (tok : Nat) (cnt : Counter) : State :=
  { s.modCur (fun k => { (k.countUp cnt).produce tok w.seq with queue := k.queue ++ [w] }) with seq := s.seq + 1 }

/-! ## Checks at issue -/

/-- The operation of a slot issued in a schedule cycle: in flight or waiting, as (number, operation, engine, captured FMT). -/
def Core.issuedAt (k : Core) (cyc : Nat) : Option (Nat × Instr × Nat × Word) :=
  match k.flights.find? (fun f => f.slot == 3 && f.icyc == cyc) with
  | some f => some (f.seq, f.op, f.eng, f.fmt)
  | none => (k.queue.find? (fun w => w.slot == 3 && w.icyc == cyc)).map (fun w => (w.seq, w.op, w.eng, w.cap.fmt))

/-- The producer already has a chained consumer. -/
def Core.hasConsumer (k : Core) (seq : Nat) : Bool :=
  k.flights.any (fun f => f.chain == some seq) || k.queue.any (fun w => w.chain == some seq)

/-- The producer of a chained operation, or the trap of R59. `n` is the distance, `t` the consumer's format. -/
def State.chainOf (s : State) (op : VAOp) (n t : Nat) : Trap ⊕ Nat :=
  let k := s.cur
  let bad : Trap ⊕ Nat := .inl (trapIL 0x04)
  if !(vaSerial op t) then bad
  else if k.cyc < n then bad
  else match k.issuedAt (k.cyc - n) with
    | none => bad
    | some (seq, i, eng, fmt) =>
      match vaParts i with
      | none => bad
      | some (pop, pf) =>
        let pt := vaFormat pf fmt
        if !(vaProduces pop pt) then bad
        else if decide (n < vaDelta pop) || decide (vaLatency pop pt < n) then bad
        else if pt != t then bad
        else if eng != s.engine s.ctx.cid 3 then bad
        else if s.owed.ib || decide (k.cyc - n + 1 < k.lastIb) then bad
        else if pf.eph == 1 && k.hasConsumer seq then .inl (trapIL 0x05)
        else .inr seq

/-- The chain's producer, if the operation has one that passes. -/
def State.chainSeq (s : State) (op : VAOp) (f : FieldsVA) : Option Nat :=
  if f.chs = 0 then none
  else match s.chainOf op f.distance (vaFormat f s.cur.fmt) with
    | .inl _ => none
    | .inr n => some n

/-- The checks of a VA operation at issue (R300, R302, R399, R59); VQNT's format comes first (R424). -/
def State.vaCheck (s : State) (op : VAOp) (f : FieldsVA) : Option Trap :=
  let t := vaFormat f s.cur.fmt
  if op == .vqnt && !vaAccepts op f s.cur.fmt then some (trapIL 0x07)
  else if !vaChainFieldOk op f then some (trapIL 0x04)
  else if !vaFieldsOk op f then some trapEncoding
  else if !vaDistanceOk f then some (trapIL 0x04)
  else if !vaAccepts op f s.cur.fmt then some (trapIL 0x07)
  else if op == .vcmp && isFloat t && decide (5 < f.c.toNat) then some trapEncoding
  else if f.chs = 0 then none
  else match s.chainOf op f.distance t with
    | .inl x => some x
    | .inr _ => none

/-- Bytes that a lane moves (R413). -/
def laneBytes (w : BitVec 2) : Nat := 2 ^ (2 - w.toNat)

/-- The block address of VLD or VST: as encoded, or as the latch has stepped it (R306). -/
def State.vmAddr (s : State) (f : FieldsVM) : Nat :=
  if s.ctx.reissue then (s.cur.latch 3).addr
  else wrapInt 32 ((field (s.rd f.a) 31 0 : Nat) + 64 * f.ofs.toInt)

/-- The check of VLD's or VST's block (R413, R415). -/
def State.blockCheck (s : State) (f : FieldsVM) : Option Trap :=
  let a := s.vmAddr f
  let g := f.g == 1
  s.spCheck s.ctx.cid (addrCell (s.engine s.ctx.cid 3) g a) (addrOffset a) (128 * laneBytes f.w) 64 (shownAddr g a)

/-- The checks at issue of the VEC slot; a stoker's is refused whole (R308). -/
def vecCheck (i : Instr) (s : State) : Option Trap :=
  if isStoker s.ctx.cid then some (trapIL 0x0D)
  else match i with
    | .vld f => firstTrap [encodingCheck (laneWidthOk f.w f.x false), s.blockCheck f]
    | .vst f => firstTrap [encodingCheck (laneWidthOk f.w f.x true), s.blockCheck f]
    | .vgth f => encodingCheck (laneWidthOk f.w f.x false)
    | .vsct f => encodingCheck (laneWidthOk f.w f.x true)
    | i =>
      match vaParts i with
      | some (op, f) => s.vaCheck op f
      | none => none

/-! ## Starting a VA operation -/

/-- The lanes of a vector register. -/
def Core.source (k : Core) (r : Nat) : Source := lanes128.map (fun l => k.lane r l)

/-- The lanes that a chained operation receives: the producer's rounded results, or the old contents where it was inactive
(R60). -/
def Core.chained (k : Core) (w : Waiting) : Source :=
  match w.chain with
  | none => []
  | some n =>
    match k.flights.find? (fun f => f.seq == n) with
    | some f => f.lanes.map LaneRes.val
    | none => w.given.map LaneRes.val

/-- The operands of a VA operation in its start cycle. `q` is the engine's core. -/
def vaOperands (k q : Core) (w : Waiting) (f : FieldsVA) : VecIn :=
  let src (n : Nat) (r : BitVec 6) : Source := if f.chs.toNat == n then k.chained w else q.source r.toNat
  { a := src 1 f.a, b := src 2 f.b, c := src 3 f.c, act := q.pred f.p.toNat, old := q.source f.d.toNat,
    sel := q.pred (f.c.toNat % 8), x := w.x0 }

/-- What a `.cut` consumer decides about the lanes of its producer, of issue number `seq` under mode `m` (R62, R63): for lanes active
in both, whether it is cancelled, on which side it lies, and the digit that decides it; the other lanes wait for nothing. -/
def markLanes (thr : Bool) (t : Nat) (m : Mode) (seq : Nat) (point : Source) (cons prod : List LaneRes) : List LaneRes :=
  prod.zipIdx.map (fun p =>
    let x := p.1
    if x.act && (cons.getD p.2 x).act then
      let v := floatValue t (lowBits (formatWidth t) x.val.toNat)
      let c := floatValue t (lowBits (formatWidth t) (srcAt point p.2))
      { x with cut := !keepLane thr v c, side := !valueLt v c, last := valueEq v c, dec := false, mark := true,
               at_ := x.decidesAt t m seq p.2 v c }
    else { x with dec := true })

/-- Upstream under R64: a lane is cancelled with the lane it feeds. -/
def markUpstream (down up : List LaneRes) : List LaneRes :=
  up.zipIdx.map (fun p =>
    let x := p.1
    let d := down.getD p.2 x
    if x.act && !d.dec then { x with cut := d.cut, side := d.side, last := d.last, dec := false, mark := true, at_ := d.at_ }
    else { x with dec := true })

/-- The lanes of a producer in flight replaced. -/
def Core.setLanes (k : Core) (seq : Nat) (l : List LaneRes) : Core := k.modFlight seq (fun f => { f with lanes := l })

/-- The upstream producers of a marked one take its decisions, as far as they are `.eph` themselves (R64). -/
def Core.markChain (k : Core) : Nat → Option Nat → List LaneRes → Core
  | 0, _, _ => k
  | _, none, _ => k
  | n + 1, some seq, down =>
    match k.flights.find? (fun f => f.seq == seq) with
    | none => k
    | some f =>
      if f.eph then
        let l := markUpstream down f.lanes
        (k.setLanes seq l).markChain n f.chain l
      else k

/-- A `.cut` consumer that starts marks what it will cancel in its `.eph` producer and upstream (R62, R64). -/
def Core.markCut (k : Core) (op : VAOp) (f : FieldsVA) (t : Nat) (v : VecIn) (w : Waiting) (cons : List LaneRes) : Core :=
  match w.chain with
  | none => k
  | some n =>
    match k.flights.find? (fun g => g.seq == n) with
    | none => k
    | some g =>
      if f.cut = 1 && g.eph then
        let point := if op == .vthr then lanes128.map (fun _ => BitVec.ofNat 32 v.x) else if f.chs = 1 then v.b else v.a
        let l := markLanes (op == .vthr) t (fmtRm g.fmt) n point cons g.lanes
        (k.setLanes n l).markChain 65 g.chain l
      else k

/-- The destination of a VA operation. -/
def vaDest (op : VAOp) (f : FieldsVA) : Dest := if op == .vcmp then .pred (f.d.toNat % 8) else .vector f.d.toNat

/-- A VA operation of core `c` starts (R399). -/
def State.startVA (s : State) (c : Nat) (w : Waiting) (op : VAOp) (f : FieldsVA) : State :=
  let k := s.core c
  let t := vaFormat f w.cap.fmt
  let ndig := apxNdig k.apx
  let v := vaOperands k (s.core w.eng) w f
  let r := vaCompute op f w.cap ndig v
  let fl := { w.flight k (if vaSerial op t then 1 else 2) (vaDest op f) (vaLatency op t) with
    lanes := if vaSerial op t then withStreams op t ndig w.seq v r.1 else r.1, flags := r.2, eph := f.eph == 1 && vaProduces op t, cutc := f.cut == 1 && vaSerial op t }
  (s.modCore c (fun k => (k.markCut op f t v w r.1).fly fl)).count c 0x19 (vaTruncated op t ndig v.act)

/-! ## Vector memory -/

/-- Bank rows of a scattered access beyond one for each bank (R414): the largest count over the banks, less one. -/
def extraRows (offs : List Nat) : Nat :=
  let rows := (offs.map (· / 64)).eraseDups
  (List.range 32).foldl (fun m b => max m ((rows.filter (fun r => r % 32 == b)).length - 1)) 0

/-- Address of lane `l` of VGTH or VSCT (R414). -/
def laneAddr (q : Core) (w : Waiting) (f : FieldsVG) (l : Nat) : Nat :=
  wrapInt 32 ((w.x0 : Int) + (q.lane f.b.toNat l).toInt)

/-- The active lanes under a predicate. -/
def activeLanes (p : Pred) : List Nat := lanes128.filter (activeAt p)

/-- The bytes of lane `l`'s element at a physical place. -/
def laneStore (pa n : Nat) (v : Lane) : List (Nat × Byte) := bytesAt pa n v.toNat

/-- A lane pattern as loaded (R75, R415). -/
def laneLoad (n : Nat) (sext : Bool) (x : Nat) : Lane := BitVec.ofNat 32 (if sext then wrapInt 32 (signedOf (8 * n) x) else x)

/-- The read of one lane takes its value at once. -/
def State.laneNow (s : State) (c : Nat) (w : Waiting) (n : Nat) (sext : Bool) (place : Nat → Option Nat) (l : Nat) :
    LaneRes × List Nat :=
  match place l with
  | none => (laneRes 0 false flagNone, [])
  | some pa =>
    let v := s.findNat c w.bun pa n
    (laneRes (laneLoad n sext v.1) true flagNone, v.2)

/-- A vector load whose lanes' places are known: `place l` is none for an inactive lane. With `now` every lane reads at once
and the result lands after the latency; otherwise each lane's read performs by itself and vD is scoreboarded (R157, R162,
R413). -/
def State.loadLanes (s : State) (c : Nat) (w : Waiting) (d tok n : Nat) (sext : Bool) (place : Nat → Option Nat)
    (now remote : Bool) (lat : Nat) : State :=
  let fl := { w.flight (s.core c) 2 (.vector d) lat with tok := tok, cnt := .ld }
  let act := lanes128.filterMap (fun l => (place l).map (fun pa => (l, pa)))
  if now then
    let rs := lanes128.map (s.laneNow c w n sext place)
    let ue := act.find? (fun p => s.readsUe c w.bun p.2 n)
    let fl := { fl with
      lanes := rs.map Prod.fst
      fault := ue.map (fun p => w.cause c (w.icyc != (s.core c).cyc) (trapAt 5 0x00 ((p.2 - spKey w.eng 0) % 0x400000))) }
    { (s.scrubAll (act.map (fun p => (p.2, n)))).modCore c (fun k => k.fly fl) with
      from_ := s.from_ ++ (rs.flatMap Prod.snd).eraseDups.map (fun q => (⟨c, w.seq, q⟩ : ReadFrom)) }
  else
    let fl := { fl with
      lanes := lanes128.map (fun l => laneRes 0 (place l).isSome flagNone)
      sb := true
      open_ := !act.isEmpty
      free := true
      parts := act.length }
    { s.modCore c (fun k => k.fly fl) with
      reads := s.reads ++ act.map (fun p =>
        (⟨w.seq, w.bun, c, p.2, .lane p.1 n sext, none, 0, 0, 0, 3, w.seq, remote⟩ : PendRead)) }

/-- A vector store: the local lanes as one write, each remote lane as a write of its own, in lane order (R431, R432). -/
def State.storeLanes (s : State) (c : Nat) (w : Waiting) (tok : Nat) (localBytes : List (Nat × Byte))
    (remote : List (List (Nat × Byte))) : State :=
  let ws := (if localBytes.isEmpty then [] else [localBytes]) ++ remote
  let fl := { w.flight (s.core c) 5 .none 0 with tok := tok, cnt := .st, open_ := !ws.isEmpty, free := true, parts := ws.length }
  { s.modCore c (fun k => k.fly fl) with
    writes := s.writes ++ ws.zipIdx.map (fun p =>
      (⟨w.seq, w.bun, c, w.eng, .queue, p.1, none, 3, w.seq, none, none, none, 256 * w.seq + p.2, 0⟩ : PendWrite)) }

/-- The predicate of a vector memory operation, read in the start cycle. -/
def State.memPred (s : State) (w : Waiting) (p : BitVec 3) : Pred := (s.core w.eng).pred p.toNat

/-- A VLD starts (R415). -/
def State.startVld (s : State) (c : Nat) (w : Waiting) (f : FieldsVM) : State :=
  let n := laneBytes f.w
  let cid := addrCell w.eng (f.g == 1) w.x0
  let off := addrOffset w.x0
  let p := s.memPred w f.p
  let place (l : Nat) : Option Nat := if activeAt p l then some (s.spAddr c cid off + n * l) else none
  let near := s.isLocal c w.eng cid
  let s := (s.countBytes c w.eng ((s.target c cid).getD cid) (n * (activeLanes p).length)).modCore w.eng
    (fun k => { k with banks := k.banks ++ (if near then banksOf off (128 * n) else []) })
  s.loadLanes c w f.d.toNat f.tok.tp.toNat n (f.x == 1) place
    (near && !s.fenced c w.seq w.bun false && !s.atomicAhead c (spKey w.eng off) (128 * n)) (!near) 6

/-- A VST starts (R433). -/
def State.startVst (s : State) (c : Nat) (w : Waiting) (f : FieldsVM) : State :=
  let n := laneBytes f.w
  let cid := addrCell w.eng (f.g == 1) w.x0
  let off := addrOffset w.x0
  let p := s.memPred w f.p
  let q := s.core w.eng
  let near := s.isLocal c w.eng cid
  let bytes := (activeLanes p).map (fun l => laneStore (s.spAddr c cid off + n * l) n (q.lane f.d.toNat l))
  let s := (s.countBytes c w.eng ((s.target c cid).getD cid) (n * (activeLanes p).length)).modCore w.eng
    (fun k => { k with banks := k.banks ++ (if near then banksOf off (128 * n) else []) })
  if near then s.storeLanes c w f.tok.tp.toNat (bytes.flatMap id) [] else s.storeLanes c w f.tok.tp.toNat [] bytes

/-- The active lanes of VGTH or VSCT with their addresses, in lane order. -/
def State.laneAddrs (s : State) (w : Waiting) (f : FieldsVG) : List (Nat × Nat) :=
  (activeLanes (s.memPred w f.p)).map (fun l => (l, laneAddr (s.core w.eng) w f l))

/-- An active lane of a gather or scatter touches the bytes of a run. -/
def State.lanesTouch (s : State) (c : Nat) (w : Waiting) (f : FieldsVG) (pa n : Nat) : Bool :=
  (s.laneAddrs w f).any (fun p =>
    overlaps (s.spAddr c (addrCell w.eng (f.g == 1) p.2) (addrOffset p.2)) (laneBytes f.w) pa n)

/-- The check of one lane's address (R414). -/
def State.laneCheck (s : State) (c : Nat) (w : Waiting) (f : FieldsVG) (a : Nat) : Option Trap :=
  let n := laneBytes f.w
  s.spCheck c (addrCell w.eng (f.g == 1) a) (addrOffset a) n n (shownAddr (f.g == 1) a)

/-- Physical place of one lane's address. -/
def State.laneHome (s : State) (c : Nat) (w : Waiting) (f : FieldsVG) (a : Nat) : Nat :=
  s.spAddr c (addrCell w.eng (f.g == 1) a) (addrOffset a)

/-- One lane's address is local to the engine. -/
def State.laneLocal (s : State) (c : Nat) (w : Waiting) (f : FieldsVG) (a : Nat) : Bool :=
  s.isLocal c w.eng (addrCell w.eng (f.g == 1) a)

/-- The banks of the engine's scratchpad that the active lanes of a gather or scatter need. -/
def State.laneBanks (s : State) (c : Nat) (w : Waiting) (f : FieldsVG) : List Nat :=
  (((s.laneAddrs w f).filter (fun p => s.laneLocal c w f p.2)).map (fun p => bankOf (addrOffset p.2))).eraseDups

/-- The bytes of each lane of a gather or scatter, counted by the cell that holds them (R227). -/
def State.countLanes (s : State) (c : Nat) (w : Waiting) (f : FieldsVG) (l : List (Nat × Nat)) : State :=
  l.foldl (fun s p =>
    let cid := addrCell w.eng (f.g == 1) p.2
    s.countBytes c w.eng ((s.target c cid).getD cid) (laneBytes f.w)) s

/-- An operation that fails in its start cycle: nothing is read or written. Its token fails, its counter falls and the stop lands at the
first boundary once the skew of its engine has passed (R124, R214, R413). -/
def State.failStart (s : State) (c : Nat) (w : Waiting) (tok : Nat) (cnt : Counter) (t : Trap) : State :=
  s.modCore c (fun k =>
    let x := w.cause c (w.icyc != k.cyc) t
    if w.faultSkew c = 0 then ((k.countDown cnt).complete tok w.seq true).addLate x
    else k.fly { w.flight k 5 .none 0 with tok := tok, cnt := cnt, landed := true, skewl := w.skew + 1, fault := some x })

/-- A VGTH starts (R414). -/
def State.startVgth (s : State) (c : Nat) (w : Waiting) (f : FieldsVG) : State :=
  let as_ := s.laneAddrs w f
  match firstTrap (as_.map (fun p => s.laneCheck c w f p.2)) with
  | some t => s.failStart c w f.tok.tp.toNat .ld t
  | none =>
    let n := laneBytes f.w
    let place (l : Nat) : Option Nat := (as_.find? (fun p => p.1 == l)).map (fun p => s.laneHome c w f p.2)
    let far := as_.filter (fun p => !s.laneLocal c w f p.2)
    let b := s.laneBanks c w f
    let s := (s.countLanes c w f as_).modCore w.eng (fun k => { k with banks := k.banks ++ b })
    let wait := s.fenced c w.seq w.bun false || as_.any (fun p => s.atomicAhead c (s.laneHome c w f p.2) n)
    s.loadLanes c w f.d.toNat f.tok.tp.toNat n (f.x == 1) place (far.isEmpty && !wait) (!far.isEmpty) 8

/-- The bytes of the lanes of a scattered store in lane order: later lanes stand last. -/
def mergeBytes (l : List (Nat × Byte)) : List (Nat × Byte) :=
  l.foldl (fun acc p => acc.filter (fun q => q.1 != p.1) ++ [p]) []

/-- A VSCT starts (R432). -/
def State.startVsct (s : State) (c : Nat) (w : Waiting) (f : FieldsVG) : State :=
  let as_ := s.laneAddrs w f
  match firstTrap (as_.map (fun p => s.laneCheck c w f p.2)) with
  | some t => s.failStart c w f.tok.tp.toNat .st t
  | none =>
    let n := laneBytes f.w
    let q := s.core w.eng
    let bytes (p : Nat × Nat) : List (Nat × Byte) := laneStore (s.laneHome c w f p.2) n (q.lane f.d.toNat p.1)
    let near := as_.filter (fun p => s.laneLocal c w f p.2)
    let far := as_.filter (fun p => !s.laneLocal c w f p.2)
    let b := s.laneBanks c w f
    let s := (s.countLanes c w f as_).modCore w.eng (fun k => { k with banks := k.banks ++ b })
    s.storeLanes c w f.tok.tp.toNat (mergeBytes (near.flatMap bytes)) (far.map bytes)

/-- An operation of the VEC slot starts in the present cycle. -/
def State.startVec (s : State) (c : Nat) (w : Waiting) : State :=
  let s := s.modCore c (fun k => (k.unqueue w.seq).noteStart w)
  match w.op with
  | .vld f => s.startVld c w f
  | .vst f => s.startVst c w f
  | .vgth f => s.startVgth c w f
  | .vsct f => s.startVsct c w f
  | i =>
    match vaParts i with
    | some (op, f) => s.startVA c w op f
    | none => s

/-! ## The matrix engine's accesses (R94, R161, R349) -/

/-- An operation of the array path. -/
def MatOp.onArray (m : MatOp) : Bool :=
  match m.op with
  | .mma _ | .mmas _ => true
  | _ => false

/-- The K-steps of an array operation. -/
def MatOp.steps (m : MatOp) : Nat :=
  match m.op with
  | .mma f => f.ks.toNat + 1
  | .mmas f => f.ks.toNat + 1
  | _ => 0

/-- The array still forms or has to form products of the operation. -/
def MatOp.forming (m : MatOp) : Bool := m.onArray && decide (m.step < m.steps)

/-- The operations accepted before another on its engine. -/
def State.acceptedBefore (s : State) (m : MatOp) : List MatOp :=
  (s.mat.takeWhile (fun x => !(x.seq == m.seq && x.owner == m.owner))).filter (fun x => x.eng == m.eng && !x.away)

/-- A fence of its cell holds the operand fetches of an operation (R161, R162). -/
def State.fetchHeld (s : State) (m : MatOp) : Bool := m.reads && s.fenced m.owner m.seq m.bun false

/-- Accesses in the write queue of a cell: the lanes of one vector store, and the rows of one MSTACC, are one. An MSTACC that has begun, and
whose rows a fence will hold there, has its entry from its begin on (R150, log 51). -/
def State.queuedStores (s : State) (c : Nat) : Nat :=
  (((s.writes.filter (fun w => w.cid == c && !w.ofEngine && w.place == .queue)).map PendWrite.seq
    ++ (s.mat.filter (fun m => m.owner == c && m.begun && m.stores && s.fenced c m.seq m.bun true)).map MatOp.seq).eraseDups).length

/-- The write queue of a cell is full (R150). -/
def State.storesFull (s : State) (c : Nat) : Bool := decide (32 ≤ s.queuedStores c)

/-- The operation may begin (R349): the paths let it, no fence holds its operand fetches, and the write queue takes the rows of an
MSTACC that a fence holds. -/
def State.mayBegin (s : State) (m : MatOp) : Bool :=
  let l := s.acceptedBefore m
  !m.begun && m.fault.isNone && m.held == 0 && m.len == 0 && !s.fetchHeld m && !(m.stores && s.fenced m.owner m.seq m.bun true && s.storesFull m.owner) &&
    if m.onArray then !l.any MatOp.forming && !l.any (fun x => !x.onArray && x.tile == m.tile)
    else !l.any (fun x => !x.onArray) && !l.any (fun x => x.onArray && x.tile == m.tile)

/-- RP of a format (R351). -/
def rowPitch (t : Nat) : Nat :=
  match t with
  | 0 => 512
  | 1 => 256
  | 2 => 192
  | _ => 128

/-- The matrix engine of core `e` takes a bank in the present schedule cycle: a K-step's operand fetch takes them all, since the 32 rows
of its B operand lie on all of them, and a row of MLDACC or MSTACC those that it lies on (R94, log 27). -/
def State.matBank (s : State) (e b : Nat) : Bool :=
  s.mat.any (fun m => m.eng == e && m.held == 0 && (m.fault.isNone || !m.onArray) &&
    match m.op with
    | .mldacc _ => (decide (m.clock < 128) && (m.begun || s.mayBegin m)) && (banksOf (m.base + 768 * m.clock) 768).contains b
    | .mstacc f => m.begun && decide (4 ≤ m.clock) && decide (m.clock < 132)
        && (banksOf (m.base + (m.clock - 4) * rowPitch f.f.toNat) (rowPitch f.f.toNat)).contains b
    | _ => m.onArray && ((m.begun && m.forming && m.clock == m.len) || s.mayBegin m))

/-- Bytes that a MAT operation is still to store, as far as they meet a run (R365). -/
def MatOp.storesTo (m : MatOp) (pa n : Nat) : Bool :=
  match m.op with
  | .mstacc f =>
    let p := rowPitch f.f.toNat
    m.stores && overlaps (spKey m.eng (m.base + m.done * p)) ((128 - m.done) * p) pa n
  | _ => false

/-! ## Program order with the vector and matrix engines (R150, R153, R156) -/

/-- A waiting vector access touches the bytes of a run. A gather or scatter touches what its lanes name as its registers stand. -/
def State.vecTouches (s : State) (c : Nat) (w : Waiting) (pa n : Nat) : Bool :=
  match w.op with
  | .vld f => overlaps (s.spAddr c (addrCell w.eng (f.g == 1) w.x0) (addrOffset w.x0)) (128 * laneBytes f.w) pa n
  | .vst f => overlaps (s.spAddr c (addrCell w.eng (f.g == 1) w.x0) (addrOffset w.x0)) (128 * laneBytes f.w) pa n
  | .vgth f => s.lanesTouch c w f pa n
  | .vsct f => s.lanesTouch c w f pa n
  | _ => false

/-- A waiting vector access comes before an access numbered `seq` of bundle `bun` in program order: of one bundle, a load before every
store, and stores in slot order (R156). -/
def Waiting.precedes (w : Waiting) (seq bun : Nat) (store : Bool) : Bool :=
  if store && isRead w.op then decide (w.bun ≤ bun) else decide (w.seq < seq)

/-- An earlier vector access of the cell that has not started touches the bytes of a run (R153, R156). -/
def State.vecAhead (s : State) (c seq bun : Nat) (store : Bool) (pa n : Nat) : Bool :=
  !s.leftBehind c &&
    (s.core c).queue.any (fun w => w.slot == 3 && (s.core c).bearsOn w.held seq && w.precedes seq bun store && s.vecTouches c w pa n)

/-- The same of the rows that an earlier MSTACC has still to store: they are writes of the cell (R150, R153, R156; log 27). -/
def State.rowsAhead (s : State) (c seq pa n : Nat) : Bool :=
  !s.leftBehind c &&
    s.mat.any (fun m => m.owner == c && (s.core c).bearsOn (m.held == 4) seq && decide (m.seq < seq) && m.storesTo pa n)

/-- A cell's write waits behind its earlier vector accesses to the same bytes, and behind rows (R150, R156). -/
def State.behindVec (s : State) (w : PendWrite) : Bool :=
  !w.ofEngine && ((s.core w.cid).queue.any (fun q => q.slot == 3) || s.mat.any (fun m => m.owner == w.cid))
    && w.bytes.any (fun p => s.vecAhead w.cid w.seq w.bun true p.1 1 || s.rowsAhead w.cid w.seq p.1 1)

/-- A read of a cell waits behind its earlier vector accesses to the same bytes, and behind rows (R153, R165). -/
def State.readBehind (s : State) (r : PendRead) : Bool :=
  s.vecAhead r.cid r.seq r.bun r.kind.atomic (canonical r.addr) r.kind.size
    || s.rowsAhead r.cid r.seq (canonical r.addr) r.kind.size

/-- A pending access of the cell waits for something that only cycles of the cell's own schedule bring on. -/
def State.needsCycles (s : State) (c : Nat) : Bool :=
  s.holdNeedsCycles c || s.reads.any (fun r => r.cid == c && s.readBehind r) || s.writes.any (fun w => w.cid == c && s.behindVec w)

/-- A read takes its value now (R150 to R166). -/
def State.mayRead (s : State) (r : PendRead) : Bool := s.mayPerform r && !s.readBehind r

/-- The local reads of a cell whose holds have ended take their values (R162). -/
def State.releaseReads (s : State) (c : Nat) : State :=
  s.reads.foldl (fun s r => if r.cid == c && !r.remote && s.mayRead r then s.performRead r else s) s

/-! ## When an operation may start -/

/-- The chain lets the operation start: the producer has been written, or it started at least the distance ago (R61). -/
def Core.chainReady (k : Core) (w : Waiting) : Bool :=
  match w.chain with
  | none => true
  | some n =>
    if k.queue.any (fun q => q.seq == n) then false
    else match k.flights.find? (fun f => f.seq == n) with
      | some f => decide (f.start + w.chdist ≤ k.cyc)
      | none => true

/-- No bank that the access needs serves another one in this cycle (R92, R94, R345, R415, R432). With `frozen` the cycle is one in which
the matrix engines stand still. -/
def State.banksFree (s : State) (c : Nat) (w : Waiting) (frozen : Bool := false) : Bool :=
  let free (meets : Nat → Nat → Bool) (l : List Nat) : Bool :=
    l.all (fun b => !(s.core w.eng).banks.contains b && !s.bankTaken w.eng meets b && (frozen || !s.matBank w.eng b))
  let block (f : FieldsVM) : Bool :=
    let n := 128 * laneBytes f.w
    !s.isLocal c w.eng (addrCell w.eng (f.g == 1) w.x0) || free (overlaps (spKey w.eng (addrOffset w.x0)) n) (banksOf (addrOffset w.x0) n)
  match w.op with
  | .vld f => block f
  | .vst f => block f
  | .vgth f => free (s.lanesTouch c w f) (s.laneBanks c w f)
  | .vsct f => free (s.lanesTouch c w f) (s.laneBanks c w f)
  | _ => true

/-- Cycles that the bank rows of a scattered access add (R414). -/
def State.rowStall (s : State) (c : Nat) (w : Waiting) : Nat :=
  let rows (f : FieldsVG) : Nat :=
    extraRows (((s.laneAddrs w f).filter (fun p => s.laneLocal c w f p.2)).map (fun p => addrOffset p.2))
  match w.op with
  | .vgth f => rows f
  | .vsct f => rows f
  | _ => 0

/-- A vector access waits for the earlier ones of the cell to its bytes, and for the rows of an earlier MSTACC there (R153, R156). -/
def State.inOrder (s : State) (c : Nat) (w : Waiting) : Bool :=
  let clear (pa n : Nat) : Bool := !s.vecAhead c w.seq w.bun false pa n && !s.rowsAhead c w.seq pa n
  let block (f : FieldsVM) : Bool :=
    clear (s.spAddr c (addrCell w.eng (f.g == 1) w.x0) (addrOffset w.x0)) (128 * laneBytes f.w)
  let lanes (f : FieldsVG) : Bool := (s.laneAddrs w f).all (fun p => clear (s.laneHome c w f p.2) (laneBytes f.w))
  match w.op with
  | .vld f => block f
  | .vst f => block f
  | .vgth f => lanes f
  | .vsct f => lanes f
  | _ => true

/-- A vector store has room for what enters the write queue: all of it but local lanes that nothing holds (R150). -/
def State.storeRoom (s : State) (c : Nat) (w : Waiting) : Bool :=
  let far : Bool := match w.op with
    | .vst f => !s.isLocal c w.eng (addrCell w.eng (f.g == 1) w.x0)
    | .vsct f => (s.laneAddrs w f).any (fun p => !s.laneLocal c w f p.2)
    | _ => false
  !(isVecStore w.op && w.slot == 3 && (far || s.fenced c w.seq w.bun true) && s.storesFull c)

/-- The link that carries a bound operation to its engine on another die has its training (R43, R285, R286). -/
def State.reachesEngine (s : State) (c : Nat) (w : Waiting) : Bool :=
  dieOf c == dieOf w.eng || (!s.dieLinkLost (dieOf c) && !s.dieLinkLost (dieOf w.eng))

/-- An operation of another cell, on the same engine of a donor, arrived there earlier and has not started: those of two cells start in
arrival order (R382). -/
def State.arrivedFirst (s : State) (c : Nat) (w : Waiting) : Bool :=
  s.cores.any (fun p => p.1 != c && p.2.queue.any (fun v => v.slot == w.slot && v.eng == w.eng && v.way == 0 && !v.held
    && (decide (v.arr < w.arr) || (v.arr == w.arr && decide (v.seq < w.seq)))))

/-- The operation accesses the scratchpad of a migrating cell: it is late at its issuer meanwhile (R226, R431, R449). -/
def State.meetsMove (s : State) (c : Nat) (w : Waiting) : Bool :=
  let moves (cid : Nat) : Bool := (s.target c cid).any (fun q => q != c && s.movingCell q)
  match w.op with
  | .vld f => moves (addrCell w.eng (f.g == 1) w.x0)
  | .vst f => moves (addrCell w.eng (f.g == 1) w.x0)
  | .vgth f => (s.laneAddrs w f).any (fun p => moves (addrCell w.eng (f.g == 1) p.2))
  | .vsct f => (s.laneAddrs w f).any (fun p => moves (addrCell w.eng (f.g == 1) p.2))
  | _ => false

/-- The operation's scheduled start has come and its tokens, its chain, its slot and its banks let it start (R36, R43, R61, R123,
R382, R388). -/
def State.mayStart (s : State) (c : Nat) (w : Waiting) (frozen : Bool := false) : Bool :=
  let k := s.core c
  w.due == 0 && w.way == 0 && k.tokensReady w.toks && decide (k.nextStart w ≤ k.cyc) && k.chainReady w && s.reachesEngine c w
    && s.banksFree c w frozen && s.inOrder c w && s.storeRoom c w && !s.arrivedFirst c w && !(!s.sched.migs.isEmpty && s.meetsMove c w)

/-- The tokens of a waiting operation's payload. -/
def tokensOf (i : Instr) : Tokens :=
  match i with
  | .vld f => f.tok
  | .vst f => f.tok
  | .vgth f => f.tok
  | .vsct f => f.tok
  | .mma f => f.tok
  | .mmas f => f.tok
  | .mzero _ t => t
  | .mldacc f => f.tok
  | .mstacc f => f.tok
  | .mrdacc f => f.tok
  | .mabort _ t => t
  | .xstart _ _ _ _ t => t
  | .xstep _ _ t => t
  | .xgath _ _ t => t
  | .xcoll _ _ t => t
  | _ => noTokens

/-- The counter of R46 that an operation counts in. -/
def counterOf (i : Instr) : Counter :=
  match i with
  | .vld _ | .vgth _ => .ld
  | .vst _ | .vsct _ => .st
  | .mma _ | .mmas _ | .mldacc _ | .mstacc _ => .tl
  | .xstart .. | .xgath .. | .xcoll .. => .cp
  | _ => .none

/-- A VEC or MAT consumer of a failed producer does not execute: it raises TK (R124, log 15). -/
def State.failTokens (s : State) (c : Nat) (w : Waiting) : State :=
  (s.modCore c (fun k => k.unqueue w.seq)).failStart c w (tokensOf w.op).tp.toNat (counterOf w.op) (trapOf 9 0x00)

/-- A head of the VEC buffer starts if it may; a scattered access first waits out its extra bank rows. -/
def State.tryVecOp (s : State) (c : Nat) (w : Waiting) (frozen : Bool := false) : State :=
  if !s.mayStart c w frozen then s
  else if (s.core c).tokensFailed w.toks then s.failTokens c w
  else match w.stall with
    | some 0 => s.startVec c w
    | some (n + 1) => s.modCore c (fun k => k.modWaiting w.seq (fun w => { w with stall := some n }))
    | none =>
      match s.rowStall c w with
      | 0 => s.startVec c w
      | n + 1 => s.modCore c (fun k => k.modWaiting w.seq (fun w => { w with stall := some n }))

/-- The heads of the VEC buffer start where they may. -/
def State.tryVec (s : State) (c : Nat) : State := ((s.core c).heads 3).foldl (fun s w => s.tryVecOp c w) s

/-! ## Issue -/

/-- A VEC operation behind its checks: the latch takes it, it enters the buffer, and it starts at once where it may. -/
def State.issueVec (s : State) (i : Instr) (addr : Nat) (x0 : Word) (chain : Option Nat) (dist : Nat) : State :=
  let s := s.latchOp i addr 0 0
  let s := s.count s.ctx.cid 0x0C (flag chain.isSome)
  let t := tokensOf i
  (s.enqueue (s.waitingOp i x0 0 0 t chain dist) t.tp.toNat (counterOf i)).tryVec s.ctx.cid

/-- A VA operation issues (R399); `x0` is its scalar operand. -/
def State.issueVA (s : State) (i : Instr) (op : VAOp) (f : FieldsVA) (x0 : Word) : Step :=
  s.guarded i (vecCheck i s) (fun s => s.issueVec i 0 x0 (s.chainSeq op f) f.distance)

/-- NOP in VEC sets the latch to NOP (R369). -/
def execNopVec (s : State) : Step :=
  s.guarded .nopVec (vecCheck .nopVec s) (fun s => s.modCur (fun k => k.setLatch 3 Latch.nop))

/-- VADD (R403). -/
def execVadd (f : FieldsVA) (s : State) : Step := s.issueVA (.vadd f) .vadd f 0
/-- VSUB (R429). -/
def execVsub (f : FieldsVA) (s : State) : Step := s.issueVA (.vsub f) .vsub f 0
/-- VMUL (R419). -/
def execVmul (f : FieldsVA) (s : State) : Step := s.issueVA (.vmul f) .vmul f 0
/-- VFMA (R412). -/
def execVfma (f : FieldsVA) (s : State) : Step := s.issueVA (.vfma f) .vfma f 0
/-- VDIV (R410). -/
def execVdiv (f : FieldsVA) (s : State) : Step := s.issueVA (.vdiv f) .vdiv f 0
/-- VSQRT (R426). -/
def execVsqrt (f : FieldsVA) (s : State) : Step := s.issueVA (.vsqrt f) .vsqrt f 0
/-- VRSQ (R426). -/
def execVrsq (f : FieldsVA) (s : State) : Step := s.issueVA (.vrsq f) .vrsq f 0
/-- VEXP (R411). -/
def execVexp (f : FieldsVA) (s : State) : Step := s.issueVA (.vexp f) .vexp f 0
/-- VMIN (R417). -/
def execVmin (f : FieldsVA) (s : State) : Step := s.issueVA (.vmin f) .vmin f 0
/-- VMAX (R417). -/
def execVmax (f : FieldsVA) (s : State) : Step := s.issueVA (.vmax f) .vmax f 0
/-- VABS (R402). -/
def execVabs (f : FieldsVA) (s : State) : Step := s.issueVA (.vabs f) .vabs f 0
/-- VNEG (R421). -/
def execVneg (f : FieldsVA) (s : State) : Step := s.issueVA (.vneg f) .vneg f 0
/-- VCMP (R407). -/
def execVcmp (f : FieldsVA) (s : State) : Step := s.issueVA (.vcmp f) .vcmp f 0
/-- VTHR: the threshold is read at issue (R430). -/
def execVthr (f : FieldsVA) (s : State) : Step := s.issueVA (.vthr f) .vthr f (s.rd f.b)
/-- VSEL (R427). -/
def execVsel (f : FieldsVA) (s : State) : Step := s.issueVA (.vsel f) .vsel f 0
/-- VAND (R405). -/
def execVand (f : FieldsVA) (s : State) : Step := s.issueVA (.vand f) .vand f 0
/-- VOR (R422). -/
def execVor (f : FieldsVA) (s : State) : Step := s.issueVA (.vor f) .vor f 0
/-- VXOR (R422). -/
def execVxor (f : FieldsVA) (s : State) : Step := s.issueVA (.vxor f) .vxor f 0
/-- VSHL (R428). -/
def execVshl (f : FieldsVA) (s : State) : Step := s.issueVA (.vshl f) .vshl f 0
/-- VSHR (R428). -/
def execVshr (f : FieldsVA) (s : State) : Step := s.issueVA (.vshr f) .vshr f 0
/-- VCVT (R409). -/
def execVcvt (f : FieldsVA) (s : State) : Step := s.issueVA (.vcvt f) .vcvt f 0
/-- VQNT (R424). -/
def execVqnt (f : FieldsVA) (s : State) : Step := s.issueVA (.vqnt f) .vqnt f 0
/-- VAMAX (R404). -/
def execVamax (f : FieldsVA) (s : State) : Step := s.issueVA (.vamax f) .vamax f 0
/-- VRED (R425). -/
def execVred (f : FieldsVA) (s : State) : Step := s.issueVA (.vred f) .vred f 0
/-- VMOV (R418). -/
def execVmov (f : FieldsVA) (s : State) : Step := s.issueVA (.vmov f) .vmov f 0
/-- VBCST: the scalar is read at issue (R406). -/
def execVbcst (f : FieldsVA) (s : State) : Step := s.issueVA (.vbcst f) .vbcst f (s.rd f.b)
/-- VPERM (R423). -/
def execVperm (f : FieldsVA) (s : State) : Step := s.issueVA (.vperm f) .vperm f 0
/-- VIDX (R416). -/
def execVidx (f : FieldsVA) (s : State) : Step := s.issueVA (.vidx f) .vidx f 0

/-- VLD (R415): the block address stands in the latch and steps at each re-issue (R306). -/
def execVld (f : FieldsVM) (s : State) : Step :=
  s.guarded (.vld f) (vecCheck (.vld f) s) (fun s => s.issueVec (.vld f) (s.vmAddr f) (word (s.vmAddr f)) none 0)

/-- VST (R433). -/
def execVst (f : FieldsVM) (s : State) : Step :=
  s.guarded (.vst f) (vecCheck (.vst f) s) (fun s => s.issueVec (.vst f) (s.vmAddr f) (word (s.vmAddr f)) none 0)

/-- VGTH: sA is read at each issue (R414). -/
def execVgth (f : FieldsVG) (s : State) : Step :=
  s.guarded (.vgth f) (vecCheck (.vgth f) s) (fun s => s.issueVec (.vgth f) 0 (s.rd f.a) none 0)

/-- VSCT (R432). -/
def execVsct (f : FieldsVG) (s : State) : Step :=
  s.guarded (.vsct f) (vecCheck (.vsct f) s) (fun s => s.issueVec (.vsct f) 0 (s.rd f.a) none 0)

end Sys2Proof.Machine
end

