-- ==== Sys2Proof/Machine/Matrix.lean ====
section
/-!
DEFINITION. Machine/Matrix.lean: the MAT slot (R349 to R368): acceptance, the three paths, K-steps, tile loads and stores, and
one meaning for each of its instructions.
-/
namespace Sys2Proof.Machine

/-! ## Tiles -/

/-- `n` values of a sparse map from key `k` on, given its entries at or after `k`. -/
def denseFrom {α : Type} (d : α) : Nat → Nat → SMap α → List α
  | 0, _, _ => []
  | n + 1, k, [] => d :: denseFrom d n (k + 1) []
  | n + 1, k, (k', v) :: m => if k' = k then v :: denseFrom d n (k + 1) m else d :: denseFrom d n (k + 1) ((k', v) :: m)

/-- The 16,384 entries of a tile, row by row. -/
def Core.tile (k : Core) (t : Nat) : List AccEntry :=
  denseFrom accZero 16384 (16384 * t) (k.a.filter (fun p => decide (16384 * t ≤ p.1)))

/-- A tile replaced whole by its entries, row by row. -/
def Core.setTile (k : Core) (t : Nat) (l : List AccEntry) : Core :=
  let new := ((l.take 16384).zipIdx.filter (fun p => p.1 != accZero)).map (fun p => (16384 * t + p.2, p.1))
  { k with a := k.a.filter (fun p => decide (p.1 < 16384 * t)) ++ new
                  ++ k.a.filter (fun p => decide (16384 * (t + 1) ≤ p.1)) }

/-- Row `i` of a tile. -/
def Core.tileRow (k : Core) (t i : Nat) : List AccEntry :=
  denseFrom accZero 128 (16384 * t + 128 * i) (k.a.filter (fun p => decide (16384 * t + 128 * i ≤ p.1)))

/-- A converted row and its flags: lane patterns for FP32 and BF16 (R69), the bytes of a group otherwise (R86). -/
def convertRow (t : Nat) (cap : Capture) (row : List AccEntry) : List Nat × Flags :=
  if isFloat t then
    let rs := row.map (accToFloat t (fmtRm cap.fmt))
    (rs.map Prod.fst, unionFlags (rs.map Prod.snd))
  else
    let q := quantise t 0 (fmtGap cap.fmt) cap.scales (fmtRm cap.fmt) (row.map accValue)
    (groupBytes t q.1 q.2.1, q.2.2)

/-- The bytes of a row as MSTACC stores it, padding included (R351, R365). -/
def rowBytes (t : Nat) (cap : Capture) (row : List AccEntry) : List Byte × Flags :=
  let r := convertRow t cap row
  let bytes := if isFloat t then r.1.flatMap (fun x => natBytes x (formatWidth t / 8)) else r.1
  ((bytes ++ List.replicate (rowPitch t - bytes.length) 0).map (BitVec.ofNat 8), r.2)

/-! ## Operand fetch -/

/-- The number that bounds the writes a fetch in the present cycle may see: those of earlier cycles (R352). -/
def State.fetchBun (s : State) (c : Nat) : Nat := if s.ctx.cid == c && s.owed.cycle then s.ctx.bun else s.seq + 1

/-- Byte at an offset of engine `q`'s scratchpad as cell `c`'s engine finds it (R151). -/
def State.fetchByte (s : State) (c q off : Nat) : Nat := (s.findByte c true (s.fetchBun c) (spKey q off)).1.toNat

/-- The offset under the swizzle of R114. -/
def swizzled (chunk rowsh sww o : Nat) : Nat :=
  if chunk = 0 then o
  else
    let lz := chunk + 3
    let x := bits o (rowsh - 1) lz ^^^ (o / 2 ^ rowsh % 2 ^ sww)
    setBits o (rowsh - 1) lz x

/-- The offset under SWZST (R139). -/
def swzOffset (v : Word) (o : Nat) : Nat := swizzled (swzChunk v.toNat) (swzRowsh v.toNat) (swzSww v.toNat) o

/-- A pattern of `n` bytes from a byte function. -/
def patternAt (byte : Nat → Nat) (o n : Nat) : Nat := bytesNat ((List.range n).map (fun i => byte (o + i)))

/-- Element `f` of a tensor of format `t` whose byte `o` is `byte o`, its block scale apart (R78, R82). -/
def elementAt (t : Nat) (byte : Nat → Nat) (f : Nat) : Value :=
  match t with
  | 0 => floatValue 0 (patternAt byte (4 * f) 4)
  | 1 => floatValue 1 (patternAt byte (2 * f) 2)
  | t =>
    let len := if t == 2 then 136 else 72
    let g (i : Nat) : Nat := byte (len * (f / 128) + i)
    blockElement t (patternAt g 0 8) (f % 128) (groupCode t g (f % 128))

/-- The scale of element `f` (R82). -/
def scaleAt (t : Nat) (sc : List Nat) (byte : Nat → Nat) (f : Nat) : Dyadic :=
  if isFloat t then ⟨1, 0⟩
  else scaleValue (scaleEntry sc (byte ((if t == 2 then 136 else 72) * (f / 128)) % 16))

/-- Where entry A[m][k] lies in the tensor (R140); none where it is 0. -/
def Unfold.index (u : Unfold) (m k : Nat) : Option Nat :=
  let ow := u.ow.toNat
  let y : Int := (m / ow * u.sy + k / u.c / u.kw * u.dy : Nat) - (u.ph : Int)
  let x : Int := (m % ow * u.sx + k / u.c % u.kw * u.dx : Nat) - (u.pw : Int)
  if u.oh.toNat * ow ≤ m ∨ u.kh * u.kw * u.c ≤ k ∨ y < 0 ∨ (u.h : Int) ≤ y ∨ x < 0 ∨ (u.w : Int) ≤ x then none
  else some ((y.toNat * u.w + x.toNat) * u.c + k % u.c)

/-- The unfolding unit's byte function: relative to UNF0.BASE, swizzled with AEN (R139). -/
def State.actByte (s : State) (m : MatOp) (o : Nat) : Nat :=
  let u := unfoldOf m.cap.unf0 m.cap.unf1
  s.fetchByte m.owner m.eng (u.base + if swzAen m.cap.swz.toNat then swzOffset m.cap.swz o else o)

/-- Entry (i, kk) of step `q`'s A operand before the zero threshold (R359). -/
def State.aElement (s : State) (m : MatOp) (q i kk : Nat) : Value :=
  let u := unfoldOf m.cap.unf0 m.cap.unf1
  match u.index (m.row0 + i) (m.k0 + 32 * q + kk) with
  | none => .fin false 0 0
  | some f => scaleBy (elementAt u.ef (s.actByte m) f) (scaleAt u.ef m.cap.scales (s.actByte m) f)

/-- The A operand of a step: 128 rows of 32 values; none where the threshold zeroed the element, whose products are skipped (R268). -/
def State.fetchA (s : State) (m : MatOp) (q theta : Nat) : List (List (Option Value)) :=
  lanes128.map (fun i => (List.range 32).map (fun kk =>
    let v := s.aElement m q i kk
    if belowTheta theta v then none else some v))

/-- The byte function of a dense B operand: relative to the base, swizzled (R139). -/
def State.bByte (s : State) (m : MatOp) (o : Nat) : Nat := s.fetchByte m.owner m.eng (m.base + swzOffset m.cap.swz o)

/-- A B element: truncated, then scaled exactly (R269, R359). -/
def bValue (t ndig : Nat) (sc : List Nat) (byte : Nat → Nat) (j : Nat) : Value :=
  scaleBy (truncateDigits ndig (elementAt t byte j)) (scaleAt t sc byte j)

/-- Row `kk` of a step's dense B operand: 128 values, all formed (R351, R359). -/
def State.denseRow (s : State) (m : MatOp) (q kk ndig : Nat) : List (Option Value) :=
  let t := fmtMb m.cap.fmt
  let byte (o : Nat) : Nat := s.bByte m ((q * 32 + kk) * rowPitch t + o)
  lanes128.map (fun j => some (bValue t ndig m.cap.scales byte j))

/-- Bytes of the stored elements of a sparse block with `n` of them (R87). -/
def sparseData (t n : Nat) : Nat :=
  let b := match t with
    | 0 => 4 * n
    | 1 => 2 * n
    | 2 => n
    | _ => (n + 1) / 2
  (b + 3) / 4 * 4

/-- One bits below bit `i` of a pattern. -/
def onesUnder (x i : Nat) : Nat := onesBelow i x

/-- One sparse group at offset `o` of a byte function: its 128 elements, absent ones none, and its length (R87). -/
def sparseGroup (t ndig : Nat) (sc : List Nat) (byte : Nat → Nat) (o : Nat) : List (Option Value) × Nat :=
  let h := patternAt byte o 8
  let scale := if isFloat t then (⟨1, 0⟩ : Dyadic) else scaleValue (scaleEntry sc (h % 16))
  let block (start b : Nat) : List (Option Value) × Nat :=
    let map := patternAt byte start 4
    let elem (n i : Nat) : Value := match t with
      | 0 => floatValue 0 (patternAt byte (start + 4 + 4 * n) 4)
      | 1 => floatValue 1 (patternAt byte (start + 4 + 2 * n) 2)
      | 2 => blockElement 2 h (32 * b + i) (byte (start + 4 + n))
      | t => blockElement t h (32 * b + i) (byte (start + 4 + n / 2) / (if n % 2 == 0 then 1 else 16) % 16)
    ((List.range 32).map (fun i =>
      if bit map i then some (scaleBy (truncateDigits ndig (elem (onesUnder map i) i)) scale) else none),
      4 + sparseData t (onesBelow 32 map))
  let b0 := block (o + 8) 0
  let b1 := block (o + 8 + b0.2) 1
  let b2 := block (o + 8 + b0.2 + b1.2) 2
  let b3 := block (o + 8 + b0.2 + b1.2 + b2.2) 3
  (b0.1 ++ b1.1 ++ b2.1 ++ b3.1, 8 + b0.2 + b1.2 + b2.2 + b3.2)

/-- The 32 sparse groups of a step from offset `o` on, each at the next 64-byte boundary: the rows and the end (R361). -/
def sparseRows (t ndig : Nat) (sc : List Nat) (byte : Nat → Nat) : Nat → Nat → List (List (Option Value)) × Nat
  | 0, o => ([], o)
  | n + 1, o =>
    let g := sparseGroup t ndig sc byte o
    let r := sparseRows t ndig sc byte n ((o + g.2 + 63) / 64 * 64)
    (g.1 :: r.1, if n = 0 then o + g.2 else r.2)

/-- What the fetch of a step brings: A's rows without the zeroed elements, B's rows without the absent ones, the place where the
sparse stream goes on, the first failing word's offset with its trap, and the bytes of scratchpad read. -/
structure Fetched where
  a    : List (List (Option Value))
  b    : List (List (Option Value))
  next : Nat
  bad  : Option (Nat × Trap)
  read : Nat

/-- The operation takes its B operand in sparse form. -/
def MatOp.sparse (m : MatOp) : Bool :=
  match m.op with
  | .mmas _ => true
  | _ => false

/-- Bytes of a dense B row that are read: its padding never is (R351). -/
def rowLength (t : Nat) : Nat :=
  match t with
  | 0 => 512
  | 1 => 256
  | 2 => 136
  | _ => 72

/-- The bytes of a tensor that element `f` of a format takes: its own, and the header of its group (R78, R83). -/
def elementBytes (t f : Nat) : List Nat :=
  match t with
  | 0 => (List.range 4).map (fun i => 4 * f + i)
  | 1 => [2 * f, 2 * f + 1]
  | 2 => (List.range 8).map (fun i => 136 * (f / 128) + i) ++ [136 * (f / 128) + 8 + f % 128]
  | _ => (List.range 8).map (fun i => 72 * (f / 128) + i) ++ [72 * (f / 128) + 8 + f % 128 / 2]

/-- The indices of the tensor elements that step `q` reads, row by row (R140). -/
def MatOp.elements (m : MatOp) (q : Nat) : List Nat :=
  let u := unfoldOf m.cap.unf0 m.cap.unf1
  lanes128.flatMap (fun i => (List.range 32).filterMap (fun kk => u.index (m.row0 + i) (m.k0 + 32 * q + kk)))

/-- The offsets of the bytes that the fetch of step `q` reads, in its order: the A operand, then the B operand, of which a sparse stream
takes `lenB` bytes (R139, R351, R361; log 53). -/
def MatOp.fetchOffsets (m : MatOp) (q lenB : Nat) : List Nat :=
  let u := unfoldOf m.cap.unf0 m.cap.unf1
  let t := fmtMb m.cap.fmt
  (m.elements q).flatMap (fun f => (elementBytes u.ef f).map (fun o =>
      u.base + if swzAen m.cap.swz.toNat then swzOffset m.cap.swz o else o))
    ++ (if m.sparse then (List.range lenB).map (m.next + ·)
      else (List.range 32).flatMap (fun kk => (List.range (rowLength t)).map (fun i =>
        m.base + swzOffset m.cap.swz ((q * 32 + kk) * rowPitch t + i))))

/-- The first failing word that a fetch meets, by its offset in the engine's scratchpad, with its trap: one with an uncorrectable error, or one
of a sparse stream at or beyond SPCAP (R216, R361). -/
def State.fetchFails (s : State) (m : MatOp) (q : Nat) (lenB : Nat) : Option (Nat × Trap) :=
  let cap := (s.core m.eng).spcap
  let beyond (o : Nat) : Bool := m.sparse && decide (cap ≤ o)
  if s.ueMem.isEmpty && !(m.sparse && decide (cap < m.next + lenB)) then none
  else ((m.fetchOffsets q lenB).find? (fun o => beyond o || s.ueIn (spKey m.eng o) 1)).map (fun o =>
    (o / 8 * 8, if beyond o then trapAt 8 0x00 (o / 8 * 8) else trapAt 5 0x03 (o / 8 * 8)))

/-- The bytes of scratchpad that the fetch of step `q` accesses: those of the A elements themselves and of the B operand (R227, log 53). -/
def MatOp.fetchBytes (m : MatOp) (q lenB : Nat) : Nat :=
  let u := unfoldOf m.cap.unf0 m.cap.unf1
  let n := (m.elements q).length
  (match u.ef with
    | 0 => 4 * n
    | 1 => 2 * n
    | 2 => n
    | _ => (n + 1) / 2)
    + if m.sparse then lenB else 32 * rowLength (fmtMb m.cap.fmt)

/-- The fetch of step `q` in the present cycle under a value of APX (R264, R352, R361). -/
def State.fetchStep (s : State) (m : MatOp) (q : Nat) (apx : Word) : Fetched :=
  let t := fmtMb m.cap.fmt
  let nd := apxNdig apx
  let byte (o : Nat) : Nat := s.fetchByte m.owner m.eng o
  let r := if m.sparse then sparseRows t nd m.cap.scales byte 32 m.next
    else ((List.range 32).map (fun kk => s.denseRow m q kk nd), 0)
  let len := if m.sparse then r.2 - m.next else 32 * rowPitch t
  ⟨s.fetchA m q (apxTheta apx), r.1, (r.2 + 63) / 64 * 64, s.fetchFails m q len, m.fetchBytes q len⟩

/-- Cycles of a step: dense 8 × da × db, or by the stored elements (R350, R361). -/
def stepLength (m : MatOp) (b : List (List (Option Value))) : Nat :=
  let c := 8 * digitLength (fmtMa m.cap.fmt) * digitLength (fmtMb m.cap.fmt)
  if m.sparse then
    let z := b.foldl (fun n r => n + r.countP Option.isSome) 0
    max (c / 2) ((c * z + 4095) / 4096)
  else c

/-- Column `j` of B's rows; the absent elements stay absent. -/
def columnsOf (b : List (List (Option Value))) : List (List (Option Value)) :=
  lanes128.map (fun j => b.map (fun r => r.getD j none))

/-- The products that one row of A and one column of B form: those of an absent or zeroed element are skipped (R67, R268, R361). -/
def formedProducts (a b : List (Option Value)) : List (Value × Value) :=
  (a.zip b).filterMap (fun p => match p with
    | (some x, some y) => some (x, y)
    | _ => none)

/-- Truncated digits of a step's products (R269): those that are formed. -/
def stepTruncated (m : MatOp) (ndig : Nat) (f : Fetched) : Nat :=
  let lost := truncatedDigits ndig (fmtMb m.cap.fmt)
  if lost = 0 then 0
  else lost * ((List.range 32).foldl (fun n kk =>
    n + (f.a.countP (fun r => (r.getD kk none).isSome)) * ((f.b.getD kk []).countP Option.isSome)) 0)

/-! ## Running -/

/-- A MAT operation changed by its issue number. -/
def State.modMat (s : State) (c seq : Nat) (f : MatOp → MatOp) : State :=
  { s with mat := s.mat.map (fun m => if m.seq == seq && m.owner == c then f m else m) }

/-- A MAT operation leaves the engine. -/
def State.dropMat (s : State) (c seq : Nat) : State :=
  { s with mat := s.mat.filter (fun m => !(m.seq == seq && m.owner == c)) }

/-- The operation completes at the end of this cycle: its result in flight lands now (R352). -/
def State.finishMat (s : State) (c seq : Nat) : State :=
  (s.dropMat c seq).modCore c (fun k => k.modFlight seq (fun f => { f with open_ := false, rem := 0 }))

/-- A cause found in a MAT operation after its issue, with the K-steps written (R209, R214, R216). -/
def MatOp.cause (m : MatOp) (t : Trap) (kv : Bool) (kstep : Nat) : Cause :=
  { lateCause m.seq m.eng m.ipc 4 m.op t (m.eng != m.owner) with kv := kv, kstep := kstep }

/-- Cycles that a fault found on the operation's engine takes to the issuing cell: the skew of R43 from a bound engine, none from the cell's own
(R204, R214). -/
def MatOp.faultSkew (m : MatOp) : Nat := if m.eng = m.owner then 0 else m.skew

/-- A fetch of an operation took bytes from writes not yet home: it has performed at a scope once those are visible there (R152, R161). -/
def State.noteReads (s : State) (m : MatOp) (offs : List Nat) : State :=
  if s.writes.isEmpty then s
  else
    let l := (offs.filterMap (fun o => (s.findByte m.owner true (s.fetchBun m.owner) (spKey m.eng o)).2)).eraseDups
    { s with from_ := s.from_ ++ l.map (fun n => (⟨m.owner, m.seq, n⟩ : ReadFrom)) }

/-- The fetch of the step that begins in this cycle, with what it counts: zeroed elements and truncated digits. A failed
fetch keeps its fault until the step before it has been written (R216). -/
def State.beginStep (s : State) (m : MatOp) : State :=
  let q := m.step
  let c := m.owner
  let apx := (s.core c).apx
  let f := s.fetchStep m q apx
  let s := if s.ceMem.isEmpty then s
    else s.scrubAll ((m.fetchOffsets q (if m.sparse then f.next - m.next else 0)).map (fun o => (spKey m.eng o, 1)))
  match f.bad with
  | some (_, t) =>
    let x := m.cause t true q
    let s1 := s.modMat c m.seq (fun m => { m with fault := some x, begun := true, clock := 0 })
    if m.done == q then s1.modCore c (fun k => k.raise m.faultSkew x) else s1
  | none =>
    let zeroed := f.a.foldl (fun n r => n + r.countP Option.isNone) 0
    let s := s.noteReads m (m.fetchOffsets q (if m.sparse then f.next - m.next else 0))
    let s := s.modCore c (fun k => { k with apxcnt := word (min (k.apxcnt.toNat + zeroed) 0xFFFFFFFF) })
    let s := (s.count c 0x19 (stepTruncated m (apxNdig apx) f)).count c 0x0E f.read
    s.modMat c m.seq (fun m => { m with
      begun := true
      clock := 0
      len := stepLength m f.b
      opA := m.opA ++ [(q, f.a)]
      opB := m.opB ++ [(q, columnsOf f.b)]
      apxs := m.apxs ++ [(q, apx)]
      next := f.next })

/-- An operation begins in this cycle: an array operation fetches its first step, MSTACC reads its tile (R349, R365). -/
def State.beginMat (s : State) (m : MatOp) : State :=
  match m.op with
  | .mma _ => s.beginStep m
  | .mmas _ => s.beginStep m
  | .mstacc f =>
    let q := s.core m.eng
    let rs := lanes128.map (fun i => rowBytes f.f.toNat m.cap (q.tileRow m.tile i))
    (s.modMat m.owner m.seq (fun m => { m with begun := true, clock := 0, rows := rs.map Prod.fst, writes := 128 })).modCore
      m.owner (fun k => k.modFlight m.seq (fun x => { x with flags := unionFlags (rs.map Prod.snd), parts := 128 }))
  | _ => s.modMat m.owner m.seq (fun m => { m with begun := true, clock := 0 })

/-- Where the sparse stream of step `q` starts: each step before it ends at the next 64-byte boundary (R361). -/
def State.sparseStart (s : State) (m : MatOp) : Nat → Nat
  | 0 => m.base
  | q + 1 =>
    let r := sparseRows (fmtMb m.cap.fmt) 0 m.cap.scales (fun o => s.fetchByte m.owner m.eng o) 32 (s.sparseStart m q)
    (r.2 + 63) / 64 * 64

/-- The rows of an operation that was read back from the bytes of an image, which hold none: MSTACC converts its tile again, and MLDACC reads again
the rows that it had read (R353; log 10). -/
def State.reformRows (s : State) (m : MatOp) : State :=
  match m.op with
  | .mstacc f =>
    if !m.begun || !m.rows.isEmpty then s
    else
      let rs := lanes128.map (fun i => rowBytes f.f.toNat m.cap ((s.core m.eng).tileRow m.tile i))
      (s.modMat m.owner m.seq (fun m => { m with rows := rs.map Prod.fst, writes := 128 - m.done })).modCore
        m.owner (fun k => k.modFlight m.seq (fun x => { x with flags := unionFlags (rs.map Prod.snd), parts := 128 - m.done }))
  | .mldacc _ =>
    if m.rows.length = m.done then s
    else s.modMat m.owner m.seq (fun m => { m with
      rows := (List.range m.done).map (fun r =>
        (List.range 768).map (fun i => BitVec.ofNat 8 (s.fetchByte m.owner m.eng (m.base + 768 * r + i)))) })
  | _ => s

/-- The steps in progress of an operation that a stop drained are formed again: they read their operands in the first resumed
cycle under the APX of their first fetch, and keep their write cycles (R264, R353). -/
def State.reform (s : State) (m : MatOp) : State :=
  let apx (q : Nat) : Word := ((m.apxs.find? (fun p => p.1 == q)).map Prod.snd).getD (s.core m.owner).apx
  let fetch (q : Nat) : Fetched := s.fetchStep { m with next := s.sparseStart m q } q (apx q)
  match m.opA.findSome? (fun p => ((fetch p.1).bad).map (fun b => (p.1, b.2))) with
  | some (q, t) =>
    let x := m.cause t true q
    let s := s.modMat m.owner m.seq (fun m => { m with
      held := 0, clock := 0, fault := some x, opA := m.opA.filter (fun p => decide (p.1 < q)), opB := m.opB.filter (fun p => decide (p.1 < q)),
      left := m.left.filter (fun p => decide (p.1 < q)) })
    if m.done == q then s.modCore m.owner (fun k => k.raise m.faultSkew x) else s
  | none =>
    let s := m.opA.foldl (fun s p => s.noteReads m ({ m with next := s.sparseStart m p.1 }.fetchOffsets p.1 ((fetch p.1).next - s.sparseStart m p.1))) s
    (s.reformRows m).modMat m.owner m.seq (fun m => { m with
      held := 0
      len := if m.len = 0 ∧ m.clock ≠ 0 ∧ m.onArray then stepLength m (fetch m.step).b else m.len
      opA := m.opA.map (fun p => (p.1, (fetch p.1).a))
      opB := m.opB.map (fun p => (p.1, columnsOf (fetch p.1).b)) })

/-- The operations of cell `c` that a stop drained are formed again. -/
def State.reformMats (s : State) (c : Nat) : State :=
  s.mat.foldl (fun s m => if m.owner == c && m.held == 2 then s.reform m else s) s

/-- Every operation of cell `c` that may begin in this cycle begins, in acceptance order; a later step of a running one
fetches its operands. -/
def State.beginMats (s : State) (c : Nat) : State :=
  s.mat.foldl (fun s m0 =>
    match s.mat.find? (fun x => x.seq == m0.seq && x.owner == m0.owner) with
    | none => s
    | some m =>
      if m.owner != c || m.held != 0 then s
      else if s.mayBegin m then s.beginMat m
      else if m.begun && m.forming && m.fault.isNone && m.clock == m.len && !s.fetchHeld m then s.beginStep m
      else s) (s.reformMats c)

/-- Step `q` of an operation is written: every entry takes its sum, rounded once; the flags land (R67, R352, R360). -/
def State.writeStep (s : State) (m : MatOp) (q : Nat) : State :=
  let a := ((m.opA.find? (fun p => p.1 == q)).map Prod.snd).getD []
  let b := ((m.opB.find? (fun p => p.1 == q)).map Prod.snd).getD []
  let rm := fmtRm m.cap.fmt
  let old := (s.core m.eng).tile m.tile
  let rs := old.zipIdx.map (fun p => kStepEntry rm p.1 (formedProducts (a.getD (p.2 / 128) []) (b.getD (p.2 % 128) [])))
  let fl := unionFlags (rs.map Prod.snd)
  let s := s.modCore m.eng (fun k => (k.setTile m.tile (rs.map Prod.fst)))
  let s := s.modCore m.eng (fun k => { k with kdone := mapSet 0 k.kdone m.tile (q + 1) })
  let s := s.modCore m.owner (fun k => { k with vstat := k.vstat ||| fl.zeroExtend 64 })
  let s := match arDetail (fl &&& trapMask m.cap.fmt) with
    | none => s
    | some d => s.modCore m.owner (fun k => k.raise m.faultSkew (m.cause ⟨6, d.toNat, fl.toNat, none⟩ true (q + 1)))
  let s := s.modMat m.owner m.seq (fun m => { m with
    done := q + 1, opA := m.opA.filter (fun p => p.1 != q), opB := m.opB.filter (fun p => p.1 != q),
    apxs := m.apxs.filter (fun p => p.1 != q), left := m.left.filter (fun p => p.1 != q) })
  let s := match m.fault with
    | some x => if x.kstep == q + 1 then s.modCore m.owner (fun k => k.raise m.faultSkew x) else s
    | none => s
  if q + 1 == m.steps then s.finishMat m.owner m.seq else s

/-- The steps of cell `c`'s operations whose write cycle has come are written. -/
def State.writeSteps (s : State) (c : Nat) : State :=
  s.mat.foldl (fun s m =>
    if m.owner == c then
      (m.left.filter (fun p => p.2 == 0)).foldl (fun s p =>
        match s.mat.find? (fun x => x.seq == m.seq && x.owner == c) with
        | some x => s.writeStep x p.1
        | none => s) s
    else s) s

/-- One schedule cycle of an array operation: products, and the cycles to each step's write (R352). A step is written at the
end of the fourth cycle after its last product cycle. -/
def MatOp.tickArray (m : MatOp) : MatOp :=
  let left := m.left.map (fun p => (p.1, p.2 - 1))
  if !m.begun then { m with len := m.len - 1 }
  else if m.begun && m.forming && m.fault.isNone && decide (m.clock < m.len) then
    if m.clock + 1 == m.len then
      let more := decide (m.step + 1 < m.steps)
      { m with clock := if more then m.len else 0, step := m.step + 1, left := left ++ [(m.step, 4)] }
    else { m with clock := m.clock + 1, left := left }
  else { m with left := left }

/-- Entries of one row of 768 bytes (R358). -/
def entriesOf (row : List Byte) : List AccEntry :=
  lanes128.map (fun j => BitVec.ofNat 48 (bytesNat (((row.drop (6 * j)).take 6).map BitVec.toNat)))

/-- MLDACC's tile write (R358): a digit code of 0b10000, or an uncorrectable error that the read of a row met, leaves the tile as it is. -/
def State.loadTile (s : State) (m : MatOp) : State :=
  let es := m.rows.flatMap entriesOf
  let s := match m.fault with
    | some x => s.modCore m.owner (fun k => k.raise m.faultSkew x)
    | none =>
      if es.any accDigitIllegal then s.modCore m.owner (fun k => k.raise m.faultSkew (m.cause (trapIL 0x06) false 0))
      else s.modCore m.eng (fun k => k.setTile m.tile es)
  s.finishMat m.owner m.seq

/-- The row that MLDACC reads in the present cycle, with an uncorrectable error that it meets (R95, R358). -/
def State.readRow (s : State) (m : MatOp) (off : Nat) : State :=
  let c := m.owner
  let row := (List.range 768).map (fun i => BitVec.ofNat 8 (s.fetchByte c m.eng (off + i)))
  let ue := if s.readsUe c (s.fetchBun c) (spKey m.eng off) 768 then
      (s.ueMem.find? (fun d => overlaps (8 * d) 8 (spKey m.eng off) 768)).map (fun d =>
        m.cause (trapAt 5 0x00 ((8 * d - spKey m.eng 0) % 0x400000)) false 0)
    else none
  (((s.noteReads m ((List.range 768).map (off + ·))).count c 0x0E 768).scrub (spKey m.eng off) 768).modMat c m.seq (fun m =>
    { m with clock := m.clock + 1, rows := m.rows ++ [row], done := m.done + 1, fault := m.fault.orElse (fun _ => ue) })

/-- One schedule cycle of a tile-port operation: MZERO writes at the end of its begin cycle; MLDACC reads row r in cycle
begin + r, at base + 768r (R358; log 73: DEDUCED), and writes at the end of begin + 130; MSTACC writes row r in cycle begin + 4 + r (R365, R368). -/
def State.tickPort (s : State) (m : MatOp) : State :=
  let c := m.owner
  let s1 := s.modMat c m.seq (fun m => { m with clock := m.clock + 1 })
  match m.op with
  | .mzero _ _ => (s1.modCore m.eng (fun k => k.setTile m.tile [])).finishMat c m.seq
  | .mldacc _ =>
    if m.clock < 128 then s.readRow m (m.base + 768 * m.clock)
    else if m.clock == 130 then s1.loadTile m
    else s1
  | .mstacc f =>
    if 4 ≤ m.clock ∧ m.clock < 132 then
      let r := m.clock - 4
      let pa := spKey m.eng (m.base + r * rowPitch f.f.toNat)
      let bytes := (m.rows.getD r []).zipIdx.map (fun p => (pa + p.2, p.1))
      { (s1.count c 0x0E bytes.length).modMat c m.seq (fun m => { m with done := r + 1 }) with
        writes := s1.writes ++ [⟨m.seq, m.bun, c, m.eng, .queue, bytes, none, 4, m.seq, none, none, none, 256 * m.seq + r, 0⟩] }
    else s1
  | _ => s1

/-- Aborted operations leave the engine at the end of the cycle (R355). -/
def State.dropAborted (s : State) : State := { s with mat := s.mat.filter (fun (m : MatOp) => m.held != 3) }

/-- The end of a schedule cycle for the operations of cell `c`. -/
def State.tickMats (s : State) (c : Nat) : State :=
  let s := s.mat.foldl (fun s m =>
    if m.owner == c && m.begun && m.held == 0 && !m.onArray && !(decide (m.done = 128) && decide (131 < m.clock)) then s.tickPort m else s) s
  let s := { s with mat := s.mat.map (fun (m : MatOp) => if m.owner == c && (m.onArray || !m.begun) && m.held == 0 then m.tickArray else m) }
  (s.writeSteps c).dropAborted

/-- MSTACC operations whose last row has performed leave the engine. -/
def State.reapStores (s : State) (c : Nat) : State :=
  { s with mat := s.mat.filter (fun (m : MatOp) => !(m.owner == c && !m.onArray && m.done == 128 && m.writes == 0 &&
      (match m.op with
      | .mstacc _ => true
      | _ => false))) }

/-! ## Acceptance -/

/-- MABORT takes effect (R355): array operations on the tile that were accepted before it complete at the end of the cycle with
the steps they have written. They own the tile for the rest of the cycle. -/
def State.abortTile (s : State) (eng tile : Nat) : State :=
  s.mat.foldl (fun s m =>
    if m.onArray && !m.away && m.held != 3 && m.eng == eng && m.tile == tile then
      let s := if m.done ≠ 0 then s.modCore eng (fun k => { k with kdone := mapSet 0 k.kdone tile (m.done + 256) }) else s
      (s.modMat m.owner m.seq (fun m => { m with held := 3, opA := [], opB := [], left := [] })).modCore m.owner
        (fun k => k.modFlight m.seq (fun f => { f with open_ := false, rem := 0 }))
    else s) s

/-- What MRDACC reports of the tile (R364). -/
def State.mrdStatus (s : State) (eng tile : Nat) : Word :=
  match s.mat.find? (fun m => m.onArray && m.begun && !m.away && m.eng == eng && m.tile == tile) with
  | some m => pack [(m.done % 128, 0), (1, 7)]
  | none =>
    let n := mapGet 0 (s.core eng).kdone tile
    pack [(n % 128, 0), (n / 256, 8)]

/-- The tile that a MAT operation names. -/
def tileOf (i : Instr) : Nat :=
  match i with
  | .mma f => f.tl.toNat
  | .mmas f => f.tl.toNat
  | .mzero t _ => t.toNat
  | .mldacc f => f.tl.toNat
  | .mstacc f => f.tl.toNat
  | .mrdacc f => f.tl.toNat
  | .mabort t _ => t.toNat
  | _ => 0

/-- The matrix operation of cell `c` that a buffer's record stands for. -/
def Waiting.matOp (w : Waiting) (c : Nat) : MatOp :=
  ⟨w.seq, c, w.eng, w.op, w.ipc, tileOf w.op, w.x0, w.x2, w.x1, w.cap, false, 0, 0, 0, 0, [], [], [], [], w.x0, flagNone, 0, 0, w.bun, w.skew, [], none⟩

/-- An accepted operation joins the engine, with its result in flight (R349, R353). -/
def State.acceptOp (s : State) (c : Nat) (w : Waiting) (tok : Nat) (cnt : Counter) : State :=
  let s1 := s.modCore c (fun k => k.fly { w.flight k 4 .none 0 with tok := tok, cnt := cnt, open_ := true })
  { s1 with mat := s1.mat ++ [w.matOp c] }

/-- The steps that an array operation has still to fetch. -/
def MatOp.toFetch (m : MatOp) : List Nat :=
  let q := if m.begun && m.clock != m.len then m.step + 1 else m.step
  (List.range (m.steps - q)).map (q + ·)

/-- The operation has still to read bytes of a run of memory: rows of its tile, an operand of a step. A step of a sparse stream takes at most
18,432 bytes, from where the stream stands (R351, R358, R361). -/
def MatOp.readsRun (m : MatOp) (pa n : Nat) : Bool :=
  m.reads && match m.op with
    | .mldacc _ =>
      let r := if m.begun then min m.clock 128 else 0
      overlaps (spKey m.eng (m.base + 768 * r)) (768 * (128 - r)) pa n
    | _ =>
      (m.sparse && overlaps (spKey m.eng m.next) (18432 * m.toFetch.length) pa n)
        || m.toFetch.any (fun q => (m.fetchOffsets q 0).any (fun o => decide (pa ≤ spKey m.eng o) && decide (spKey m.eng o < pa + n)))

/-- MRDACC in its start cycle (R364). -/
def State.startMrdacc (s : State) (c : Nat) (w : Waiting) (f : FieldsMR) : State :=
  let t := f.f.toNat
  let r := convertRow t w.cap ((s.core w.eng).tileRow f.tl.toNat f.row.toNat)
  let lane (l : Nat) : Lane :=
    if isFloat t then BitVec.ofNat 32 (r.1.getD l 0) else BitVec.ofNat 32 (bytesNat ((r.1.drop (4 * l)).take 4))
  s.modCore c (fun k => k.fly { w.flight k 2 (.vecScalar f.d.toNat f.e.toNat) 4 with
    tok := f.tok.tp.toNat, sval := s.mrdStatus w.eng f.tl.toNat, flags := r.2,
    lanes := eachLane (fun l => laneRes (lane l) true flagNone) })

/-- A MAT operation is accepted in the present cycle. -/
def State.startMat (s : State) (c : Nat) (w : Waiting) : State :=
  let s := s.modCore c (fun k => (k.unqueue w.seq).noteStart w)
  let tok := (tokensOf w.op).tp.toNat
  match w.op with
  | .mrdacc f => s.startMrdacc c w f
  | .mabort t _ =>
    (s.abortTile w.eng t.toNat).modCore c (fun k => k.fly { w.flight k 5 .none 0 with tok := tok })
  | i => s.acceptOp c w tok (counterOf i)

/-- The engine has room: fewer than 8 accepted operations that have not begun (R349). -/
def State.matRoom (s : State) (eng : Nat) : Bool := decide (s.mat.countP (fun m => m.eng == eng && !m.begun && !m.away) < 8)

/-- The lateness that replayed K-steps give every later operation of the MAT slot has passed (R272). -/
def Core.replayPassed (k : Core) (w : Waiting) : Bool := decide (min k.matLate w.slack ≤ w.late)

/-- A head of the MAT buffer is accepted if it may be. -/
def State.tryMatOp (s : State) (c : Nat) (w : Waiting) : State :=
  if !(s.mayStart c w true && s.matRoom w.eng && (s.core c).replayPassed w) then s
  else if (s.core c).tokensFailed w.toks then s.failTokens c w
  else s.startMat c w

/-- The heads of the MAT buffer are accepted where they may be. -/
def State.tryMat (s : State) (c : Nat) : State := ((s.core c).heads 4).foldl (fun s w => s.tryMatOp c w) s

/-! ## Checks and issue -/

/-- Base of an operation's address field: as encoded in units of 64 bytes, or as the latch has stepped it (R306). -/
def State.matBase (s : State) (ofs : BitVec 16) : Nat := if s.ctx.reissue then (s.cur.latch 4).addr else 64 * ofs.toNat

/-- Bytes from a base of the engine's scratchpad reach SPCAP. -/
def State.matBounds (s : State) (base len : Nat) : Option Trap :=
  if (s.core (s.engine s.ctx.cid 4)).spcap < base + len then some (trapAt 8 0x00 base) else none

/-- The checks of MMA and MMAS in their order (R360). -/
def State.mmaCheck (s : State) (f : FieldsMX) (dense : Bool) : Option Trap :=
  let k := s.cur
  let u := unfoldOf k.unf0 k.unf1
  if 3 < fmtMa k.fmt ∨ 3 < fmtMb k.fmt ∨ fmtMa k.fmt ≠ u.ef then some (trapIL 0x07)
  else if u.kh = 0 ∨ u.kw = 0 then some (trapIL 0x0B)
  else if dense then s.matBounds (s.matBase f.bofs) ((f.ks.toNat + 1) * 32 * rowPitch (fmtMb k.fmt))
  else none

/-- The checks at issue of the MAT slot; a stoker's is refused whole (R308). -/
def matCheck (i : Instr) (s : State) : Option Trap :=
  if isStoker s.ctx.cid then some (trapIL 0x0D)
  else match i with
    | .mma f => s.mmaCheck f true
    | .mmas f => s.mmaCheck f false
    | .mldacc f => firstTrap [encodingCheck (f.f == 0), s.matBounds (s.matBase f.ofs) 98304]
    | .mstacc f =>
      if 3 < f.f.toNat then some (trapIL 0x07) else s.matBounds (s.matBase f.ofs) (128 * rowPitch f.f.toNat)
    | .mrdacc f => typeCheck (decide (f.f.toNat ≤ 3))
    | _ => none

/-- A MAT operation behind its checks: `base`, `row0` and `k0` are its address fields (R306). -/
def State.issueMat (s : State) (i : Instr) (base row0 k0 : Nat) : Step :=
  s.guarded i (matCheck i s) (fun s =>
    let s := s.latchOp i base k0 row0
    let t := tokensOf i
    (s.enqueue (s.waitingOp i (word base) (word row0) (word k0) t none 0) t.tp.toNat (counterOf i)).tryMat s.ctx.cid)

/-- row0 of an MMA (R306, R359). -/
def State.mmaRow (s : State) (o : BitVec 6) : Nat := if s.ctx.reissue then (s.cur.latch 4).row0 else field (s.rd o) 31 0

/-- k0 of an MMA (R306, R359). -/
def State.mmaK (s : State) (o : BitVec 6) : Nat := if s.ctx.reissue then (s.cur.latch 4).k0 else field (s.rd o) 63 32

/-- NOP in MAT sets the latch to NOP (R369). -/
def execNopMat (s : State) : Step :=
  s.guarded .nopMat (matCheck .nopMat s) (fun s => s.modCur (fun k => k.setLatch 4 Latch.nop))

/-- MMA (R359, R360). -/
def execMma (f : FieldsMX) (s : State) : Step := s.issueMat (.mma f) (s.matBase f.bofs) (s.mmaRow f.o) (s.mmaK f.o)

/-- MMAS (R361). -/
def execMmas (f : FieldsMX) (s : State) : Step := s.issueMat (.mmas f) (s.matBase f.bofs) (s.mmaRow f.o) (s.mmaK f.o)

/-- MZERO (R368). -/
def execMzero (tl : BitVec 2) (tok : Tokens) (s : State) : Step := s.issueMat (.mzero tl tok) 0 0 0

/-- MLDACC (R358). -/
def execMldacc (f : FieldsMT) (s : State) : Step := s.issueMat (.mldacc f) (s.matBase f.ofs) 0 0

/-- MSTACC (R365). -/
def execMstacc (f : FieldsMT) (s : State) : Step := s.issueMat (.mstacc f) (s.matBase f.ofs) 0 0

/-- MRDACC (R364). -/
def execMrdacc (f : FieldsMR) (s : State) : Step := s.issueMat (.mrdacc f) 0 0 0

/-- MABORT (R355). -/
def execMabort (tl : BitVec 2) (tok : Tokens) (s : State) : Step := s.issueMat (.mabort tl tok) 0 0 0

/-- MAT_OPERATION_BEGIN: the accepted operations of a cell that may begin do so, and a running one fetches its next step
(R349, R352). -/
def execMatOperationBegin (cid : Nat) (s : State) : Step := .next (s.beginMats cid)

/-- K_STEP_WRITE: the K-steps of a cell's operations whose write cycle has come are written (R352). -/
def execKStepWrite (cid : Nat) (s : State) : Step := .next (s.writeSteps cid)

end Sys2Proof.Machine
end

