-- ==== Sys2Proof/Machine/Transl.lean ====
section
/-!
DEFINITION. Machine/Transl.lean: context slots (R102), translation by range and by page walk (R103 to R107), translation
caches and their invalidation (R108 to R111), and layout records (R113 to R116).
-/
namespace Sys2Proof.Machine

/-! ## Contexts -/

/-- Register `r` of context slot `n`: 0 CXID, 1 CXROOT, 2 CXRANGE, 3 CXOBJ (R102). -/
def State.cx (s : State) (n r : Nat) : Word := mapGet 0 s.sched.cx (4 * n + r)

/-- The context slot that holds an ASID (R102). -/
def State.ctxSlot (s : State) (asid : Nat) : Option Nat :=
  (List.range 64).find? (fun n => bit (s.cx n 0).toNat 16 && field (s.cx n 0) 15 0 == asid)

/-- The ASID of a core's context (R102). -/
def State.asidOf (s : State) (c : Nat) : Nat := field (s.core c).ctxasid 15 0

/-! ## Translation -/

/-- The reserved bits of a range entry (R104). -/
def rangeReserved (e0 e1 e2 e3 : Nat) : Bool :=
  bits e0 11 3 != 0 || bits e0 63 57 != 0 || e1 % 4096 != 0 || bits e1 63 57 != 0 || e2 % 4096 != 0 || bits e2 63 52 != 0
    || bits e3 63 16 != 0

/-- Word `i` of entry `n` of a range table (R104). -/
def State.rangeWord (s : State) (base n i : Nat) : Nat := s.homeNat (base + 32 * n + 8 * i) 8

/-- The first and last page that entry `n` covers for an ASID, if it covers any (R103, R104). -/
def State.rangePages (s : State) (base asid n : Nat) : Option (Nat × Nat) :=
  let w := s.rangeWord base n
  if bit (w 0) 0 && !rangeReserved (w 0) (w 1) (w 2) (w 3) && w 3 % 65536 == asid && decide (bits (w 0) 56 12 ≤ bits (w 1) 56 12) then
    some (bits (w 0) 56 12, bits (w 1) 56 12)
  else none

/-- The virtual addresses about `va` that none of the first `n` range entries covers, `va` being one: the first and the last (R103). -/
def State.rangeGap (s : State) (base asid va n : Nat) : Nat × Nat :=
  (List.range n).foldl (fun g i => match s.rangePages base asid i with
    | none => g
    | some (a, b) => if b < va / 4096 then (max g.1 ((b + 1) * 4096), g.2) else (g.1, min g.2 (a * 4096 - 1))) (0, 2 ^ 57 - 1)

/-- A translation used only within a gap that the entries before it leave. -/
def Transl.within (t : Transl) (g : Nat × Nat) : Transl := { t with lo := max t.base g.1, hi := min t.last g.2 }

/-- A trap of a translation, with the walk level as INFO, 7 for a range entry (R105, R209). -/
def walkTrap (detail level va : Nat) : Trap := ⟨4, detail, level, some va⟩

/-- The range entries from number `n` on, `left` of them: the first that covers the address, or the trap of an entry that lies in a hole, and
how many entries with reserved bits were met, whether valid or not (R98, R103, R104). -/
def State.findRange (s : State) (base asid va : Nat) : Nat → Nat → Nat → Option (Trap ⊕ Transl) × Nat
  | 0, _, bad => (none, bad)
  | left + 1, n, bad =>
    let w := s.rangeWord base n
    let hit := (s.rangePages base asid n).any (fun p => decide (p.1 ≤ va / 4096) && decide (va / 4096 ≤ p.2))
    if s.isHole (base + 32 * n) then (some (.inl (walkTrap 0x02 7 va)), bad)
    else if hit then
      let t : Transl := ⟨asid, bits (w 0) 56 12 * 4096, bits (w 1) 56 12 * 4096 + 4095, bits (w 2) 51 12 * 4096, bit (w 0) 1, bit (w 0) 2, 7, 0, 0⟩
      (some (.inr (t.within (s.rangeGap base asid va n))), bad)
    else s.findRange base asid va left (n + 1) (bad + flag (rangeReserved (w 0) (w 1) (w 2) (w 3)))

/-- log2 of a page size (R105). -/
def pageBits (ps : Nat) : Nat :=
  match ps with
  | 0 => 12
  | 1 => 16
  | 2 => 21
  | 3 => 25
  | 4 => 29
  | _ => 30

/-- A page size is allowed at a level (R105). -/
def pageAllowed (level ps : Nat) : Bool :=
  match level with
  | 0 => decide (ps ≤ 1)
  | 1 => decide (2 ≤ ps) && decide (ps ≤ 4)
  | 2 => ps == 5
  | _ => false

/-- Leaves that a page of a size is written as (R106). -/
def pageLeaves (ps : Nat) : Nat :=
  match ps with
  | 1 => 16
  | 3 => 16
  | 4 => 256
  | _ => 1

/-- The entry of a table of a level that an address uses: where the leaves of one page differ, one of them, as the device chooses
(R106). A leaf whose size its level does not allow is no page's (R105). -/
def State.leafOf (s : State) (level table idx : Nat) : Nat :=
  let e (i : Nat) : Nat := s.homeNat (table + 8 * i) 8
  let x := e idx
  let n := pageLeaves (bits x 6 4)
  let first := idx - idx % n
  if bit x 0 && bit x 1 && pageAllowed level (bits x 6 4) && (List.range n).any (fun i => e (first + i) != x) then
    e (first + Config.deviceChoice s.choice % n)
  else x

/-- The walk from a table of a level down (R105). -/
def State.walkFrom (s : State) (asid va : Nat) : Nat → Nat → Trap ⊕ Transl
  | level, table =>
    let idx := bits va (20 + 9 * level) (12 + 9 * level)
    let e := s.leafOf level table idx
    if s.isHole (table + 8 * idx) then .inl (walkTrap 0x02 level va)
    else if !bit e 0 then .inl (walkTrap 0x00 level va)
    else if bits e 11 7 != 0 || bits e 63 52 != 0 then .inl (walkTrap 0x01 level va)
    else if bit e 1 then
      let ps := bits e 6 4
      if !pageAllowed level ps then .inl (walkTrap 0x01 level va)
      else
        let z := 2 ^ pageBits ps
        .inr ⟨asid, va / z * z, va / z * z + z - 1, bits e 51 12 * 4096 / z * z, bit e 2, bit e 3, level, va / z * z, va / z * z + z - 1⟩
    else match level with
      | 0 => .inl (walkTrap 0x01 0 va)
      | l + 1 => s.walkFrom asid va l (bits e 51 12 * 4096)

/-- A cached translation serves an address of an ASID: the one that it was formed for had no range of a lower index there (R103). -/
def Transl.covers (t : Transl) (asid va : Nat) : Bool := t.asid == asid && decide (t.lo ≤ va) && decide (va ≤ t.hi)

/-- The cached translations of a holder: the copy engine of a CID, or 1,024 + the cluster for a cluster engine (R103). -/
def State.cached (s : State) (h : Nat) : List Transl := mapGet [] s.tcache h

/-- A holder keeps a translation; older ones that serve an address of it go. -/
def State.keepTransl (s : State) (h : Nat) (t : Transl) : State :=
  let old := (s.cached h).filter (fun u => !(u.asid == t.asid && decide (u.lo ≤ t.hi) && decide (t.lo ≤ u.hi)))
  { s with tcache := mapSet [] s.tcache h (t :: old) }

/-- The translation of an access (R103), with the range entries with reserved bits that it met; none where it needs a page
walk and `walk` is false. A cached translation may be used or not, as the device chooses. A CXRANGE.COUNT above 64, which R102 does not
give, walks as many entries (log 66: DESIGN CHOICE). -/
def State.translate (s : State) (h asid va : Nat) (walk : Bool) : Option (Trap ⊕ Transl) × Nat :=
  match (s.cached h).find? (fun t => t.covers asid va), s.ctxSlot asid with
  | some t, none => (some (.inr t), 0)
  | none, none => (some (.inl (walkTrap 0x00 5 va)), 0)
  | c, some n =>
    match c, Config.deviceChoice s.choice % 2 with
    | some t, 0 => (some (.inr t), 0)
    | _, _ =>
      let table := bits (s.cx n 2).toNat 51 12 * 4096
      let count := field (s.cx n 2) 58 52
      let r := s.findRange table asid va count 0 0
      match r.1 with
      | some t => (some t, r.2)
      | none =>
        if walk then
          (some ((s.walkFrom asid va 4 (bits (s.cx n 1).toNat 51 12 * 4096)).map id (fun t => t.within (s.rangeGap table asid va count))), r.2)
        else (none, r.2)

/-- The physical address of a virtual address under a translation. -/
def Transl.phys (t : Transl) (va : Nat) : Nat := t.pa + (va - t.base)

/-- What a translation refuses an access of a run of `n` bytes at `va` (R98, R104, R107, R118). -/
def State.translCheck (s : State) (t : Transl) (va n : Nat) (write keyed : Bool) : Option Trap :=
  let pa := t.phys va
  let hole := (List.range n).any (fun i => s.isHole (pa + i))
  if !(if write then t.w else t.r) then some (trapAt 3 0x04 va)
  else if (List.range n).any (fun i => mapRow (pa + i) != mapRow t.pa) then some (walkTrap 0x02 t.lvl va)
  else if regionOf pa == .scratch || regionOf pa == .window then some (trapAt 3 0x03 va)
  else if hole then some (walkTrap 0x02 t.lvl va)
  else if keyed && regionOf pa == .host then some (trapAt 0x10 0x01 va)
  else none

/-! ## Layout records -/

/-- The address of a layout record of an ASID; none where its index is beyond the record count (R113, R115), or where no context slot in
use holds the ASID, which so has no records (log 66: DESIGN CHOICE). -/
def State.recordAt (s : State) (asid idx : Nat) : Option Nat :=
  (s.ctxSlot asid).bind (fun n =>
    if idx < field (s.cx n 0) 48 32 then some (bits (s.cx n 3).toNat 51 12 * 4096 + 32 * idx) else none)

/-- The four words of a layout record; none where there is none, or where it lies in a hole (R98, R113, R115). -/
def State.layoutRecord (s : State) (asid idx : Nat) : Option (List Nat) :=
  (s.recordAt asid idx).bind (fun a =>
    if s.isHole a then none else some ((List.range 4).map (fun i => s.homeNat (a + 8 * i) 8)))

/-- Word `i` of a record. -/
def recWord (r : List Nat) (i : Nat) : Nat := r.getD i 0

/-- The key slot that a record names, if KV = 1 (R113). -/
def recKey (r : List Nat) : Option Nat := if bit (recWord r 2) 3 then some (bits (recWord r 2) 10 4) else none

/-- SPF of a record (R113). -/
def recSpf (r : List Nat) : Nat := bits (recWord r 2) 25 23

/-- What R115 finds wrong with a record's form, whatever the access; one in a hole cannot be read (R98). -/
def State.recordForm (s : State) (asid idx : Nat) : Option Trap :=
  match s.layoutRecord asid idx with
  | none => some (if (s.recordAt asid idx).isSome then ⟨4, 0x02, 0, none⟩ else ⟨8, 0x02, idx, none⟩)
  | some r =>
    let w2 := recWord r 2
    if !bit w2 0 then some ⟨8, 0x02, idx, none⟩
    else if bits (recWord r 0) 63 57 != 0 || bits (recWord r 1) 63 48 != 0 || bits w2 63 26 != 0 || bits (recWord r 3) 63 52 != 0
        || decide (4 < recSpf r) || !swizzleOk (bits w2 13 11) (bits w2 19 14) (bits w2 22 20) then some ⟨8, 0x03, idx, none⟩
    else none

/-- The checks of R115 on a record, in their order. -/
def State.recordCheck (s : State) (asid idx : Nat) (write : Bool) : Option Trap :=
  match s.recordForm asid idx, s.layoutRecord asid idx with
  | some t, _ => some t
  | none, none => none
  | none, some r =>
    if !bit (recWord r 2) (if write then 2 else 1) then some ⟨3, 0x04, idx, none⟩
    else match recKey r with
      | none => none
      | some k => if (mapGet none s.sched.key k).isNone then some ⟨0x10, 0x00, idx, none⟩ else none

/-- A record read waits for a KEYCTL action on the slot that it names (R115, R120). -/
def State.keyBusy (s : State) (r : List Nat) : Bool :=
  match s.sched.keyctl, recKey r with
  | some v, some k => v % 128 == k
  | _, _ => false

/-- The key of a checked record. -/
def State.keyOf (s : State) (r : List Nat) : Option Nat := (recKey r).bind (fun k => mapGet none s.sched.key k)

/-- The virtual address of a tensor offset under a record: base plus swizzled offset (R114), modulo 2^57 (R115, log 77: DESIGN CHOICE). -/
def tensorVa (r : List Nat) (o : Nat) : Nat :=
  (recWord r 0 + swizzled (bits (recWord r 2) 13 11) (bits (recWord r 2) 19 14) (bits (recWord r 2) 22 20) o) % 2 ^ 57

/-- The bounds of a record on a tensor offset (R115). -/
def boundsCheck (r : List Nat) (o : Nat) : Option Trap :=
  if o < recWord r 1 then none else some (trapAt 8 0x04 ((recWord r 0 + o) % 2 ^ 57))

end Sys2Proof.Machine
end

