-- ==== Sys2Proof/Machine/Xfr.lean ====
section
/-!
DEFINITION. Machine/Xfr.lean: the copy engines (R125 to R140) and gathers (R141): transfer records and their checks, moves,
accesses under translation, rings, completion and faults.
-/
namespace Sys2Proof.Machine

/-! ## Records -/

/-- Word `n` of a transfer's record. -/
def Xfer.w (x : Xfer) (n : Nat) : Nat := x.rec_.getD n 0
/-- Source kind (R126); a gather reads device memory (R141). -/
def Xfer.sk (x : Xfer) : Nat := if x.kind == .gather then 2 else bits (x.w 0) 1 0
/-- Destination kind; a gather writes global scratchpad. -/
def Xfer.dk (x : Xfer) : Nat := if x.kind == .gather then 1 else bits (x.w 0) 3 2
/-- Completion scope (R126, R141). -/
def Xfer.scope (x : Xfer) : Nat :=
  match x.kind with
  | .copy => bits (x.w 0) 6 4
  | .gather => bits (x.w 0) 24 22
  | .collect => x.stage
/-- EXP: a sparse source is expanded (R128). -/
def Xfer.exp (x : Xfer) : Bool := x.kind == .copy && bit (x.w 0) 7
/-- RING: the destination is a ring. -/
def Xfer.ring (x : Xfer) : Bool := x.kind == .copy && bit (x.w 0) 8
/-- NSCHED. -/
def Xfer.nsched (x : Xfer) : Nat := bits (x.w 0) 15 9
/-- Bytes of a row of a move. -/
def Xfer.cnt0 (x : Xfer) : Nat := if x.kind == .gather then bits (x.w 2) 31 0 else bits (x.w 3) 31 0
/-- Rows of a plane. -/
def Xfer.cnt1 (x : Xfer) : Nat := if x.kind == .gather then 1 else bits (x.w 3) 47 32
/-- Planes. -/
def Xfer.cnt2 (x : Xfer) : Nat := if x.kind == .gather then 1 else bits (x.w 3) 63 48
/-- Bytes of a move. -/
def Xfer.size (x : Xfer) : Nat := x.cnt0 * x.cnt1 * x.cnt2
/-- Moves of the transfer (R130, R141). -/
def Xfer.total (x : Xfer) : Nat :=
  match x.kind with
  | .copy => max 1 x.nsched
  | .gather => x.sched.length
  | .collect => 0
/-- Moves released: those below the stage counter (R131); every row of a gather. -/
def Xfer.released (x : Xfer) : Nat := if x.kind == .copy then min x.stage x.total else x.total

/-- Offset of linear byte `o` of a move under strides given as 32-bit patterns (R127). -/
def Xfer.offset (x : Xfer) (str1 str2 : Nat) (o : Nat) : Int :=
  (o / (x.cnt0 * x.cnt1) : Nat) * signedOf 32 str2 + (o / x.cnt0 % x.cnt1 : Nat) * signedOf 32 str1 + (o % x.cnt0 : Nat)

/-- Source offset of linear byte `o`, modulo 2^64. -/
def Xfer.srcOffset (x : Xfer) (m : Move) (o : Nat) : Nat :=
  wrapInt 64 ((m.sb : Int) + if x.kind == .gather then (o : Int) else x.offset (bits (x.w 4) 31 0) (bits (x.w 4) 63 32) o)

/-- Destination offset of linear byte `o`, with the scratchpad swizzle of DSWC (R127). -/
def Xfer.dstOffset (x : Xfer) (m : Move) (o : Nat) : Nat :=
  if x.kind == .gather then m.db + o
  else
    let d := wrapInt 64 (x.offset (bits (x.w 5) 31 0) (bits (x.w 5) 63 32) o)
    let d := if x.dk == 2 then d else swizzled (bits (x.w 6) 24 22) (bits (x.w 6) 30 25) (bits (x.w 6) 33 31) d
    (m.db + d) % 2 ^ 64

/-- The holder that translates for a transfer: the engine's cell, or the engine's cluster (R103). -/
def Xfer.holder (x : Xfer) : Nat := if x.kind == .copy then x.eng else 1024 + clusterOf x.eng

/-- The cause of a transfer's fault (R134, R209). -/
def Xfer.cause (x : Xfer) (key move : Nat) (t : Trap) : Cause :=
  { lateCause x.seq x.eng x.ipc 5 (x.op.getD .nopXfr) t (x.eng != x.owner) with
    xv := x.kind == .copy, xslot := if x.kind == .copy then key % 8 else 0, move := if x.kind == .copy then move else 0 }

/-- The state with a transfer changed. -/
def State.modXfer (s : State) (key : Nat) (f : Xfer → Xfer) : State :=
  { s with xfers := mapModify Xfer.idle s.xfers key f }

/-- A transfer by its key. -/
def State.xferAt (s : State) (key : Nat) : Xfer := mapGet Xfer.idle s.xfers key

/-- The transfer fails with a trap found in a move. -/
def State.failXfer (s : State) (key move : Nat) (t : Trap) : State :=
  s.modXfer key (fun x => x.fail (x.cause key move t))

/-! ## The ordering of a transfer -/

/-- A fence of the issuing cell holds the accesses of a transfer that started after the fence's bundle (R160, R164). -/
def State.xferFenced (s : State) (c sbun : Nat) (write : Bool) : Bool :=
  s.fences.any (fun f => f.cid == c && decide (f.bun < sbun) && (if write then f.writes else f.reads) && s.fenceHolds f)

/-- An operation waiting in a buffer is to access bytes of a run: a gathered or scattered one may access any. -/
def State.waitingAccess (s : State) (c : Nat) (w : Waiting) (pa n : Nat) : Bool :=
  match w.op with
  | .vst f => overlaps (s.spAddr c (addrCell w.eng (f.g == 1) w.x0) (addrOffset w.x0)) (128 * laneBytes f.w) pa n
  | .vld f => overlaps (s.spAddr c (addrCell w.eng (f.g == 1) w.x0) (addrOffset w.x0)) (128 * laneBytes f.w) pa n
  | .vsct _ => true
  | .vgth _ => true
  | .mma _ => (w.matOp c).readsRun pa n
  | .mmas _ => (w.matOp c).readsRun pa n
  | .mldacc _ => (w.matOp c).readsRun pa n
  | .mstacc f => overlaps (spKey w.eng w.x0) (128 * rowPitch f.f.toNat) pa n
  | _ => false

/-- An earlier access of the cell to a run of bytes has not performed: a store, an atomic, a load, a vector or a matrix operation (R158). -/
def State.accessBefore (s : State) (c seq pa n : Nat) : Bool :=
  s.reads.any (fun r => r.cid == c && decide (r.seq < seq) && overlaps (canonical r.addr) r.kind.size pa n) ||
  s.writes.any (fun w => w.cid == c && !w.ofEngine && decide (w.seq < seq) && w.touches pa n)
    || (s.core c).queue.any (fun w => decide (w.seq < seq) && s.waitingAccess c w pa n)
    || s.mat.any (fun m => m.owner == c && decide (m.seq < seq) &&
          (match m.op with
          | .mstacc f => overlaps (spKey m.eng m.base) (128 * rowPitch f.f.toNat) pa n
          | _ => m.held != 3 && m.readsRun pa n))

/-- The byte that an engine finds: a copy engine searches from its cell's write queue, a cluster engine from its cluster's
buffer (R151). -/
def State.engineByte (s : State) (x : Xfer) (pa : Nat) : Byte × Option Nat :=
  if x.kind == .copy then s.findByte x.owner true (s.seq + 1) pa else s.findByte x.eng false (s.seq + 1) pa

/-- The write not yet home that an engine takes a byte from. -/
def State.engineWrite (s : State) (x : Xfer) (pa : Nat) : Option PendWrite :=
  (s.engineByte x pa).2.bind (fun n => s.writes.find? (fun w => w.id == n))

/-- A block of encrypted memory as an engine's search finds it, as it is stored: bytes of writes that carry a key are merged
under that key (R118). -/
def State.storedBlock (s : State) (x : Xfer) (b : Nat) : List Nat :=
  let found := (List.range 16).map (fun i => (s.engineByte x (b + i), s.engineWrite x (b + i)))
  let plain := found.map (fun p => if (p.2.bind PendWrite.key).isSome then none else some p.1.1.toNat)
  let home := s.block b
  let stored := plain.zipIdx.map (fun p => p.1.getD (home.getD p.2 0))
  match found.findSome? (fun p => p.2.bind PendWrite.key) with
  | none => stored
  | some k =>
    let merged := (found.zip (xtsDecrypt k b stored)).map (fun p => if (p.1.2.bind PendWrite.key).isSome then p.1.1.1.toNat else p.2)
    xtsEncrypt k b merged

/-- A byte as an engine reads it, under the key of its record or none (R118). -/
def State.readKeyed (s : State) (x : Xfer) (key : Option Nat) (pa : Nat) : Byte :=
  let keyedWrite := ((s.engineWrite x pa).bind PendWrite.key).isSome
  if !encrypted pa || (key.isNone && !keyedWrite) then (s.engineByte x pa).1
  else
    let b := canonical pa / 16 * 16
    let stored := s.storedBlock x b
    let block := match key with
      | none => stored
      | some k => xtsDecrypt k b stored
    BitVec.ofNat 8 (block.getD (canonical pa % 16) 0)

/-! ## Addresses of a side -/

/-- One byte of a scratchpad side (R93). -/
def State.scratchByte (s : State) (x : Xfer) (kind a : Nat) : Trap ⊕ Nat :=
  if kind = 0 then
    if (s.core x.side).spcap ≤ a then .inl (trapAt 8 0x00 (a % 2 ^ 22)) else .inr (spKey x.side a)
  else
    match (if 1024 ≤ a / 2 ^ 22 then none else s.target x.owner (a / 2 ^ 22)) with
    | none => .inl (trapAt 3 0x02 (a % 2 ^ 32))
    | some q => if (s.core q).spcap ≤ a % 2 ^ 22 then .inl (trapAt 8 0x00 (a % 2 ^ 32)) else .inr (spKey q (a % 2 ^ 22))

/-- The first trap of a list, or all its results. -/
def allOk {α : Type} : List (Trap ⊕ α) → Trap ⊕ List α
  | [] => .inr []
  | .inl t :: _ => .inl t
  | .inr x :: l =>
    match allOk l with
    | .inl t => .inl t
    | .inr xs => .inr (x :: xs)

/-- A run of bytes of a device-memory side: how many of the offsets lie in the first one's 4 KiB page (R112). -/
def pageRun (r : List Nat) (offs : List Nat) : List Nat :=
  match offs with
  | [] => []
  | o :: _ => offs.takeWhile (fun p => tensorVa r p / 4096 == tensorVa r o / 4096)

/-- How many of a run of bytes end on an aligned 8-byte granule, by the address after the last one (R155). -/
def wholeGranules (n next : Nat) : Nat := n - next % 8

/-- Linear offsets of the next read of a move: at most 256 bytes, within one row, within one 4 KiB page of a device-memory source
(R112), and up to the end of an aligned granule where the row goes on (R155). -/
def Xfer.nextRun (x : Xfer) (m : Move) : List Nat :=
  let row := min (x.size - m.next) (x.cnt0 - m.next % x.cnt0)
  let l := (List.range (min 256 row)).map (fun i => m.next + i)
  if m.zero then l
  else
    let offs := l.map (x.srcOffset m)
    let n := if x.sk == 2 then (pageRun x.srec offs).length else offs.length
    let at_ (o : Nat) : Nat := if x.sk == 2 then tensorVa x.srec o else o
    let whole := if n = row then n else wholeGranules n (at_ (offs.getD (n - 1) 0) + 1)
    l.take (if whole = 0 then n else whole)

/-- Bytes that the next write of an access takes: at most 256, within one 4 KiB page of a device-memory destination (R112), and up to the
end of an aligned granule where the row goes on (R155): 0 where another part of the first granule must come first. -/
def Xfer.writeRun (x : Xfer) (m : Move) (a : Access) : Nat :=
  let offs := ((List.range (min 256 a.len)).map (fun i => x.dstOffset m (a.off + i)))
  let n := if x.dk == 2 then (pageRun x.drec offs).length else offs.length
  let at_ (o : Nat) : Nat := if x.dk == 2 then tensorVa x.drec o else o
  if a.off % x.cnt0 != 0 && at_ (offs.getD 0 0) % 8 != 0 then 0
  else if n = a.len && (a.off + a.len) % x.cnt0 = 0 then n else wholeGranules n (at_ (offs.getD (n - 1) 0) + 1)

/-- Data that ends inside a granule of its row waits for the data that follows it, and is written with it (R155). -/
def Xfer.join : Nat → Xfer → Xfer
  | 0, x => x
  | n + 1, x =>
    let next (a : Access) : Option (Access × Access) :=
      if a.phase == 1 && decide (a.len < 8) && (a.off + a.len) % x.cnt0 != 0 then
        (x.acc.find? (fun b => b.phase == 1 && b.move == a.move && b.off == a.off + a.len)).map (fun b => (a, b))
      else none
    match x.acc.findSome? next with
    | none => x
    | some (a, b) => Xfer.join n { x with
        acc := (x.acc.filter (fun c => c.n != b.n)).map (fun c => if c.n == a.n then { c with len := a.len + b.len, data := a.data ++ b.data } else c) }

/-- How a side's run of bytes resolves: it waits for a page walk, it fails, or it has physical addresses and the ASID and
virtual address of its translation. -/
inductive Resolved where
  | walk
  | trap (t : Trap)
  | at_ (pas : List Nat) (va : Option (Nat × Nat)) (keep : Option Transl)
  deriving DecidableEq, Repr

/-- A side's run of bytes at offsets `offs`, and how many bad range entries its translation met. -/
def State.resolve (s : State) (x : Xfer) (kind : Nat) (r : List Nat) (offs : List Nat) (write walk : Bool) : Resolved × Nat :=
  if kind ≠ 2 then
    match allOk (offs.map (s.scratchByte x kind)) with
    | .inl t => (.trap t, 0)
    | .inr l => (.at_ l none none, 0)
  else
    match firstTrap (offs.map (boundsCheck r)) with
    | some t => (.trap t, 0)
    | none =>
      let vas := offs.map (tensorVa r)
      let va := vas.headD 0
      match s.translate x.holder (s.asidOf x.owner) va walk with
      | (none, n) => (.walk, n)
      | (some (.inl t), n) => (.trap t, n)
      | (some (.inr t), n) =>
        match firstTrap (vas.map (fun v => s.translCheck t v 1 write (recKey r).isSome)) with
        | some e => (.trap e, n)
        | none => (.at_ (vas.map t.phys) (some (t.asid, va)) (some t), n)

/-- Host memory stands in a run. -/
def toHost (l : List Nat) : Bool := l.any (fun pa => regionOf pa == .host)

/-- The TSTAMP from which an access to these bytes crosses the Unulo link. -/
def crossing (s : State) (l : List Nat) : Option Nat := if toHost l then some s.now else none

/-- Bytes moved by an engine access, counted by tier (R227). -/
def State.countTier (s : State) (c : Nat) (l : List Nat) (write : Bool) : State :=
  match (l.head?).map regionOf with
  | some .hbm => s.count c (if write then 0x12 else 0x11) l.length
  | some .park => s.count c 0x13 l.length
  | some .host => s.count c 0x14 l.length
  | some .scratch => s.countBytes c c (spCell (l.headD 0)) l.length
  | _ => s

/-- The cost of an operation on a bucket: never above the capacity of 1,000 refills (R255, R256). -/
def Core.cost (k : Core) (n : Nat) : Nat := min n (1000 * k.erate)

/-- The bucket covers a cost (R256). -/
def Core.affords (k : Core) (n : Nat) : Bool := decide ((k.cost n : Int) ≤ k.ebal)

/-- A cost charged (R256). -/
def Core.charge (k : Core) (n : Nat) : Core := { k with ebal := k.ebal - k.cost n, charged := k.charged + k.cost n }

/-- A device-memory access of a core's engines is charged (R256). -/
def State.chargeEngine (s : State) (c kind : Nat) : State :=
  if kind = 2 && !isStoker c then s.modCore c (fun k => k.charge (mapGet 0 k.ecost 3)) else s

/-- The core's bucket covers an engine access to a side of a kind. -/
def State.engineAffords (s : State) (c kind : Nat) : Bool :=
  kind != 2 || isStoker c || (s.core c).affords (mapGet 0 (s.core c).ecost 3)

/-! ## Rings -/

/-- A ring header (R136). -/
structure Ring where
  at_  : Nat               -- physical address
  cell : Nat
  base : Nat
  lsz  : Nat
  lns  : Nat
  res  : Nat
  wptr : Nat
  rptr : Nat
  deriving DecidableEq, Repr

/-- The ring header at an offset of a cell; none where it is invalid (R136). -/
def State.ringAt (s : State) (cell off : Nat) : Option Ring :=
  let pa := spKey cell off
  let w (i n : Nat) : Nat := s.homeNat (pa + i) n
  let r : Ring := ⟨pa, cell, bits (w 0 4) 21 0, w 4 1, w 5 1, w 8 4, w 12 4, w 16 4⟩
  if off % 64 != 0 || decide ((s.core cell).spcap < off + 32) || decide (2 ^ 22 ≤ w 0 4) || decide (r.lsz < 6) || decide (16 < r.lsz)
      || decide (r.lns < 1) || decide (8 < r.lns) || w 6 2 != 0 || w 20 8 != 0 || w 28 4 != 0 || r.base % 2 ^ r.lsz != 0
      || decide ((s.core cell).spcap < r.base + 2 ^ (r.lsz + r.lns)) then none
  else some r

/-- The ring header at an offset of a cell as an operation reads it, or the trap that it meets at the address to be shown: an uncorrectable
error in it (R95), an invalid header (R136). -/
def State.ringRead (s : State) (cell off shown : Nat) : Trap ⊕ Ring :=
  if s.ueIn (spKey cell off) 32 then .inl (trapAt 5 0x00 shown)
  else match s.ringAt cell off with
    | none => .inl (trapAt 8 0x06 shown)
    | some r => .inr r

/-- A ring header is read: one-bit errors in it are corrected and counted (R95). -/
def State.scrubRing (s : State) (cell off : Nat) : State := s.scrub (spKey cell off) 32

/-- A pointer of a ring header takes an addition modulo 2^32, in the header's bank (R137). -/
def State.ringAdd (s : State) (r : Ring) (field_ n : Nat) : State :=
  s.setHomeNat (r.at_ + field_) 4 ((s.homeNat (r.at_ + field_) 4 + n) % 2 ^ 32)

/-- The difference of two pointers (R137, R138). -/
def ringDiff (a b : Nat) : Nat := (a + 2 ^ 32 - b) % 2 ^ 32

/-- Local offset of slot `n` (R136). -/
def Ring.slot (r : Ring) (n : Nat) : Nat := r.base + n % 2 ^ r.lns * 2 ^ r.lsz

/-- Cell and offset of a transfer's ring header; none where the issuing team does not hold the cell (R93, R126). -/
def State.ringPlace (s : State) (x : Xfer) : Option (Nat × Nat) :=
  let a := x.w 2
  if x.dk = 0 then some (x.side, a % 2 ^ 22) else (s.target x.owner (bits a 31 22)).map (fun q => (q, a % 2 ^ 22))

/-- The ring of a transfer, or the trap that it meets. -/
def State.ringOf (s : State) (x : Xfer) : Trap ⊕ Ring :=
  match s.ringPlace x with
  | none => .inl (trapAt 3 0x02 (x.w 2 % 2 ^ 32))
  | some (q, off) => s.ringRead q off (shownAddr (x.dk == 1) (x.w 2))

/-- The ring header of a transfer is read (R95). -/
def State.scrubRingOf (s : State) (x : Xfer) : State :=
  match s.ringPlace x with
  | none => s
  | some (q, off) => s.scrubRing q off

/-- Every byte of a move into a ring lies in its slot (R137). -/
def Xfer.fitsSlot (x : Xfer) (r : Ring) : Bool :=
  let s1 := signedOf 32 (bits (x.w 5) 31 0)
  let s2 := signedOf 32 (bits (x.w 5) 63 32)
  let e1 := (x.cnt1 - 1 : Nat) * s1
  let e2 := (x.cnt2 - 1 : Nat) * s2
  decide (0 ≤ min e1 0 + min e2 0) && decide (max e1 0 + max e2 0 + (x.cnt0 : Int) ≤ (2 ^ r.lsz : Nat))

/-! ## Starting -/

/-- Bytes of a dense group that EXP writes (R128). -/
def denseSize (spf : Nat) : Nat :=
  match spf with
  | 1 => 136
  | 2 => 72
  | 3 => 256
  | _ => 512

/-- The format that a sparse form holds: BX8, BX4, BF16 or FP32 (R74, R113). -/
def sparseFormat (spf : Nat) : Nat :=
  match spf with
  | 1 => 2
  | 2 => 3
  | 3 => 1
  | _ => 0

/-- Reserved bits of an address word of a kind (R126). -/
def addrWordOk (kind a : Nat) : Bool :=
  match kind with
  | 0 => decide (a < 2 ^ 22)
  | 1 => decide (a < 2 ^ 32)
  | _ => decide (a < 2 ^ 48)

/-- The conditions of R128 that a source layout record decides. -/
def expandOk (x : Xfer) (r : Option (List Nat)) : Bool :=
  match r with
  | none => true
  | some r => recSpf r != 0 && x.cnt0 % denseSize (recSpf r) == 0

/-- The fields of a transfer record are legal (R129, step 2). -/
def State.xferLegal (s : State) (x : Xfer) : Bool :=
  let w0 := x.w 0
  let w6 := x.w 6
  bits w0 31 16 == 0 && decide (x.sk ≤ 2) && decide (x.dk ≤ 2) && decide (x.scope ≤ 4) && decide (x.nsched ≤ 64)
    && addrWordOk x.sk (x.w 1) && addrWordOk x.dk (x.w 2)
    && decide (1 ≤ x.cnt0) && decide (x.cnt0 ≤ 0x400000) && decide (1 ≤ x.cnt1) && decide (1 ≤ x.cnt2)
    && bits w6 63 34 == 0 && bits w6 21 0 % 16 == 0 && x.w 7 == 0 && swizzleOk (bits w6 24 22) (bits w6 30 25) (bits w6 33 31)
    && (!x.exp || (x.sk == 2 && expandOk x (s.layoutRecord (s.asidOf x.owner) (bits w0 47 32))))
    && (!x.ring || decide (x.dk ≤ 1))

/-- The checks of R129 and R441 on a transfer record in their order. -/
def State.xferCheck (s : State) (x : Xfer) : Option Trap :=
  let a := s.asidOf x.owner
  let cap := (s.core x.side).spcap
  if cap < x.base + 64 then some (trapAt 8 0x00 x.base)
  else if cap < bits (x.w 6) 21 0 + 16 * x.nsched then some (trapAt 8 0x00 (bits (x.w 6) 21 0))
  else if x.base % 64 != 0 then some (trapAt 2 0x02 x.base)
  else if !s.xferLegal x then some (trapOf 8 0x05)
  else firstTrap [
    if x.sk == 2 then s.recordCheck a (bits (x.w 0) 47 32) false else none,
    if x.dk == 2 then s.recordCheck a (bits (x.w 0) 63 48) true else none]

/-- The checks of R141 on a gather record and its index list. An illegal field raises BD XREC behind the SPCAP check of the record (log 78:
DESIGN CHOICE). -/
def State.gatherCheck (s : State) (x : Xfer) : Option Trap :=
  let cap := (s.core x.side).spcap
  let n := bits (x.w 1) 47 32
  let rowb := bits (x.w 2) 31 0
  if cap < x.base + 32 then some (trapAt 8 0x00 x.base)
  else if bits (x.w 0) 21 16 != 0 || bits (x.w 0) 63 25 != 0 || decide (4 < bits (x.w 0) 24 22) || bits (x.w 1) 31 22 != 0
      || bits (x.w 1) 63 48 != 0 || bits (x.w 1) 1 0 != 0 || n == 0 || rowb == 0 || decide (0x10000 < rowb)
      || bits (x.w 3) 63 32 != 0 then some (trapOf 8 0x05)
  else if cap < bits (x.w 1) 21 0 + 4 * n then some (trapAt 8 0x00 (bits (x.w 1) 21 0))
  else s.recordCheck (s.asidOf x.owner) (bits (x.w 0) 15 0) false

/-- `n` doublewords of the local scratchpad of an engine, as its cell finds them (R158). -/
def State.recordWords (s : State) (x : Xfer) (off n : Nat) : List Nat :=
  (List.range n).map (fun i => (s.findNat x.owner (s.seq + 1) (spKey x.side (off + 8 * i)) 8).1)

/-- `n` words of 4 bytes. -/
def State.halfWords (s : State) (x : Xfer) (off n : Nat) : List Nat :=
  (List.range n).map (fun i => (s.findNat x.owner (s.seq + 1) (spKey x.side (off + 4 * i)) 4).1)

/-- The transfer with its record and tables read (R129, R130, R141). -/
def State.readRecord (s : State) (x : Xfer) : Xfer :=
  match x.kind with
  | .copy =>
    let x := { x with rec_ := s.recordWords x x.base 8 }
    let t := s.recordWords x (bits (x.w 6) 21 0) (2 * x.nsched)
    { x with sched := (List.range x.nsched).map (fun j => (t.getD (2 * j) 0, t.getD (2 * j + 1) 0)) }
  | _ =>
    let x := { x with rec_ := s.recordWords x x.base 4 }
    { x with sched := (s.halfWords x (bits (x.w 1) 21 0) (bits (x.w 1) 47 32)).map (fun i => (i, 0)) }

/-- Bytes of the record of a kind of transfer. -/
def Xfer.recordSize (x : Xfer) : Nat := if x.kind == .copy then 64 else 32

/-- The bytes that the engine reads at the start: record and table. -/
def Xfer.recordRuns (x : Xfer) : List (Nat × Nat) :=
  match x.kind with
  | .copy => [(x.base, 64), (bits (x.w 6) 21 0, 16 * x.nsched)]
  | _ => [(x.base, 32), (bits (x.w 1) 21 0, 4 * bits (x.w 1) 47 32)]

/-- The layout records that a transfer names, for the wait of R115. -/
def State.namedRecords (s : State) (x : Xfer) : List (List Nat) :=
  let a := s.asidOf x.owner
  let pick (b : Bool) (i : Nat) : List (List Nat) := if b then (s.layoutRecord a i).toList else []
  match x.kind with
  | .copy => pick (x.sk == 2) (bits (x.w 0) 47 32) ++ pick (x.dk == 2) (bits (x.w 0) 63 48)
  | _ => pick true (bits (x.w 0) 15 0)

/-- The record may be read: the cell's earlier accesses to it and to its table have performed, and no KEYCTL action runs on a key that it
names (R115, R158). No fence holds this read (R335). -/
def State.recordReady (s : State) (x : Xfer) : Bool :=
  let y := s.readRecord x
  !s.movingCell x.side && y.recordRuns.all (fun p => !s.accessBefore x.owner x.seq (spKey x.side p.1) p.2)
    && (s.namedRecords y).all (fun r => !s.keyBusy r)

/-- What a cluster's engine serves comes in the order of its arrivals (R141): an earlier gather or collective of the engine has not
started. Two that arrive in one cycle are taken in the order of their issue (log 56: DESIGN CHOICE). -/
def State.servedAfter (s : State) (h sbun seq : Nat) : Bool :=
  let earlier (b q : Nat) : Bool := decide (b < sbun) || (b == sbun && decide (q < seq))
  s.xfers.any (fun p => p.2.busy && p.2.kind == .gather && !p.2.started && !p.2.killed && p.2.holder == h && earlier p.2.sbun p.2.seq)
    || s.collects.any (fun m => !m.started && 1024 + clusterOf m.eng == h && earlier m.sbun m.seq)

/-- The record of a transfer is read and checked (R129). -/
def State.beginXfer (s : State) (key : Nat) : State :=
  let x := s.xferAt key
  if !x.busy || x.started || x.killed || x.kind == .collect || !s.recordReady x || (x.kind == .gather && s.servedAfter x.holder x.sbun x.seq) then s
  else
    let y := s.readRecord x
    let s := s.scrubAll (y.recordRuns.map (fun p => (spKey x.side p.1, p.2)))
    let a := s.asidOf x.owner
    let ue := y.recordRuns.any (fun p => s.readsUe x.owner (s.seq + 1) (spKey x.side p.1) p.2)
    let t := if ue then some (trapAt 5 0x00 x.base) else if y.kind == .copy then s.xferCheck y else s.gatherCheck y
    match t with
    | some t => s.modXfer key (fun _ => { x with started := true }.fail ({ x with started := true }.cause key 0 t))
    | none =>
      let rec_ (b : Bool) (i : Nat) : List Nat := if b then (s.layoutRecord a i).getD [] else []
      s.modXfer key (fun _ => { y with
        started := true
        srec := if y.kind == .copy then rec_ (y.sk == 2) (bits (y.w 0) 47 32) else rec_ true (bits (y.w 0) 15 0)
        drec := if y.kind == .copy then rec_ (y.dk == 2) (bits (y.w 0) 63 48) else [] })

/-! ## Moves -/

/-- The consumed tokens let the transfer go on (R123). -/
def State.xferTokens (s : State) (x : Xfer) : Bool := (s.core x.owner).tokensReady x.toks

/-- A transfer that may still issue. -/
def Xfer.live (x : Xfer) : Bool := x.busy && x.started && !x.killed && x.fault.isNone

/-- The next move may start: the stage counter exceeds it, the previous one has started, the tokens have completed, an entry with
reserved bits waits for the moves before it (R123, R130, R131), and a row of a gather waits while one that arrived earlier at its engine
has rows to start (R141). One that still waits for its tokens holds none back (log 78: DESIGN CHOICE). -/
def State.moveDue (s : State) (x : Xfer) : Bool :=
  x.live && s.xferTokens x && decide (x.mstart < x.released) && !x.ringw
    && ((x.sched.getD x.mstart (0, 0)).2 == 0 || x.mdone == x.mstart)
    && !(x.kind == .gather && s.xfers.any (fun p => p.2.kind == .gather && p.2.live && s.xferTokens p.2 && decide (p.2.mstart < p.2.total)
          && p.2.holder == x.holder && (decide (p.2.sbun < x.sbun) || (p.2.sbun == x.sbun && decide (p.2.seq < x.seq)))))

/-- The next move with its bases (R130, R141). -/
def Xfer.nextMove (x : Xfer) (no : Nat) : Move :=
  let e := (x.sched.getD x.mstart (0, 0)).1
  match x.kind with
  | .gather =>
    { j := x.mstart, no := no, next := 0, left := x.size, ring := none, sb := e * bits (x.w 2) 63 32,
      db := bits (x.w 3) 31 0 + x.mstart * x.cnt0, zero := e == 0xFFFFFFFF, raw := [], rawAt := 0 }
  | _ =>
    { j := x.mstart, no := no, next := 0, left := x.size, ring := none,
      sb := wrapInt 64 ((x.w 1 : Int) + signedOf 32 (bits e 31 0)), db := wrapInt 64 ((x.w 2 : Int) + signedOf 32 (bits e 63 32)),
      zero := false, raw := [], rawAt := 0 }

/-- The checks of a gather's whole row, before any of its bytes moves (R141). -/
def State.rowCheck (s : State) (x : Xfer) (m : Move) : Option Trap :=
  if x.kind != .gather then none
  else
    let l := [0, x.cnt0 - 1]
    firstTrap ((if m.zero then [] else l.map (fun o => boundsCheck x.srec (m.sb + o)))
      ++ l.map (fun o => match s.scratchByte x 1 (m.db + o) with
        | .inl t => some t
        | .inr _ => none))

/-- The next move starts, or waits for a ring slot (R131, R137). A row of a gather that fails its check ends the gather once the rows before
it have moved (R141). -/
def State.startMove (s : State) (key : Nat) : State :=
  let x := s.xferAt key
  if !s.moveDue x then s
  else if (s.core x.owner).tokensFailed x.toks then s.failXfer key 0 (trapOf 9 0x00)
  else if (x.sched.getD x.mstart (0, 0)).2 != 0 then s.failXfer key x.mstart (trapOf 8 0x05)
  else if x.ring then
    match s.ringOf x with
    | .inl t => s.failXfer key x.mstart t
    | .inr r => let s := s.scrubRingOf x; if x.fitsSlot r then s.modXfer key (fun x => { x with ringw := true }) else s.failXfer key x.mstart (trapOf 8 0x06)
  else
    let m := x.nextMove (s.accNo + 1)
    match s.rowCheck x m with
    | some t => if x.moves.isEmpty then s.failXfer key x.mstart t else s
    | none => { s.modXfer key (fun x => { x with mstart := x.mstart + 1, moves := x.moves ++ [m] }) with accNo := s.accNo + 1 }

/-- A move that waits for a ring slot reserves one (R137, step 1). -/
def State.reserveSlot (s : State) (key : Nat) : State :=
  let x := s.xferAt key
  if !(x.live && x.ringw) then s
  else match s.ringOf x with
    | .inl t => s.failXfer key x.mstart t
    | .inr r =>
      let s := s.scrubRingOf x
      if ringDiff r.res r.rptr = 2 ^ r.lns ∨ s.movingCell r.cell then s
      else
        let slot := r.slot r.res
        let db := if x.dk = 0 then slot else r.cell * 2 ^ 22 + slot
        let m := { x.nextMove (s.accNo + 1) with ring := some r.res, db := db }
        { (s.ringAdd r 8 1).modXfer key (fun x => { x with ringw := false, mstart := x.mstart + 1, moves := x.moves ++ [m] }) with
          accNo := s.accNo + 1 }

/-! ## Sparse expansion (R128) -/

/-- Bytes of a sparse group that must still be read, given those read: none once it is whole (R87). -/
def sparseNeed (t : Nat) (raw : List Nat) : Option Nat :=
  let ends := (List.range 4).foldl (fun (p : Nat × Nat) _ =>
    if raw.length < p.1 + 4 then p
    else (p.1 + 4 + sparseData t (onesBelow 32 (bytesNat ((raw.drop p.1).take 4))), p.2 + 1)) (8, 0)
  if ends.2 = 4 then (if raw.length < ends.1 then some (ends.1 - raw.length) else none) else some (ends.1 + 4 - raw.length)

/-- Element codes of one sparse block whose bitmap stands at `at_` (R87). -/
def sparseCodes (t : Nat) (raw : List Nat) (at_ : Nat) : List Nat :=
  let map := bytesNat ((raw.drop at_).take 4)
  let d := raw.drop (at_ + 4)
  (List.range 32).map (fun i =>
    if !bit map i then 0
    else
      let k := onesBelow i map
      match t with
      | 0 => bytesNat ((d.drop (4 * k)).take 4)
      | 1 => bytesNat ((d.drop (2 * k)).take 2)
      | 2 => d.getD k 0
      | _ => d.getD (k / 2) 0 / 16 ^ (k % 2) % 16)

/-- The dense bytes of a whole sparse group: a block format as its memory image, a float format as its 128 values (R83,
R128). -/
def denseGroup (t : Nat) (raw : List Nat) : List Nat :=
  let r := (List.range 4).foldl (fun (p : Nat × List Nat) _ =>
    let codes := sparseCodes t raw p.1
    (p.1 + 4 + sparseData t (onesBelow 32 (bytesNat ((raw.drop p.1).take 4))), p.2 ++ codes)) (8, [])
  if isFloat t then r.2.flatMap (fun x => natBytes x (formatWidth t / 8)) else groupBytes t (bytesNat (raw.take 8)) r.2

/-! ## Issuing accesses -/

/-- The transfers that an engine serves: those of one holder, with their keys. -/
def State.jobs (s : State) (h : Nat) : List (Nat × Xfer) := s.xfers.filter (fun p => p.2.busy && p.2.holder == h)

/-- Device-memory accesses of an engine in flight: reads, and writes not yet visible (R147). -/
def State.inFlight (s : State) (h : Nat) : Nat :=
  (s.jobs h).foldl (fun n p => n + p.2.acc.countP (fun a => (a.phase == 0 && p.2.sk == 2) || (a.phase == 2 && p.2.dk == 2))) 0

/-- The move may issue its next read: a sparse move has one under way at a time. -/
def Xfer.issuable (x : Xfer) (m : Move) : Bool := !(x.exp && x.acc.any (fun a => a.move == m.j && a.phase == 0))

/-- The first element of a list by a rank. -/
def minBy {α : Type} (f : α → Nat) : List α → Option α
  | [] => none
  | x :: l =>
    match minBy f l with
    | none => some x
    | some y => some (if f y < f x then y else x)

/-- The next move to issue a read: of those with bytes left to read, the one that started first (R147). -/
def State.nextMove (s : State) (h : Nat) : Option (Nat × Move) :=
  minBy (fun p => p.2.no) ((s.jobs h).flatMap (fun p =>
    if p.2.live then (p.2.moves.filter (fun m => decide (m.next < p.2.size))).map (fun m => (p.1, m)) else []))

/-- Bytes of an access's data that may be written now. -/
def Xfer.writable (x : Xfer) (a : Access) : Nat :=
  match x.moves.find? (fun m => m.j == a.move) with
  | none => a.len
  | some m => x.writeRun m a

/-- The engine has device-memory writes of a move numbered below `no` still to issue (R147). -/
def State.writesFirst (s : State) (h no : Nat) : Bool :=
  (s.jobs h).any (fun p => p.2.live && p.2.dk == 2 && p.2.moves.any (fun m => decide (m.no < no)
    && (decide (m.next < p.2.size) || p.2.acc.any (fun a => a.move == m.j && a.phase != 2))))

/-- The next access whose data waits to be written: to device memory, those of a move go behind those of the moves that started before it
(R147). -/
def State.nextWrite (s : State) (h : Nat) : Option (Nat × Access) :=
  let turn (x : Xfer) (a : Access) : Bool :=
    x.dk != 2 || !(x.moves.find? (fun m => m.j == a.move)).any (fun m => s.writesFirst h m.no)
  minBy (fun p => p.2.n) ((s.jobs h).flatMap (fun p =>
    if p.2.live then (p.2.acc.filter (fun a => a.phase == 1 && p.2.writable a != 0 && turn p.2 a)).map (fun a => (p.1, a)) else []))

/-- A transfer's access changed. -/
def Xfer.modAccess (x : Xfer) (n : Nat) (f : Access → Access) : Xfer :=
  { x with acc := x.acc.map (fun a => if a.n == n then f a else a) }

/-- A transfer's move changed. -/
def Xfer.modMove (x : Xfer) (j : Nat) (f : Move → Move) : Xfer :=
  { x with moves := x.moves.map (fun m => if m.j == j then f m else m) }

/-- What a translation formed for an access leaves: its cache entry, and the events counted. -/
def State.noteTransl (s : State) (x : Xfer) (keep : Option Transl) (bad : Nat) (walked : Bool) : State :=
  let s := (s.count x.owner 0x17 bad).count x.owner 0x16 (flag walked)
  match keep with
  | none => s
  | some t => if (s.cached x.holder).contains t then s else s.keepTransl x.holder t

/-- The next access of a move, issued (R112); none where it waits for its engine's page walk, its bucket or a fence. -/
def State.issueRead (s : State) (key : Nat) (m : Move) (walk : Bool) : Option State :=
  let x := s.xferAt key
  let n := s.accNo + 1
  let put (s : State) (a : Access) (f : Move → Move) : State :=
    { s.modXfer key (fun x => { x.modMove m.j f with acc := x.acc ++ [a] }) with accNo := n }
  if m.zero then
    let run := x.nextRun m
    some (put s ⟨n, m.j, 1, [], none, m.next, run.length, List.replicate run.length 0, none⟩
      (fun m => { m with next := m.next + run.length }))
  else
    let t := sparseFormat (recSpf x.srec)
    let offs := if x.exp then
        pageRun x.srec ((List.range (min 256 ((sparseNeed t (m.raw.map BitVec.toNat)).getD 0))).map (fun i =>
          wrapInt 64 (m.sb : Int) + m.rawAt + i))
      else (x.nextRun m).map (x.srcOffset m)
    if !s.engineAffords x.owner x.sk || s.xferFenced x.owner x.sbun false then none
    else match s.resolve x x.sk x.srec offs false walk with
      | (.walk, _) => none
      | (.trap e, bad) => some ((s.noteTransl x none bad walk).failXfer key m.j e)
      | (.at_ pas va keep, bad) =>
        let s := (s.noteTransl x keep bad walk).chargeEngine x.owner x.sk
        some (put s ⟨n, m.j, 0, pas, va, m.next, pas.length, [], crossing s pas⟩
          (fun m => if x.exp then { m with rawAt := m.rawAt + pas.length } else { m with next := m.next + pas.length }))

/-- The write of an access whose data has arrived, issued; none where it waits (R132). -/
def State.issueWrite (s : State) (key : Nat) (a : Access) (walk : Bool) : Option State :=
  let x := s.xferAt key
  match x.moves.find? (fun m => m.j == a.move) with
  | none => some (s.modXfer key (fun x => { x with acc := x.acc.filter (fun b => b.n != a.n) }))
  | some m =>
    let run := x.writeRun m a
    let offs := (List.range run).map (fun i => x.dstOffset m (a.off + i))
    if !s.engineAffords x.owner x.dk || s.xferFenced x.owner x.sbun true then none
    else match s.resolve x x.dk x.drec offs true walk with
      | (.walk, _) => none
      | (.trap e, bad) => some ((s.noteTransl x none bad walk).failXfer key a.move e)
      | (.at_ pas va keep, bad) =>
        let s := ((s.noteTransl x keep bad walk).chargeEngine x.owner x.dk).countTier x.owner pas true
        let n := s.accNo + 1
        let w : PendWrite := ⟨s.seq + 1, s.seq, x.owner, x.eng, .cluster, (pas.map canonical).zip a.data, none, 5, 0,
          some (key, n), if x.dk = 2 then s.keyOf x.drec else none, va, 256 * (s.seq + 1), x.seq⟩
        let rest := { a with off := a.off + run, len := a.len - run, data := a.data.drop run }
        some ({ s.modXfer key (fun x => ({ x with
              acc := x.acc.flatMap (fun (b : Access) => if b.n != a.n then [b] else
                { a with n := n, phase := 2, len := run, data := a.data.take run, host := crossing s pas }
                  :: if rest.len = 0 then [] else [rest]) } : Xfer).join x.acc.length) with
          accNo := n, seq := s.seq + 1, writes := s.writes ++ [w] })

/-- The engine of a holder issues one access if it can: a write whose data has arrived, or the next read (R147). -/
def State.pumpOne (s : State) (h : Nat) (walk : Bool) : Option State :=
  if 64 ≤ s.inFlight h then none
  else match s.nextWrite h with
    | some (key, a) => s.issueWrite key a walk
    | none => match s.nextMove h with
      | none => none
      | some (key, m) => if (s.xferAt key).issuable m then s.issueRead key m walk else none

/-- The engine of a holder issues what it can without a page walk. -/
def State.pump : Nat → State → Nat → State
  | 0, s, _ => s
  | n + 1, s, h =>
    match s.pumpOne h false with
    | none => s
    | some s' => s'.pump n h

/-- An engine issues until 64 accesses are in flight. -/
def State.pumpAll (s : State) (h : Nat) : State := s.pump 128 h

/-! ## Completing accesses -/

/-- A write of a transfer is home, or visible at the transfer's scope (R132, R152) and at cell scope of every engine of the issuing cell, as
a token edge needs it (R169). -/
def State.accessVisible (s : State) (x : Xfer) (key n : Nat) : Bool :=
  s.writes.all (fun w => w.xfer != some (key, n)
    || (w.visibleTo x.owner x.scope && [3, 4, 5].all (fun i => w.visibleTo (s.engine x.owner i) 0)))

/-- A move of the transfer is complete: MDONE rises, and the XSTEP tokens that wait for no other move complete (R131). -/
def State.moveDone (s : State) (key j : Nat) : State :=
  let s := s.modXfer key (fun x => { x with moves := x.moves.filter (fun m => m.j != j), mdone := x.mdone + 1 })
  let x := s.xferAt key
  let low := (minBy Move.j x.moves).map Move.j
  let below (thr : Nat) : Bool := decide (thr ≤ x.mstart) && (low.map (fun j => decide (thr ≤ j))).getD true
  let done := x.steps.filter (fun p => below p.2.1)
  let s := s.modXfer key (fun x => { x with steps := x.steps.filter (fun p => !below p.2.1) })
  s.modCore x.owner (fun k => done.foldl (fun k p => k.modFlight p.2.2 Flight.partDone) k)

/-- The data of a read arrives (R147); an uncorrectable error fails the transfer (R134). -/
def State.readReturns (s : State) (key : Nat) (x : Xfer) (a : Access) : State :=
  if a.src.any (fun pa => s.ueIn pa 1 && (s.engineByte x pa).2 == none) then
    (s.modXfer key (fun x => { x with acc := x.acc.filter (fun b => b.n != a.n) })).failXfer key a.move
      ⟨5, if x.sk == 2 then 0x02 else 0x00, 0, some ((a.va.map Prod.snd).getD (shownAddr (x.sk == 1) ((a.src.headD 0) - 0x40000000000)))⟩
  else
    let key_ := if x.sk = 2 then s.keyOf x.srec else none
    let data := a.src.map (s.readKeyed x key_)
    let s := (s.countTier x.owner a.src false).scrubAll (if x.sk = 2 then [] else a.src.map (fun pa => (pa, 1)))
    if x.exp then
      let t := sparseFormat (recSpf x.srec)
      let raw := ((x.moves.find? (fun m => m.j == a.move)).map Move.raw).getD [] ++ data
      let s := s.modXfer key (fun x => { x.modMove a.move (fun m => { m with raw := raw }) with
        acc := x.acc.filter (fun b => b.n != a.n) })
      if (sparseNeed t (raw.map BitVec.toNat)).isSome then s
      else
        let dense := (denseGroup t (raw.map BitVec.toNat)).map (BitVec.ofNat 8)
        let at_ := ((x.moves.find? (fun m => m.j == a.move)).map Move.next).getD 0
        { s.modXfer key (fun x =>
            let y := x.modMove a.move (fun m => { m with raw := [], next := m.next + dense.length })
            ({ y with acc := y.acc ++ [⟨s.accNo + 1, a.move, 1, [], none, at_, dense.length, dense, none⟩] } : Xfer).join (x.acc.length + 1))
          with accNo := s.accNo + 1 }
    else s.modXfer key (fun x => (x.modAccess a.n (fun a => { a with phase := 1, data := data, host := none })).join x.acc.length)

/-- An access of a transfer returns its data or becomes visible at the transfer's scope (R132, R147). -/
def State.accessDone (s : State) (key n : Nat) : State :=
  let x := s.xferAt key
  match x.acc.find? (fun a => a.n == n) with
  | none => s
  | some a =>
    if a.host.isSome && !s.hostUp then s
    else if a.phase == 0 && a.src.any (fun pa => s.waitsMove x.owner pa true || s.linkHeld x.eng pa) then s
    else match a.phase with
      | 0 => ((s.readReturns key x a).serve a.src).pumpAll x.holder
      | 2 =>
        if !s.accessVisible x key n then s
        else
          let left := ((x.moves.find? (fun m => m.j == a.move)).map Move.left).getD 0 - a.len
          let ring := ((x.moves.find? (fun m => m.j == a.move)).bind Move.ring).isSome
          let s := s.modXfer key (fun x => { x.modMove a.move (fun m => { m with left := m.left - a.len }) with
            acc := x.acc.filter (fun b => b.n != a.n), bytes := min (x.bytes + a.len) 0xFFFFFFFF })
          let s := if left = 0 && !ring && x.kind != .collect then s.moveDone key a.move else s
          s.pumpAll x.holder
      | _ => s

/-- The move whose turn it is to advance WPTR, of those whose writes are visible: WPTR equals its slot (R137, step 3). -/
def State.ringTurn (s : State) (x : Xfer) : Option (Ring × Move) :=
  if !x.busy || !x.ring || !x.moves.any (fun m => m.left == 0) then none
  else match s.ringOf x with
    | .inl _ => none
    | .inr r => (x.moves.find? (fun m => m.left == 0 && m.ring == some r.wptr)).map (fun m => (r, m))

/-- A ring move whose writes are visible advances WPTR in its turn, also where its transfer was killed or has failed in another move; a
move that meets an invalid header there fails (R136, R137). -/
def State.advanceRing (s : State) (key : Nat) : State :=
  let x := s.xferAt key
  match s.ringTurn x with
  | some (r, m) => if s.movingCell r.cell then s else ((s.scrubRingOf x).ringAdd r 12 1).moveDone key m.j
  | none =>
    match x.moves.find? (fun m => x.live && x.ring && m.left == 0), s.ringOf x with
    | some m, .inl t => s.failXfer key m.j t
    | _, _ => s

/-! ## Completion -/

/-- The value of a done register (R132). -/
def doneValue (status cls moves bytes : Nat) : Word := pack [(1, 0), (status, 1), (cls, 8), (min moves 127, 16), (bytes, 32)]

/-- The transfer has nothing more to do: all its moves have completed, or it was killed or failed and the accesses already
issued have performed (R132 to R134). Data read and never written waits for nothing. -/
def Xfer.finished (x : Xfer) : Bool :=
  x.busy && (if x.fault.isSome || x.killed then x.acc.all (fun a => a.phase == 1)
    else x.started && x.acc.isEmpty && x.mdone == x.total)

/-- STATUS and CLASS of a finished transfer (R132): a fault found before a kill stands. -/
def Xfer.outcome (x : Xfer) : Nat × Nat :=
  match x.fault with
  | some c => (1, c.cls)
  | none => (if x.killed then 2 else 0, 0)

/-- MOVES of the done register: 1 or 0 for a collective (R132, R437). -/
def Xfer.movesShown (x : Xfer) : Nat :=
  match x.kind with
  | .collect => if x.fault.isNone && !x.killed then 1 else 0
  | _ => x.mdone

/-- A transfer completes (R132): its done register, token and copy counter change when its result lands in the issuing cell, and the slot is
free. The slot keeps the stage counter (log 56: DESIGN CHOICE), and whether its transfer ended in a fault or a kill (R131), at the cell
that it has migrated to where it has (R226). -/
def State.completeXfer (s : State) (key : Nat) : State :=
  let x := s.xferAt key
  if !x.finished || (s.ringTurn x).isSome then s
  else
    let v := doneValue x.outcome.1 x.outcome.2 x.movesShown x.bytes
    let s := s.modCore x.owner (fun k =>
      let k := x.steps.foldl (fun k p => k.modFlight p.2.2 Flight.partDone) k
      k.modFlight x.seq (fun f => { f with sval := v, open_ := false, rem := 0, fault := x.fault }))
    let xs := mapSet Xfer.idle s.xfers key Xfer.idle
    { s with
      xfers := if x.kind == .copy then
          mapSet Xfer.idle xs (8 * x.side + key % 8) { Xfer.idle with stage := x.stage, killed := x.killed || x.fault.isSome }
        else xs }

/-- A transfer is killed (R133). -/
def State.killXfer (s : State) (key : Nat) : State :=
  s.modXfer key (fun x => if x.busy then { x with killed := true } else x)

/-- The transfer waits only for XSTEP: every released move has completed (R133, R218). -/
def Xfer.waitsStep (x : Xfer) : Bool :=
  x.live && x.kind == .copy && x.acc.isEmpty && x.moves.isEmpty && x.mdone == x.mstart && decide (x.released ≤ x.mstart)
    && decide (x.mdone < x.total)

/-- Every released move has completed, or waits to reserve a ring slot (R218, states 2 and 3). -/
def Xfer.idleEnough (x : Xfer) : Bool :=
  x.waitsStep || (x.live && x.acc.isEmpty && x.moves.isEmpty && x.ringw)

/-! ## The XFR buffer -/

/-- XSTART's slot is free on the engine, and no transfer that migration left on another engine holds it (R125, R226). -/
def State.slotFree (s : State) (_ eng xs : Nat) : Bool :=
  !(s.xferAt (xferKey eng xs)).busy && !(s.xferAt (s.slotKey eng xs)).busy

/-- A gather or collective of the cell is pending at its cluster engine and has not started (R141). -/
def State.clusterPending (s : State) (c : Nat) : Bool :=
  s.xfers.any (fun p => p.2.busy && p.2.kind == .gather && p.2.owner == c && !p.2.started)
    || s.collects.any (fun p => p.owner == c && !p.started)

/-- Every access that the cell's SA, SB, VEC and MAT slots issued before number `n` has performed at cell scope (R379). -/
def State.accessesDone (s : State) (c n : Nat) : Bool :=
  !s.reads.any (fun r => r.cid == c && decide (r.seq < n))
    && !(s.core c).queue.any (fun w => decide (w.seq < n) && (isRead w.op || isVecStore w.op))
    && !s.mat.any (fun m => m.owner == c && (m.reads || m.stores) && decide (m.seq < n))

/-- An XFR operation may start: it has arrived, its scheduled start has come, its slot is free, and what it waits for has come (R36, R43,
R125, R141, R379, R436). XSTEP waits here for the tokens that it consumes (R123); a failed producer does not keep it from acting (log 56:
DESIGN CHOICE). -/
def State.mayStartXfr (s : State) (c : Nat) (w : Waiting) : Bool :=
  let k := s.core c
  w.due == 0 && w.way == 0 && decide (k.nextStart w ≤ k.cyc) && !s.arrivedFirst c w &&
    match w.op with
    | .xstart xs _ _ _ _ => s.slotFree c w.eng xs.toNat
    | .xstep xs _ _ => let x := s.xferAt (s.slotKey w.eng xs.toNat); (!x.busy || x.started || x.killed) && k.tokensReady w.toks
    | .xgath .. => !s.clusterPending c
    | .xcoll .. => !s.clusterPending c
    | .rrel .. => s.accessesDone c w.seq
    | _ => true

/-- The last number given before the present cycle: an operation that starts with its own bundle starts in it. -/
def State.startBun (s : State) (c : Nat) : Nat := if s.ctx.cid == c && s.owed.cycle then s.ctx.bun else s.seq

/-- The flight of a done register: open until the engine completes it (R47, R132). -/
def Waiting.doneFlight (w : Waiting) (k : Core) (dr tok : Nat) : Flight :=
  { w.flight k 3 (.scalar dr) 0 with open_ := true, free := true, sb := dr != 0, cnt := .cp, tok := tok, parts := 1 }

/-- A transfer or a gather enters its engine. -/
def State.acceptXfer (s : State) (c : Nat) (w : Waiting) (key : Nat) (kind : XferKind) (dr tok : Nat) : State :=
  let x : Xfer := { Xfer.idle with
    kind := kind, busy := true, owner := c, eng := w.eng, side := w.eng, seq := w.seq, sbun := s.startBun c, ipc := w.ipc,
    op := some w.op, base := w.x0, stage := 1, dr := dr, tok := tok, toks := w.toks }
  let s := s.modCore c (fun k => k.fly (w.doneFlight k dr tok))
  ({ s with xfers := mapSet Xfer.idle s.xfers key x }).beginXfer key

/-- A collective enters its cluster's engine (R142, R143). -/
def State.admitCollect (s : State) (c : Nat) (w : Waiting) (dr tok : Nat) : State :=
  let t := s.teamOf c
  let m : Collect := ⟨c, w.eng, w.eng, (t.map Team.id).getD 0, s.lid c, w.seq, s.startBun c, w.ipc, some w.op, w.x0, [], [], [], 0, dr,
    tok, w.toks, false, none, false, none⟩
  { s.modCore c (fun k => k.fly (w.doneFlight k dr tok)) with collects := s.collects ++ [m] }

/-- XSTEP acts (R131, R442): a slot whose transfer ended in a fault or a kill takes no effect. Where it raises IL XSLOT, its token
completes with its TOKERR bit, as a producer that ends in a fault (log 56: DESIGN CHOICE). -/
def State.startXstep (s : State) (c : Nat) (w : Waiting) (xs : BitVec 3) (n : BitVec 6) (tok : Nat) : State :=
  let key := s.slotKey w.eng xs.toNat
  let x := s.xferAt key
  let fl (k : Core) : Flight := { w.flight k 5 .none 0 with tok := tok }
  if x.fault.isSome || x.killed then s.modCore c (fun k => k.fly (fl k))
  else if !x.busy || x.nsched == 0 then
    s.modCore c (fun k => (k.complete tok w.seq true).raise w.skew (w.cause c (w.icyc != k.cyc) (trapIL 0x09)))
  else
    let thr := min (x.stage + n.toNat + 1) x.nsched
    let below := decide (thr ≤ x.mstart) && x.moves.all (fun m => decide (thr ≤ m.j))
    let s := s.modXfer key (fun x => { x with
      stage := thr, steps := if tok = 0 || below then x.steps else x.steps ++ [(tok, thr, w.seq)] })
    s.modCore c (fun k => k.fly { fl k with open_ := tok != 0 && !below, free := true, parts := 1 })

/-- RREL in its start cycle (R379). -/
def State.startRrel (s : State) (c : Nat) (w : Waiting) (off n : Nat) : State :=
  let fail (t : Trap) : State := s.modCore c (fun k => k.raise (w.faultSkew c) (w.cause c (w.icyc != k.cyc) t))
  match s.ringRead w.eng off off with
  | .inl t => fail t
  | .inr r => if ringDiff r.wptr r.rptr < n then fail (trapOf 8 0x07) else (s.scrubRing w.eng off).ringAdd r 16 n

/-- What XSKEW reads: the last collective, with the duty now in force where JIT was set (R144, R440). -/
def Core.skewValue (k : Core) : Word :=
  pack [(field k.coll 43 0, 0), (if bit k.coll.toNat 44 then mapGet 16 k.duties (field k.coll 63 48) else 0, 44)]

/-- An operation of the XFR slot starts in the present cycle. -/
def State.startXfr (s : State) (c : Nat) (w : Waiting) : State :=
  let s := s.modCore c (fun k => (k.unqueue w.seq).noteStart w)
  match w.op with
  | .xstart xs dr _ _ t => s.acceptXfer c w (8 * w.eng + xs.toNat) .copy dr.toNat t.tp.toNat
  | .xgath dr _ t => s.acceptXfer c w (8192 + w.seq) .gather dr.toNat t.tp.toNat
  | .xcoll dr _ t => s.admitCollect c w dr.toNat t.tp.toNat
  | .xstep xs n t => s.startXstep c w xs n t.tp.toNat
  | .xkill xs => s.killXfer (s.slotKey w.eng xs.toNat)
  | .xskew d => s.modCore c (fun k => k.fly { w.flight k 3 (.scalar d.toNat) 1 with sval := k.skewValue })
  | .rrel h n => s.startRrel c w (64 * h.toNat) (n.toNat + 1)
  | _ => s

/-- The heads of the XFR buffer start in issue order, one in a cycle on each engine (R382, R436). -/
def State.tryXfr (s : State) (c : Nat) : State :=
  ((s.core c).heads 5).foldl (fun s w => if s.mayStartXfr c w then s.startXfr c w else s) s

/-! ## Checks and issue -/

/-- The ring header that RAWAIT names, or the trap that reading it meets (R95, R373). -/
def State.awaitRing (s : State) (h : BitVec 16) : Trap ⊕ Ring := s.ringRead (s.engine s.ctx.cid 5) (64 * h.toNat) (64 * h.toNat)

/-- The checks at issue of the XFR slot of a cell (R373); a stoker's XFR payload holds INVR and nothing else (R109, R308, R369). -/
def xfrCheck (i : Instr) (s : State) : Option Trap :=
  if isStoker s.ctx.cid then some trapEncoding
  else match i with
    | .rawait _ h j =>
      match s.awaitRing h with
      | .inl t => some t
      | .inr r => if 2 ^ r.lns ≤ j.toNat then some (trapOf 8 0x06) else none
    | _ => none

/-- XSTART's record offset: as encoded, or as the latch has stepped it (R306). -/
def State.xstartBase (s : State) (rofs : BitVec 16) : Nat := if s.ctx.reissue then (s.cur.latch 5).addr else 64 * rofs.toNat

/-- An XFR operation behind its checks: latch, buffer, and a start at once where it may. Only XSTART's latch holds a record offset (R455). -/
def State.issueXfr (s : State) (i : Instr) (base : Nat) : Step :=
  s.guarded i (xfrCheck i s) (fun s =>
    let s := s.latchOp i (match i with
      | .xstart .. => base
      | _ => 0) 0 0
    let t := tokensOf i
    (s.enqueue (s.waitingOp i (word base) 0 0 t none 0) t.tp.toNat (counterOf i)).tryXfr s.ctx.cid)

/-- NOP in XFR sets the latch to NOP (R369). -/
def execNopXfr (s : State) : Step :=
  s.guarded .nopXfr (xfrCheck .nopXfr s) (fun s => s.modCur (fun k => k.setLatch 5 Latch.nop))

/-- XSTART (R441). -/
def execXstart (xs : BitVec 3) (dr : BitVec 6) (rofs : BitVec 16) (str : BitVec 6) (tok : Tokens) (s : State) : Step :=
  s.issueXfr (.xstart xs dr rofs str tok) (s.xstartBase rofs)

/-- XSTEP (R442). -/
def execXstep (xs : BitVec 3) (n : BitVec 6) (tok : Tokens) (s : State) : Step := s.issueXfr (.xstep xs n tok) 0

/-- XKILL (R438). -/
def execXkill (xs : BitVec 3) (s : State) : Step := s.issueXfr (.xkill xs) 0

/-- XGATH (R437). -/
def execXgath (dr : BitVec 6) (gofs : BitVec 17) (tok : Tokens) (s : State) : Step :=
  s.issueXfr (.xgath dr gofs tok) (32 * gofs.toNat)

/-- XCOLL (R437). -/
def execXcoll (dr : BitVec 6) (gofs : BitVec 17) (tok : Tokens) (s : State) : Step :=
  s.issueXfr (.xcoll dr gofs tok) (32 * gofs.toNat)

/-- XSKEW (R440). -/
def execXskew (d : BitVec 6) (s : State) : Step := s.issueXfr (.xskew d) 0

/-- RREL (R379). -/
def execRrel (hofs : BitVec 16) (n : BitVec 8) (s : State) : Step := s.issueXfr (.rrel hofs n) 0

/-- RAWAIT: the wait starts with its bundle (R373, R374). -/
def execRawait (d : BitVec 6) (hofs : BitVec 16) (j : BitVec 8) (s : State) : Step :=
  s.guarded (.rawait d hofs j) (xfrCheck (.rawait d hofs j) s)
    (fun s => (s.latchOp (.rawait d hofs j) 0 0 0).modCur (fun k => { k with waits := { k.waits with
      ring := some (.rawait d hofs j)
      ringArg := s.ctx.ipc % 2 ^ 16 + s.cur.skewOf 5 * 2 ^ 16 + s.engine s.ctx.cid 5 * 2 ^ 22 } }))

/-! ## Steps of the engines -/

/-- TRANSFER_MOVE_START: the record of a transfer that waited for it is read, its next move starts if it is due, and its
engine issues what it can (R129, R131, R147). -/
def execTransferMoveStart (key : Nat) (s : State) : Step :=
  .next (((s.beginXfer key).startMove key).pumpAll (s.xferAt key).holder)

/-- TRANSFER_ACCESS_DONE (R132, R134, R147). -/
def execTransferAccessDone (key n : Nat) (s : State) : Step := .next (s.accessDone key n)

/-- PAGE_WALK: the walk that an engine's next access waits for ends, with a translation or a fault (R105). -/
def execPageWalk (holder : Nat) (s : State) : Step :=
  .next (match s.pumpOne holder true with
    | none => s
    | some t => t.pumpAll holder)

/-- TRANSFER_COMPLETE (R132); a collective's end is its engine's (R146). -/
def execTransferComplete (key : Nat) (s : State) : Step := .next (if (s.xferAt key).kind == .collect then s else s.completeXfer key)

/-- RING_SLOT_RESERVE (R137). -/
def execRingSlotReserve (key : Nat) (s : State) : Step := .next ((s.reserveSlot key).pumpAll (s.xferAt key).holder)

/-- RING_WPTR_ADVANCE (R137). -/
def execRingWptrAdvance (key : Nat) (s : State) : Step := .next (s.advanceRing key)

end Sys2Proof.Machine
end

