-- ==== Sys2Proof/Machine/Collect.lean ====
section
/-!
DEFINITION. Machine/Collect.lean: collectives (R142 to R146) and INVR with its holders (R109 to R111, R341, R342).
-/
namespace Sys2Proof.Machine

/-! ## Collective records -/

/-- Word `n` of a collective record. -/
def Collect.w (m : Collect) (n : Nat) : Nat := m.words.getD n 0
/-- OP (R142). -/
def Collect.cop (m : Collect) : Nat := bits (m.w 0) 2 0
/-- RED. -/
def Collect.red (m : Collect) : Nat := bits (m.w 0) 4 3
/-- EF. -/
def Collect.ef (m : Collect) : Nat := bits (m.w 0) 8 5
/-- JIT. -/
def Collect.jit (m : Collect) : Bool := bit (m.w 0) 11
/-- GID. -/
def Collect.gid (m : Collect) : Nat := bits (m.w 0) 31 16
/-- COUNT. -/
def Collect.count (m : Collect) : Nat := bits (m.w 0) 63 32
/-- NMEM. -/
def Collect.nmem (m : Collect) : Nat := bits (m.w 2) 43 32
/-- ROOT. -/
def Collect.root (m : Collect) : Nat := bits (m.w 2) 59 48
/-- Bytes of an element. -/
def Collect.width (m : Collect) : Nat := if m.ef = 1 then 2 else 4
/-- Elements of the result at a member (R143). -/
def Collect.results (m : Collect) : Nat :=
  match m.cop with
  | 1 => m.nmem * m.count
  | 2 => m.count / m.nmem
  | _ => m.count
/-- The member table names a cell of this device. -/
def entryLocal (e : Nat) : Bool := !bit e 31
/-- The rank of a LID of this device in the table. -/
def Collect.rank (m : Collect) : Nat := m.table.findIdx (fun e => entryLocal e && e % 1024 == m.lid)
/-- What all members of one collective must carry alike (R143). -/
def Collect.like (m n : Collect) : Bool :=
  m.w 0 == n.w 0 && m.nmem == n.nmem && m.root == n.root && m.table == n.table
/-- The same collective: team, group and place in the group's order (R143). -/
def Collect.joins (m n : Collect) : Bool := m.team == n.team && m.gid == n.gid && m.round == n.round

/-- The record and table rules of R142 and R143. -/
def Collect.legal (m : Collect) (size : Nat) : Bool :=
  let e := m.ef
  decide (m.cop ≤ 3) && decide (m.red ≤ 2) && (e == 0 || e == 1 || e == 6 || e == 10) && bits (m.w 0) 15 12 == 0
    && decide (1 ≤ m.count) && decide (m.count ≤ 0x100000)
    && bits (m.w 1) 63 54 == 0 && bits (m.w 1) 31 22 == 0
    && bits (m.w 2) 21 0 % 4 == 0 && decide (2 ≤ m.nmem) && bits (m.w 2) 63 60 == 0 && bits (m.w 2) 31 22 == 0
    && decide (m.root < m.nmem) && m.w 3 == 0
    && m.table.all (fun e => bits e 15 10 == 0 && bits e 30 26 == 0 && (!entryLocal e || decide (e % 1024 < size)))
    && m.table.countP (fun e => entryLocal e && e % 1024 == m.lid) == 1
    && (m.cop != 2 || m.count % m.nmem == 0)

/-- The stand-in transfer of a collective, for reading its record and for its result writes. -/
def Collect.asXfer (m : Collect) : Xfer :=
  { Xfer.idle with
    kind := .collect, busy := true, started := true, owner := m.owner, eng := m.eng, side := m.side, seq := m.seq,
    sbun := m.sbun, ipc := m.ipc, op := m.op, base := m.base, rec_ := m.words, dr := m.dr, tok := m.tok, toks := m.toks,
    killed := m.killed, fault := m.fault, stage := 3 }

/-- A member's part changed. -/
def State.modCollect (s : State) (seq : Nat) (f : Collect → Collect) : State :=
  { s with collects := s.collects.map (fun m => if m.seq == seq then f m else m) }

/-- A member's part ends without a result: it completes with STATUS 1 and the trap's class, or killed (R134). What XSKEW shows of its arrivals
the spec leaves open (log 74: a free value). -/
def State.endCollect (s : State) (m : Collect) (t : Option Trap) : State :=
  let v := (Config.endedSkew m.seq).zeroExtend 64 ||| pack [(flag m.jit, 44), (m.gid, 48)]
  let s := s.modCore m.owner (fun k => k.modFlight m.seq (fun f => { f with fmt := v }))
  let x := m.asXfer
  let x := match t with
    | some t => x.fail (x.cause 0 0 t)
    | none => { x with killed := true }
  { s with
    collects := s.collects.filter (fun n => n.seq != m.seq)
    xfers := mapSet Xfer.idle s.xfers (8192 + m.seq) x }

/-- The record and the member table as the engine finds them. -/
def State.readCollect (s : State) (m : Collect) : Collect :=
  let m := { m with words := s.recordWords m.asXfer m.base 4 }
  { m with table := s.halfWords m.asXfer (bits (m.w 2) 21 0) m.nmem }

/-- The key under which a member counts the collectives of a group (R143). -/
def Collect.roundKey (m : Collect) : Nat := (1024 * m.team + m.lid) * 65536 + m.gid

/-- The record of a member's collective is read and checked once the cell's earlier accesses to it have performed, in its turn at its
engine (R141, R158, R437). -/
def State.beginCollect (s : State) (m0 : Collect) : State :=
  let m := s.readCollect m0
  let runs := [(m.base, 32), (bits (m.w 2) 21 0, 4 * m.nmem)]
  let cap := (s.core m.side).spcap
  let size := ((s.team m.team).map Team.size).getD 0
  let src := bits (m.w 1) 21 0
  let dst := bits (m.w 1) 53 32
  if m.started || s.movingCell m.side || runs.any (fun p => s.accessBefore m.owner m.seq (spKey m.side p.1) p.2)
      || s.servedAfter (1024 + clusterOf m.eng) m.sbun m.seq then s
  else
    let s := s.scrubAll (runs.map (fun p => (spKey m.side p.1, p.2)))
    let trap :=
      if runs.any (fun p => s.readsUe m.owner (s.seq + 1) (spKey m.side p.1) p.2) then some (trapAt 5 0x00 m.base)
      else if cap < m.base + 32 then some (trapAt 8 0x00 m.base)
      else if cap < bits (m.w 2) 21 0 + 4 * m.nmem then some (trapAt 8 0x00 (bits (m.w 2) 21 0))
      else if !m.legal size then some (trapOf 8 0x08)
      else if cap < src + m.count * m.width then some (trapAt 8 0x00 src)
      else if cap < dst + m.results * m.width then some (trapAt 8 0x00 dst)
      else none
    match trap with
    | some t => s.endCollect m (some t)
    | none =>
      let n := mapGet 0 s.rounds m.roundKey
      { s.modCollect m.seq (fun _ => { m with started := true, round := n }) with rounds := mapSet 0 s.rounds m.roundKey (n + 1) }

/-- The contribution is read and the arrival recorded (R145); a failed token or an uncorrectable error ends the member. -/
def State.arriveCollect (s : State) (m : Collect) : State :=
  let k := s.core m.owner
  if !m.started || m.arrived.isSome || s.movingCell m.side || !k.tokensReady m.toks || s.xferFenced m.owner m.sbun false then s
  else if k.tokensFailed m.toks then s.endCollect m (some (trapOf 9 0x00))
  else
    let pa := spKey m.side (bits (m.w 1) 21 0)
    let x := m.asXfer
    if (List.range (m.count * m.width)).any (fun i => s.ueIn (pa + i) 1 && (s.engineByte x (pa + i)).2 == none) then
      s.endCollect m (some (trapAt 5 0x00 (bits (m.w 1) 21 0)))
    else
      let elt (i : Nat) : Nat := bytesNat ((List.range m.width).map (fun j => (s.engineByte x (pa + i * m.width + j)).1.toNat))
      (s.scrub pa (m.count * m.width)).modCollect m.seq (fun m => { m with data := (List.range m.count).map elt, arrived := some s.now })

/-! ## Results -/

/-- A peer device is reached by no trained link (R286, R288). -/
def State.peerLost (s : State) (dev : Nat) : Bool :=
  !(List.range 18).any (fun n => let l := mapGet Link.reset s.links n; (l.up || l.lost) && l.peerdev == dev)

/-- Every link to a peer device has lost its training, and none has failed to train again: what crosses it is held (R285). -/
def State.peerHeld (s : State) (dev : Nat) : Bool :=
  !s.peerLost dev && !(List.range 18).any (fun n => let l := mapGet Link.reset s.links n; l.up && l.peerdev == dev)

/-- The part of the member of a table entry: its data and the TSTAMP of its arrival. A peer's are free values (log 8). -/
def State.partOf (s : State) (m : Collect) (e : Nat) : Option (List Nat × Nat) :=
  if entryLocal e then
    (s.collects.find? (fun n => n.joins m && n.lid == e % 1024)).bind (fun n => n.arrived.map (fun a => (n.data, a)))
  else if s.peerHeld (bits e 25 16) then none
  else
    some ((List.range m.count).map (fun i => Config.peerElement e m.gid m.round i % 2 ^ (8 * m.width)),
      min s.now (Config.peerArrival e m.gid m.round))

/-- Two elements combined by min or max (R143). -/
def pickElement (ef red a b : Nat) : Result :=
  if red = 1 then pickValue ef (fun x y => valueLtZero y x) (fun x y => decide (y < x)) a b
  else pickValue ef (fun x y => valueLtZero x y) (fun x y => decide (x < y)) a b

/-- One element reduced over the ranks (R143). -/
def reduceElement (m : Collect) (xs : List Nat) : Result :=
  if m.red = 0 then
    if isFloat m.ef then sumValues m.ef (modeOf (bits (m.w 0) 10 9)) (xs.map (floatValue m.ef))
    else (xs.foldl (· + ·) 0 % 2 ^ 32, flagNone)
  else
    let first : Result := match xs with
      | [] => (0, flagNone)
      | x :: _ => pickElement m.ef m.red x x
    xs.foldl (fun r x => let q := pickElement m.ef m.red r.1 x; (q.1, r.2 ||| q.2)) first

/-- The result of a rank from the contributions of all, with its flags (R143). -/
def collectResult (m : Collect) (parts : List (List Nat)) (rank : Nat) : List Nat × Flags :=
  let red (i : Nat) : Result := reduceElement m (parts.map (fun d => d.getD i 0))
  match m.cop with
  | 0 =>
    let l := (List.range m.count).map red
    (l.map Prod.fst, unionFlags (l.map Prod.snd))
  | 1 => (parts.flatMap id, flagNone)
  | 2 =>
    let n := m.count / m.nmem
    let l := (List.range n).map (fun i => red (rank * n + i))
    (l.map Prod.fst, unionFlags (l.map Prod.snd))
  | _ => (parts.getD m.root [], flagNone)

/-- The result writes of a member: accesses of at most 256 bytes from its cluster's buffer on (R150). -/
def State.writeResult (s : State) (m : Collect) (bytes : List Byte) : State :=
  let pa := spKey m.side (bits (m.w 1) 53 32)
  let parts := (List.range ((bytes.length + 255) / 256)).map (fun i => (i, (bytes.drop (256 * i)).take 256))
  let key := 8192 + m.seq
  let acc := parts.map (fun p => (⟨s.accNo + 1 + p.1, 0, 2, [], none, 256 * p.1, p.2.length, p.2, none⟩ : Access))
  let ws := parts.map (fun p =>
    (⟨s.seq + 1 + p.1, s.seq, m.owner, m.eng, .cluster, p.2.zipIdx.map (fun q => (pa + 256 * p.1 + q.2, q.1)), none, 5, 0,
      some (key, s.accNo + 1 + p.1), none, none, 256 * (s.seq + 1 + p.1), m.seq⟩ : PendWrite))
  { s with
    xfers := mapSet Xfer.idle s.xfers key { m.asXfer with acc := acc, stage := if m.table.all entryLocal then 3 else 4 }
    writes := s.writes ++ ws
    seq := s.seq + parts.length
    accNo := s.accNo + parts.length
    collects := s.collects.filter (fun n => n.seq != m.seq) }

/-- The place of arrival `i` in the order of arrivals, ties by rank (R144). -/
def arrivalPlace (as_ : List Nat) (i : Nat) : Nat :=
  (as_.zipIdx.filter (fun p => decide (p.1 < as_.getD i 0) || (p.1 == as_.getD i 0 && decide (p.2 < i)))).length

/-- The duty of a die whose latest member arrived at `die` (R146). -/
def slowDuty (last die prev : Nat) : Nat :=
  if last - prev = 0 then 16 else max 2 (16 - 16 * (last - die) / (last - prev))

/-- The duty that a group sets a cell; the least of its groups' is in force (R146). -/
def Core.setDuty (k : Core) (gid d : Nat) : Core :=
  let l := mapSet 16 k.duties gid d
  { k with duties := l, duty := l.foldl (fun n p => min n p.2) 16 }

/-- The duties that a group sets the dies that hold its members, at the completion of its collective; 16 where JIT is 0 (R146). -/
def State.setDuties (s : State) (g : GroupEnd) (prev : Nat) : State :=
  match s.team g.team with
  | none => s
  | some t =>
    t.cells.foldl (fun s c =>
      match g.dies.find? (fun p => p.1 == dieOf c) with
      | none => s
      | some p => s.modCore c (fun k => k.setDuty g.gid (if g.jit then slowDuty g.last p.2 prev else 16))) s

/-- The last member of a collective on this device has completed: the duties of its dies follow (R146). -/
def State.endGroup (s : State) (g : GroupEnd) : State :=
  let key := g.team * 65536 + g.gid
  let prev := match mapGet 0 s.groupEnd key with
    | 0 => g.first
    | n + 1 => n
  { s.setDuties g prev with groupEnd := mapSet 0 s.groupEnd key (s.now + 1) }

/-- The collective of issue number `n` has completed at its member. -/
def State.memberDone (s : State) (n : Nat) : State :=
  match s.ending.find? (fun g => g.left.contains n) with
  | none => s
  | some g =>
    let left := g.left.filter (· != n)
    if left.isEmpty then { s.endGroup g with ending := s.ending.filter (· != g) }
    else { s with ending := s.ending.map (fun h => if h == g then { g with left := left } else h) }

/-- The dies that hold members here, each with its latest arrival (R145). -/
def State.dieArrivals (s : State) (m : Collect) (as_ : List Nat) : List (Nat × Nat) :=
  let cells := ((s.team m.team).map Team.cells).getD []
  let members := (m.table.zip as_).filterMap (fun p =>
    if entryLocal p.1 then some (dieOf (cells.getD (p.1 % 1024) 0), p.2) else none)
  (members.map Prod.fst).eraseDups.map (fun d => (d, ((members.filter (fun p => p.1 == d)).map Prod.snd).foldl max 0))

/-- All members have arrived with matching records: results and arrival order (R143 to R145). -/
def State.finishCollect (s : State) (m : Collect) (parts : List (List Nat × Nat)) : State :=
  let as_ := parts.map Prod.snd
  let first := as_.foldl min (as_.headD 0)
  let last := as_.foldl max 0
  let group := s.collects.filter (fun n => n.joins m)
  let s1 := { s with ending := s.ending ++ [⟨m.team, m.gid, m.jit, s.dieArrivals m as_, first, last, group.map Collect.seq⟩] }
  group.foldl (fun s n =>
    let r := collectResult n (parts.map Prod.fst) n.rank
    let v := pack [(min (last - first) 0xFFFFFFFF, 0), (arrivalPlace as_ n.rank, 32), (flag n.jit, 44), (n.gid, 48)]
    let s := s.modCore n.owner (fun k => k.modFlight n.seq (fun f => { f with fmt := v, flags := r.2 }))
    s.writeResult n ((r.1.flatMap (fun x => natBytes x n.width)).map (BitVec.ofNat 8))) s1

/-- The member of a LID can no longer contribute: its cell has halted, or its team is over, with no collective under way
(R143). -/
def State.absent (s : State) (m : Collect) (lid : Nat) : Bool :=
  match s.team m.team with
  | none => true
  | some t =>
    let c := t.cells.getD lid 0
    (s.core c).st == .halted && !s.collects.any (fun n => n.team == m.team && n.lid == lid)
      && !(s.core c).queue.any (fun w => w.slot == 5)

/-- How a collective ends for each of its members where it gives no result: the trap of its end number (R143). -/
def endTrap (n : Nat) : Option Trap :=
  match n with
  | 0 => none
  | 1 => some (trapOf 8 0x09)
  | 2 => some (trapOf 8 0x0A)
  | _ => some (trapOf 0x0F 0x00)

/-- The key of a collective among those that ended without a result. -/
def Collect.endKey (m : Collect) : Nat := (m.team * 65536 + m.gid) * 2 ^ 32 + m.round

/-- The members of this device that a collective waits for have all arrived, some ended it, or one is missing. A member that arrives
after a collective has ended ends as the others did. A member that left the collective by a fault or a kill of its own counts as one that
never contributes (R143). -/
def State.settleCollect (s : State) (m : Collect) : State :=
  let fail (n : Nat) : State :=
    { (s.collects.filter (fun n => n.joins m && n.arrived.isSome)).foldl (fun s p => s.endCollect p (endTrap n)) s with
      roundEnd := mapSet 0 s.roundEnd m.endKey n }
  let locals := (m.table.filter entryLocal).map (· % 1024)
  let group := s.collects.filter (fun n => n.joins m)
  let gone (l : Nat) : Bool :=
    !group.any (fun n => n.lid == l) && decide (m.round < mapGet 0 s.rounds ((1024 * m.team + l) * 65536 + m.gid))
  let ended := mapGet 0 s.roundEnd m.endKey
  if m.arrived.isNone then s
  else if ended ≠ 0 then fail ended
  else if group.any (fun n => n.arrived.isSome && !n.like m) then fail 1
  else if locals.any gone || locals.any (fun l => !group.any (fun n => n.lid == l) && s.absent m l) then fail 2
  else if m.table.any (fun e => !entryLocal e && s.peerLost (bits e 25 16)) then fail 3
  else if group.any (fun n => s.xferFenced n.owner n.sbun true) then s
  else match allOk (m.table.map (fun e => match s.partOf m e with
      | none => .inl (trapOf 0 0)
      | some p => .inr p)) with
    | .inl _ => s
    | .inr parts => s.finishCollect m parts

/-- COLLECTIVE_ARRIVAL: the collective of issue number `n` reads its record where it has not, and its contribution (R145);
the last member's arrival forms the results (R143). -/
def execCollectiveArrival (n : Nat) (s : State) : Step :=
  let get (s : State) : Option Collect := s.collects.find? (fun m => m.seq == n)
  let s := ((get s).map s.beginCollect).getD s
  let s := ((get s).map s.arriveCollect).getD s
  .next (((get s).map s.settleCollect).getD s)

/-- COLLECTIVE_COMPLETE: a member's collective completes once its result is visible, or has failed (R132, R143). -/
def execCollectiveComplete (n : Nat) (s : State) : Step :=
  .next (let t := s.completeXfer (8192 + n)
    if (s.xferAt (8192 + n)).finished then t.memberDone n else t)

/-! ## INVR -/

/-- The holders: each cell's copy engine and each cluster's engine (R103). -/
def allHolders : List Nat := List.range 1152

/-- The die of a holder. -/
def holderDie (h : Nat) : Nat := if h < 1024 then dieOf h else (h - 1024) / 16

/-- The check of INVR (R109, R341); on a cell it is a stoker's instruction (R304). -/
def invrCheck (i : Instr) (a v l : BitVec 6) (s : State) : Option Trap :=
  let va := (s.rd v).toNat
  let len := (s.rd l).toNat
  let _ := a
  if !isStoker s.ctx.cid then some (trapOf 3 0x00)
  else if s.owed.rpt != 0 || !WellFormed i then some trapEncoding
  else if 2 ^ 57 ≤ va ∨ va % 4096 ≠ 0 ∨ len % 4096 ≠ 0 ∨ 2 ^ 57 < va + len then some (trapOf 2 0x01)
  else none

/-- INVR issues: it sets out to every holder, with sD pending (R110, R341). -/
def execInvr (d a v l : BitVec 6) (s : State) : Step :=
  s.guarded (.invr d a v l) (invrCheck (.invr d a v l) a v l s) (fun s =>
    let q : Invr := ⟨s.ctx.cid, s.seq + 1, field (s.rd a) 15 0, (s.rd v).toNat, (s.rd l).toNat, allHolders, [], 0, 0, false⟩
    let s := s.launch s.ctx.cid { s.newFlight (.invr d a v l) 3 (.scalar d.toNat) 0 with sb := d != 0, open_ := true, free := true, parts := 1 }
    { s.modCur (fun k => k.setLatch 5 Latch.nop) with invrs := s.invrs ++ [q] })

/-- INVR removes a translation (R110, step 1). -/
def Invr.removes (q : Invr) (t : Transl) : Bool :=
  t.asid == q.asid && q.asid != 0 && (q.len == 0 || (decide (t.base < q.va + q.len) && decide (q.va ≤ t.last)))

/-- The holder of a write of a transfer. -/
def PendWrite.holder (w : PendWrite) : Nat :=
  match w.xfer with
  | some (key, _) => if key < 8192 then w.own else 1024 + clusterOf w.own
  | none => 4096

/-- The accesses in flight of a holder under dropped translations: reads by access number, writes by their own number (R110,
step 3). -/
def State.underDropped (s : State) (h : Nat) (ts : List Transl) : List (Nat × Nat) :=
  let hit (va : Option (Nat × Nat)) : Bool := match va with
    | some (a, v) => ts.any (fun t => t.covers a v)
    | none => false
  ((s.jobs h).flatMap (fun p => (p.2.acc.filter (fun a => a.phase == 0 && hit a.va)).map (fun a => (a.n, 0))))
    ++ (s.writes.filter (fun w => w.holder == h && hit w.va)).map (fun w => (w.id, 1))

/-- An access that an INVR waits for is still in flight: a read without its data, a write not yet visible at dev scope. -/
def State.stillFlying (s : State) (p : Nat × Nat) : Bool :=
  if p.2 = 0 then s.xfers.any (fun q => q.2.acc.any (fun a => a.n == p.1 && a.phase == 0))
  else s.writes.any (fun w => w.id == p.1)

/-- An INVR of a stoker changed. -/
def State.modInvr (s : State) (stk : Nat) (f : Invr → Invr) : State :=
  { s with invrs := s.invrs.map (fun q => if q.stk == stk then f q else q) }

/-- INVR reaches a holder: it drops its translations, and acknowledges at once where nothing is in flight under them, or its
die is isolated (R110, R111, R290). -/
def State.reachHolder (s : State) (q : Invr) (h : Nat) : State :=
  let drop := (s.cached h).filter q.removes
  let fly := s.underDropped h drop
  let s := { s with tcache := mapSet [] s.tcache h ((s.cached h).filter (fun t => !q.removes t)) }
  let q' := { q with reach := q.reach.filter (· != h), held := q.held + flag (!drop.isEmpty) }
  s.modInvr q.stk (fun _ =>
    if s.ident.fenced.contains (holderDie h) then { q' with iso := true }
    else if fly.isEmpty then q' else { q' with wait := q.wait ++ [(h, fly)] })

/-- A holder whose accesses have all performed acknowledges. -/
def State.ackHolder (s : State) (q : Invr) (h : Nat) (fly : List (Nat × Nat)) : State :=
  if fly.any s.stillFlying then s
  else s.modInvr q.stk (fun q => { q with wait := q.wait.filter (fun p => p.1 != h), drain := q.drain + fly.length })

/-- INVR_HOLDER_ACK: an INVR reaches a holder, or the holder acknowledges it (R110). -/
def execInvrHolderAck (stk holder : Nat) (s : State) : Step :=
  .next (match s.invrs.find? (fun q => q.stk == stk) with
    | none => s
    | some q =>
      if q.reach.contains holder then s.reachHolder q holder
      else match q.wait.find? (fun p => p.1 == holder) with
        | none => s
        | some p => s.ackHolder q holder p.2)

/-- What INVR writes (R111). -/
def Invr.value (q : Invr) : Word :=
  pack [(1, 0), (flag q.iso, 1), (flag (q.held == 0), 2), (q.held, 16), (min q.drain 0xFFFFFFFF, 32)]

/-- INVR_COMPLETE (R110, step 4). -/
def execInvrComplete (stk : Nat) (s : State) : Step :=
  .next (match s.invrs.find? (fun q => q.stk == stk && q.reach.isEmpty && q.wait.isEmpty) with
    | none => s
    | some q =>
      { s.modCore stk (fun k => k.modFlight q.flight (fun f => { f with sval := q.value, open_ := false, rem := 0 })) with
        invrs := s.invrs.filter (fun p => p.stk != stk) })

end Sys2Proof.Machine
end

