-- ==== Sys2Proof/Machine/Window.lean ====
section
/-!
DEFINITION. Machine/Window.lean: the two register windows: the host's Unulo management window (R27, R183, R454) and the
stokers' management window (R98, R102, R120, R179): what a read gives, which step a write makes, and REGISTER_WRITE, HOST_ACCESS
and the writes of storage.
-/
namespace Sys2Proof.Machine

/-! ## Reads by the host -/

/-- UTC in ns: TSTAMP plus UTCOFS (R231). -/
def State.utc (s : State) : Int := (s.now : Int) + s.power.utcofs

/-- CURVESTAT.EXPIRED: the curve in force has passed NOTAFTER (R235). -/
def State.curveExpired (s : State) : Bool :=
  match s.power.curve with
  | some c => decide ((c.notAfter : Int) ≤ s.utc)
  | none => false

/-- CURVESTAT (R232). -/
def State.curvestat (s : State) : Word :=
  let p := s.power
  pack [(flag p.curveSub.isSome, 0), (flag p.cdone, 1), (p.cresult, 2), (flag p.cdrop, 6), (flag p.curve.isSome, 7),
    (flag s.curveExpired, 8), (flag p.pending.isSome, 9),
    ((List.range 8).foldl (fun n i => n + flag (mapGet none p.anchors i).isSome * 2 ^ i) 0, 16)]

/-- DMPSTAT (R244). -/
def Power.dmpstat (p : Power) : Word :=
  pack [(p.lc, 0), (p.lf, 4), (p.duty, 8), (p.grade, 13), (p.target, 16), (flag p.miss, 29), (p.pmeas, 32), (p.band, 48)]

/-- DROOPENT: the entry that DROOPIDX names (R260). -/
def Power.droopent (p : Power) : Word :=
  match p.droops[p.droopidx]? with
  | some d => pack [(d.sig, 0), (d.die, 16), (d.hits, 19), (1, 27)]
  | none => 0

/-- FWSTAT (R275). -/
def Firm.fwstat (f : Firm) : Word :=
  pack [(flag f.fbusy, 0), ((f.fwsub.map Handover.phase).getD 0, 1), (f.fresult, 4), (flag f.fdrop, 8), (f.frole, 9), (f.fnew, 12),
    (f.fold, 15), (f.fhb, 18)]

/-- QUOTESTAT (R282). -/
def Firm.quotestat (f : Firm) : Word :=
  pack [(flag f.quote.isSome, 0), (flag f.qdone, 1), (flag f.qexh, 2), (flag f.qdrop, 3), (f.sigLeft, 24)]

/-- LNKSTAT (R286). -/
def Link.stat (l : Link) : Word :=
  pack [(flag l.up, 0), (flag l.half, 1), (flag (l.spare != 0), 2), (l.lanes, 3), (l.peerdev, 9), (l.retrain, 32)]

/-- LNKERR (R286). -/
def Link.err (l : Link) : Word := pack [(l.replay, 0), (l.feccor, 32), (l.repairs, 56)]

/-- A word of the die event counters (R227). -/
def State.dieWord (s : State) (off : Nat) : Word := mapGet 0 s.ident.dieev (off / 8)

/-- The registers of the Unulo management window below 0x200, by offset; 0 where there is none (R454). -/
def State.hostReg (s : State) (off : Nat) : Word :=
  match off with
  | 0x000 => (s.deviceReg 0).getD 0
  | 0x008 => (s.deviceReg 1).getD 0
  | 0x010 => (s.deviceReg 2).getD 0
  | 0x018 => s.ident.devcfg
  | 0x020 => s.ident.devstat
  | 0x040 => word s.sched.qtbase
  | 0x050 => pack [(flag s.sched.qdone, 0), (s.sched.qcode, 1)]
  | 0x058 => word s.sched.fdump
  | 0x060 => word s.sched.slice
  | 0x068 => word s.sched.thmig
  | 0x088 => s.curvestat
  | 0x090 => word s.power.cseq
  | 0x098 => word (wrapInt 64 s.power.utcofs)
  | 0x0A0 => s.power.dmpstat
  | 0x0A8 => word s.power.gateOrder
  | 0x0B0 => pack [(s.power.thsave, 0), (115, 8)]
  | 0x0B8 => word s.power.droopctl
  | 0x0C0 => word s.power.droopidx
  | 0x0C8 => s.power.droopent
  | 0x0D8 => s.firm.fwstat
  | 0x0F0 => s.firm.quotestat
  | 0x0F8 => word s.firm.evring
  | 0x180 => word s.ident.isorec
  | 0x188 => word s.ident.lnkctl
  | 0x190 => pack [(s.firm.evcount, 0), (flag s.firm.evfail, 32)]
  | o => if 0x100 ≤ o ∧ o < 0x180 then word (Config.idlePower ((o - 0x100) / 8) % 65536) else 0

/-- An aligned 64-bit load of the Unulo management window (R454). -/
def State.hostWord (s : State) (off : Nat) : Word :=
  if off < 0x200 then s.hostReg off
  else if off < 0xA00 then mapGet 0 s.firm.watch ((off - 0x200) / 8)
  else if 0x10000 ≤ off ∧ off < 0x18000 then word (mapGet 0 s.sched.qdb ((off - 0x10000) / 8))
  else if 0x20000 ≤ off ∧ off < 0x20800 then s.dieWord (off - 0x20000)
  else if 0x30000 ≤ off ∧ off < 0x301C0 then
    let l := mapGet Link.reset s.links ((off - 0x30000) / 16)
    if off % 16 = 0 then l.stat else l.err
  else 0

/-- A byte of the two areas that are read as bytes: the attestation log and the identity certificate (R281, R282, R454). The certificate,
whose length no rule gives, fills the offsets 0x5_0000 to 0x5_FFFF (log 65: DESIGN CHOICE). -/
def State.areaByte (s : State) (off : Nat) : Nat :=
  if off < 0x50000 then
    (((s.firm.log[(off - 0x40000) / 64]?).bind (fun e => e[off % 64]?)).map BitVec.toNat).getD 0
  else (Config.certificate (off - 0x50000)).toNat

/-- A load of the host, of `n` bytes, in the Unulo management window (R454). -/
def State.hostLoad (s : State) (off n : Nat) : Word :=
  if off % n ≠ 0 then 0
  else if 0x40000 ≤ off ∧ off < 0x60000 then word (bytesNat ((List.range n).map (fun i => s.areaByte (off + i))))
  else if n = 8 then s.hostWord off
  else 0

/-! ## The step that a write makes -/

/-- The step of an aligned 64-bit store of the host at an offset of the Unulo window. -/
def hostStep (off v : Nat) : Instr :=
  match off with
  | 0x080 => .curveSubmit v
  | 0x098 => .utcofsWrite v
  | 0x0D0 => .fwSubmit v
  | 0x0E8 => .quoteSubmit v
  | o =>
    if 0x200 ≤ o ∧ o < 0xA00 then .watchArm ((o - 0x200) / 8) v
    else if 0x10000 ≤ o ∧ o < 0x18000 then .qdbWrite ((o - 0x10000) / 8) v
    else .registerWrite o v

/-- First address of the stokers' management window (R98). -/
def mgmtBase : Nat := 0x40100000000

/-- The steps of a CCMD write, in bit order (R179). -/
def ccmdSteps (cid v : Nat) : List Instr :=
  (if bit v 0 then [.ccmdFstop cid v] else []) ++ (if bit v 1 then [.ccmdYset cid] else [])
    ++ (if bit v 2 then [.ccmdYclr cid] else []) ++ (if bit v 3 then [.ccmdMset cid v] else [])
    ++ (if bit v 4 then [.ccmdMclr cid] else [])

/-- The offset lies in a cell's control block (R179). -/
def inControl (o : Nat) : Bool := decide (0x10000000 ≤ o) && decide (o < 0x10400000)

/-- The offset lies in a hand-over block area, which is memory (R277). -/
def inBlocks (o : Nat) : Bool := decide (0x200000 ≤ o) && decide (o < 0x260000)

/-- The steps that a stoker's 8-byte store makes at an offset of the management window. The module-wide identification words
take the writes of the stoker that holds the management role; of DEVSTAT's, other stokers' writes still reach HARDTRIP (R27,
R179). -/
def State.stokerSteps (s : State) (stk o v : Nat) : List Instr :=
  if o < 0x40 then
    if s.roleOf stk == 0 then [.registerWrite (mgmtBase + o) v]
    else if o = 0x20 then [.registerWrite 0x20 v] else []
  else if 0x100 ≤ o ∧ o < 0x140 then [.keydatWrite ((o - 0x100) / 8) v]
  else if o = 0x140 then
    (match bits v 9 8 with
    | 1 => [.keyctlLoad v]
    | 2 => [.keyctlEmpty v]
    | _ => [])
  else if inControl o then
    let cid := (o - 0x10000000) / 0x1000
    let r := o % 0x1000
    if r = 0 then ccmdSteps cid v
    else if 0x100 ≤ r ∧ r < 0x900 then [.srimgWrite cid ((r - 0x100) / 8) v]
    else [.registerWrite (mgmtBase + o) v]
  else [.registerWrite (mgmtBase + o) v]

/-! ## Reads by stokers -/

/-- CSTAT (R179). -/
def State.cstat (s : State) (c : Nat) : Word :=
  let k := s.core c
  pack [(if (s.teamOf c).isSome then k.st.code else 7, 0), (flag k.yreq, 3), (flag k.migReq.isSome, 4), (flag k.stopReq.isSome, 5),
    (k.ctxt, 16)]

/-- A word of a control block (R179). -/
def State.controlWord (s : State) (c r : Nat) : Word :=
  if r = 0x008 then s.cstat c
  else if r = 0x010 then word (s.core c).lmbase
  else if 0x180 ≤ r ∧ r ≤ 0x530 then (s.cellReg c ((r - 0x100) / 8) false).getD 0
  else 0

/-- An aligned 64-bit load of the stokers' management window, by offset; 0 where the spec places no register (log 16). -/
def State.mgmtWord (s : State) (o : Nat) : Word :=
  if o < 0x40 then (s.deviceReg (o / 8)).getD 0
  else if o = 0x148 then pack [(flag s.sched.keyctl.isSome, 0), (flag s.sched.keyfull, 1)]
  else if 0x800 ≤ o ∧ o < 0xA00 then
    pack ((List.range 64).map (fun i => (flag (mapGet false s.sched.bells ((o - 0x800) * 8 + i)), i)))
  else if 0x10000 ≤ o ∧ o < 0x10800 then mapGet 0 s.sched.cx ((o - 0x10000) / 8)
  else if 0x20000 ≤ o ∧ o < 0x20800 then s.dieWord (o - 0x20000)
  else if 0x400000 ≤ o ∧ o < 0x420000 then
    pack ((List.range 4).map (fun i => (mapGet 0 s.sched.lidmap ((o - 0x400000) / 2 + i) % 1024, 16 * i)))
  else if inControl o then s.controlWord ((o - 0x10000000) / 0x1000) (o % 0x1000)
  else 0

/-- The check of a stoker's access of `n` bytes to a physical address of the management window: an aligned doubleword, but in
the block areas (R120, R177, R179; log 16). -/
def mgmtCheck (pa n shown : Nat) : Option Trap :=
  if regionOf pa == .window && !inBlocks (pa - mgmtBase) && n != 8 then some (trapAt 2 0x00 shown) else none

/-- What a stoker reads: `n` bytes of its local memory, of physical memory at home, or of the window. -/
def State.stokerRead (s : State) (pa n : Nat) : Nat :=
  if regionOf pa == .window && !inBlocks (pa - mgmtBase) then (s.mgmtWord (pa - mgmtBase)).toNat else s.homeNat pa n

/-- An access by a stoker or the host to HBM4 or host memory that meets an uncorrectable error (R95). -/
def State.plainUe (s : State) (pa n : Nat) : Bool := s.ueIn pa n

/-- A store at home with fresh check bits for what it covers whole (R95). -/
def State.storePlain (s : State) (pa n x : Nat) : State :=
  { s.setHomeNat pa n x with ueMem := s.healed (bytesAt pa n x) }

/-- What a stoker's store of `n` bytes does: at home, or the steps of the window, which come before the stoker's next access (R172). -/
def State.stokerWrite (s : State) (stk pa n x : Nat) : State :=
  if regionOf pa == .window && !inBlocks (pa - mgmtBase) then
    { s with ops := (s.stokerSteps stk (pa - mgmtBase) x).map (fun i => ⟨7, false, i⟩) }
  else (s.rewrite (bytesAt pa n x)).storePlain pa n x

/-! ## REGISTER_WRITE -/

/-- The eight die numbers of GATEORDER are a permutation of 0 to 7 (R254). -/
def gateOrderOk (v : Nat) : Bool := (List.range 8).all (fun d => (List.range 8).any (fun i => bits v (3 * i + 2) (3 * i) == d))

/-- A word of the die event counters written (R227). -/
def State.writeDie (s : State) (off : Nat) (v : Word) : State :=
  let i := off / 8
  let old := mapGet 0 s.ident.dieev i
  let new := if i % 2 = 0 then (v &&& 0x1FF) ||| (old &&& 0x200 &&& ~~~v) else v &&& 0xFFFFFFFFFFFF
  { s with ident := { s.ident with dieev := mapSet 0 s.ident.dieev i new } }

/-- STATE of a queue, in its entry of the queue table (R185). -/
def State.queueState (s : State) (q : Nat) : Nat := bits (s.homeNat (s.sched.qtbase + 32 * q + 16) 8) 34 32

/-- Some queue is active (R183). -/
def State.anyActive (s : State) : Bool := (List.range 4096).any (fun q => s.queueState q == 1)

/-- A host register without a row of its own written (R6, R8). -/
def State.writeHostReg (s : State) (off v : Nat) : State :=
  let sc := s.sched
  let p := s.power
  match off with
  | 0x020 => if bit v 2 then { s with ident := { s.ident with hardtrip := false } } else s
  | 0x040 => if s.anyActive then s else { s with sched := { sc with qtbase := bits v 51 6 * 64 } }
  | 0x048 => { s with sched := { sc with qctl := some (v % 2 ^ 15), qdone := false } }
  | 0x058 => { s with sched := { sc with fdump := bits v 51 12 * 4096 + v % 512 } }
  | 0x060 => { s with sched := { sc with slice := v % 2 ^ 32 } }
  | 0x068 => { s with sched := { sc with thmig := v % 512 } }
  | 0x088 => if bit v 6 then { s with power := { p with cdrop := false } } else s
  | 0x0A8 => if gateOrderOk (v % 2 ^ 24) then { s with power := { p with gateOrder := v % 2 ^ 24 } } else s
  | 0x0B0 => { s with power := { p with thsave := v % 256 } }
  | 0x0B8 => { s with power := { p with droopctl := v % 2 ^ 24 } }
  | 0x0C0 => { s with power := { p with droopidx := v % 64 } }
  | 0x0D8 => if bit v 8 then { s with firm := { s.firm with fdrop := false } } else s
  | 0x0F0 => if bit v 3 then { s with firm := { s.firm with qdrop := false } } else s
  | 0x0F8 => { s with firm := { s.firm with evring := bits v 51 12 * 4096 + v % 2 } }
  | 0x180 => if bit v 3 then { s with ident := { s.ident with isorec := setBits s.ident.isorec 3 3 0 } } else s
  | 0x188 => { s with ident := { s.ident with lnkctl := v % 2 ^ 36 } }
  | 0x190 => if bit v 32 then { s with firm := { s.firm with evfail := false } } else s
  | o => if 0x20000 ≤ o ∧ o < 0x20800 then s.writeDie (o - 0x20000) (word v) else s

/-- SPCAP of every cell by the mantles that DEVCFG shows (R94). -/
def State.setMantle (s : State) (m : Nat) : State :=
  (List.range 1024).foldl (fun s c =>
    let cap := if bit m (dieOf c) then 0x400000 else 0x200000
    if (s.core c).spcap == cap then s else s.modCore c (fun k => { k with spcap := cap })) s

/-- The identification words that the management stoker writes (R179). -/
def State.writeIdent (s : State) (n v : Nat) : State :=
  let d := s.ident
  match n with
  | 1 => { s with ident := { d with fwver := bits v 63 32 } }
  | 3 => { s with ident := { d with
      dieok := v % 256, mantle := bits v 15 8, hbmok := bits v 31 16, parksize := bits v 39 32 } }.setMantle (bits v 15 8)
  | 4 => { s with ident := { d with mgmt := bits v 18 16, hardtrip := d.hardtrip && !bit v 2 } }
  | 7 => { s with ident := { d with measgen := v % 2 ^ 32 } }
  | _ => s

/-- A context slot register's bits that are no reserved ones (R102). -/
def cxMask (r : Nat) : Word :=
  match r with
  | 0 => 0x0001FFFF0001FFFF
  | 2 => 0x07FFFFFFFFFFF000
  | _ => 0x000FFFFFFFFFF000

/-- A register of the stokers' management window written, by offset. -/
def State.writeMgmt (s : State) (o v : Nat) : State :=
  if o < 0x40 then s.writeIdent (o / 8) v
  else if 0x10000 ≤ o ∧ o < 0x10800 then
    let i := (o - 0x10000) / 8
    { s with sched := { s.sched with cx := mapSet 0 s.sched.cx i (word v &&& cxMask (i % 4)) } }
  else if 0x20000 ≤ o ∧ o < 0x20800 then s.writeDie (o - 0x20000) (word v)
  else if 0x400000 ≤ o ∧ o < 0x420000 then
    (List.range 4).foldl (fun s i =>
      { s with sched := { s.sched with
        lidmap := mapSet 0 s.sched.lidmap ((o - 0x400000) / 2 + i) (bits v (16 * i + 9) (16 * i)) } }) s
  else if inControl o && o % 0x1000 == 0x010 then
    s.modCore ((o - 0x10000000) / 0x1000) (fun k => { k with lmbase := v % 65536 })
  else s

/-- REGISTER_WRITE: a register that has no row of its own (R6, R8), of the Unulo window by offset, or of the stokers' window by
physical address. -/
def execRegisterWrite (off v : Nat) (s : State) : Step :=
  .next (if off % 8 ≠ 0 then s
    else if off < mgmtBase then s.writeHostReg off (v % 2 ^ 64)
    else s.writeMgmt (off - mgmtBase) (v % 2 ^ 64))

/-! ## HOST_ACCESS -/

/-- What the host may reach over the link: device memory, and its own memory (R98, R173). -/
def State.hostReaches (s : State) (pa n : Nat) : Bool :=
  (List.range n).all (fun i => !s.isHole (pa + i) && (regionOf (pa + i) == .hbm || regionOf (pa + i) == .park
    || regionOf (pa + i) == .host))

/-- HOST_ACCESS (R173, R284, R454): `kind` bits 1:0 give the size in bytes as a power of 2, bit 2 a write, bit 3 the Unulo
management window, at the offset `addr`, in place of physical memory. Memory accesses perform at home and see the stored bytes
(R119); a window store is the step of its register. What meets an untrained link is held until the link trains again (R285). -/
def execHostAccess (kind addr v : Nat) (s : State) : Step :=
  let n := 2 ^ (kind % 4)
  .next (if !s.hostUp then { s with firm := { s.firm with hostHeld := s.firm.hostHeld ++ [(kind, addr, v)] } }
    else if bit kind 3 then
      if bit kind 2 then
        (if n == 8 && addr % 8 == 0 && decide (addr < mgmtBase) then { s with agenda := s.agenda ++ [hostStep addr (v % 2 ^ 64)] } else s)
      else { s with firm := { s.firm with hostData := (s.hostLoad addr n).toNat } }
    else if !s.hostReaches addr n then s
    else if bit kind 2 then s.storePlain addr n v
    else { s with firm := { s.firm with hostData := s.homeNat addr n } })

end Sys2Proof.Machine
end

