-- ==== Sys2Proof/Machine/ScalarMem.lean ====
section
/-!
DEFINITION. Machine/ScalarMem.lean: memory operations of SA and SB: LD, ST, AMO and CAS on cells and stokers (R318, R319, R326,
R344 to R346, R391 to R393), QPOLL (R372) and SIGW (R386).
-/
namespace Sys2Proof.Machine

/-! ## Checks -/

/-- An uncorrectable error that a stoker's read meets (R95, R178). -/
def State.stokerUe (s : State) (pa n shown : Nat) : Option Trap :=
  if s.ueIn pa n then some (trapAt 5 (if encrypted pa then 2 else 0) shown) else none

/-- The checks of R177 on a stoker's access, with the window's own; `reads` for an access that takes a value. A store of fewer than 8 bytes to
a scratchpad reads the granule that it merges into (R393). -/
def State.stokerChecks (s : State) (a : Word) (n : Nat) (reads : Bool) : Option Trap :=
  let pa := stokerAddr s.ctx.cid a
  firstTrap [s.stokerCheckAddr a n, mgmtCheck pa n a.toNat,
    if reads || (decide (n < 8) && regionOf pa == .scratch) then s.stokerUe pa n a.toNat else none]

/-- The checks of R93 on a cell's scalar access of `n` bytes at an address operand. -/
def State.cellChecks (s : State) (g : Bool) (a : Word) (n : Nat) : Option Trap :=
  s.spCheck s.ctx.cid (addrCell s.ctx.cid g a.toNat) (addrOffset a.toNat) n n (shownAddr g a.toNat)

/-- The address checks of a scalar access, by core. -/
def State.memChecks (s : State) (g : Bool) (a : Word) (n : Nat) (reads : Bool) : Option Trap :=
  if isStoker s.ctx.cid then s.stokerChecks a n reads else s.cellChecks g a n

/-- Bytes of a W bit (R318). -/
def atomicBytes (w : BitVec 1) : Nat := if w == 1 then 8 else 4

/-- The checks at issue of the scalar memory operations in their order (R326, R344, R372, R386, R391). -/
def memCheck (i : Instr) (s : State) : Option Trap :=
  let stk := isStoker s.ctx.cid
  match i with
  | .ld _ a sz _ ord scp g =>
    firstTrap [encodingCheck (WellFormed i && !(stk && g == 1)), orderCheck (ord == 0 || ord == 1 || ord == 4) scp.toNat,
      s.memChecks (g == 1) (s.rd a) (2 ^ sz.toNat) true]
  | .st _ a sz ord scp g =>
    firstTrap [encodingCheck (!(stk && g == 1)), orderCheck (ord == 0 || ord == 2 || ord == 4) scp.toNat,
      s.memChecks (g == 1) (s.rd a) (2 ^ sz.toNat) false]
  | .amo _ a _ w ord scp =>
    firstTrap [encodingCheck (WellFormed i), orderCheck (decide (ord.toNat ≤ 4)) scp.toNat,
      s.memChecks true (s.rd a) (atomicBytes w) true]
  | .cas _ a w ords ordf scp =>
    firstTrap [encodingCheck (WellFormed i),
      orderCheck (decide (ords.toNat ≤ 4) && (ordf == 0 || ordf == 1 || ordf == 4)) scp.toNat,
      s.memChecks true (s.rd a) (atomicBytes w) true]
  | .qpoll _ _ => if stk then none else some (trapOf 3 0x00)
  | .sigw a _ =>
    if !stk then some (trapOf 3 0x00)
    else
      let pa := field (s.rd a) 51 0
      firstTrap [encodingCheck (WellFormed i),
        if !bit (s.rd a).toNat 63 || field (s.rd a) 62 52 != 0 || !(mapRow pa == 0 || mapRow pa == 1 || mapRow pa == 5 && regionOf pa == .host)
        then some (trapAt 3 0x03 (s.rd a).toNat) else none,
        if pa % 32 != 0 then some (trapAt 2 0x00 (s.rd a).toNat) else none,
        if s.isHole pa then some (trapAt 4 0x02 (s.rd a).toNat) else none]
  | _ => none

/-! ## Cells -/

/-- Where the address operand of a checked access stands. -/
def State.scalarHome (s : State) (g : Bool) (a : Word) : Nat :=
  s.spAddr s.ctx.cid (addrCell s.ctx.cid g a.toNat) (addrOffset a.toNat)

/-- A scratchpad place lies in the executing cell's own scratchpad. -/
def State.ownPlace (s : State) (pa : Nat) : Bool := spCell pa == s.ctx.cid

/-- A read of the executing instruction that waits for a device step or the end of a hold. -/
def State.pendRead (s : State) (pa : Nat) (kind : ReadKind) (hold : Option Nat) (ord ordf scp : Nat) : PendRead :=
  ⟨s.seq + 1, s.ctx.bun, s.ctx.cid, pa, kind, hold, ord, ordf, scp, s.ctx.slot, s.seq + 1, !s.ownPlace pa⟩

/-- A read or atomic joins the ordering machine: its destination is pending until it has performed, and no earlier than
cycle t + `rem` (R162, R319, R345). -/
def State.launchRead (s : State) (i : Instr) (d : BitVec 6) (r : PendRead) (rem : Nat) (fences : List Fence) : State :=
  let cnt := if r.remote then Counter.ld else .none
  let s := s.modCur (fun k => k.countUp cnt)
  let s := s.launch s.ctx.cid { s.newFlight i 3 (.scalar d.toNat) (if r.remote then 0 else rem) with
    sb := d != 0, open_ := true, free := true, cnt := cnt, parts := 1 }
  { s with reads := s.reads ++ [r], fences := s.fences ++ fences }

/-- A cell's load of `n` bytes (R345): a local one that nothing holds reads now and lands at the end of cycle t + 3. -/
def State.loadCell (s : State) (i : Instr) (d : BitVec 6) (pa n : Nat) (sext : Bool) (ord scp shown : Nat) : State :=
  let c := s.ctx.cid
  let r := s.pendRead pa (.load n sext) (orderHold ord scp) ord 0 scp
  let f := orderFence c (s.seq + 1) s.ctx.bun ord scp false
  let s := s.countBytes c c (spCell pa) n
  if !r.remote && s.mayRead r then
    let v := s.findNat c s.ctx.bun pa n
    let bad := if s.readsUe c s.ctx.bun pa n then some (s.issueCause i (trapAt 5 0x00 shown)) else none
    let q := s.seq + 1
    let s := (s.scrub pa n).launch c { s.newFlight i 3 (.scalar d.toNat) 3 with sval := loadExtend n sext v.1, fault := bad }
    { s with from_ := s.from_ ++ v.2.eraseDups.map (fun w => (⟨c, q, w⟩ : ReadFrom)), fences := s.fences ++ f }
  else s.launchRead i d r 3 f

/-- A cell's store of the low `n` bytes of a value (R392). -/
def State.storeCell (s : State) (i : Instr) (pa n : Nat) (v : Word) (ord scp : Nat) : State :=
  let c := s.ctx.cid
  let cnt := if s.ownPlace pa then Counter.none else .st
  let s := (s.countBytes c c (spCell pa) n).modCur (fun k => k.countUp cnt)
  let s := s.launch c { s.newFlight i 5 .none 0 with open_ := true, free := true, cnt := cnt, parts := 1 }
  s.store c c (bytesAt pa n v.toNat) ord scp s.seq

/-- A cell's atomic (R319): a local one lands no earlier than the end of cycle t + 4. -/
def State.atomicCell (s : State) (i : Instr) (d : BitVec 6) (pa : Nat) (kind : ReadKind) (hold : Option Nat)
    (ord ordf scp : Nat) (fences : List Fence) : State :=
  let r := s.pendRead pa kind hold ord ordf scp
  (s.countBytes s.ctx.cid s.ctx.cid (spCell pa) kind.size).launchRead i d r 4 fences

/-- The hold of a CAS before it executes: as its success order, and as an sc failure order (R166). -/
def casHold (ords ordf scp : Nat) : Option Nat := if 2 ≤ ords ∨ ordf = 4 then some scp else none

/-- Until a CAS has executed, later accesses wait where one of its outcomes would hold them (R164, R166). -/
def casFence (c seq bun ords ordf : Nat) : List Fence :=
  if ords == 1 || 3 ≤ ords || ordf == 1 || ordf == 4 then [⟨c, seq, true, true, false, true, false, bun, 0⟩] else []

/-! ## Meanings -/

/-- LD (R344 to R346). -/
def execLd (d a : BitVec 6) (sz : BitVec 2) (sx : BitVec 1) (ord scp : BitVec 3) (g : BitVec 1) (s : State) : Step :=
  let i : Instr := .ld d a sz sx ord scp g
  s.guarded i (memCheck i s) (fun s =>
    let n := 2 ^ sz.toNat
    let x := s.rd a
    let t := s.latchOp i 0 0 0
    if isStoker s.ctx.cid then
      let pa := stokerAddr s.ctx.cid x
      (t.scrub pa n).scalarPending i d 0 (loadExtend n (sx == 1) (s.stokerRead pa n))
    else t.loadCell i d (s.scalarHome (g == 1) x) n (sx == 1) ord.toNat scp.toNat (shownAddr (g == 1) x.toNat))

/-- ST (R391 to R393). -/
def execSt (d a : BitVec 6) (sz : BitVec 2) (ord scp : BitVec 3) (g : BitVec 1) (s : State) : Step :=
  let i : Instr := .st d a sz ord scp g
  s.guarded i (memCheck i s) (fun s =>
    let n := 2 ^ sz.toNat
    let x := s.rd a
    let t := s.latchOp i 0 0 0
    if isStoker s.ctx.cid then t.stokerWrite (s.ctx.cid - 1024) (stokerAddr s.ctx.cid x) n ((s.rd d).toNat % 2 ^ (8 * n))
    else t.storeCell i (s.scalarHome (g == 1) x) n (s.rd d) ord.toNat scp.toNat)

/-- AMO (R318, R319). -/
def execAmo (d a : BitVec 6) (aop : BitVec 4) (w : BitVec 1) (ord scp : BitVec 3) (s : State) : Step :=
  let i : Instr := .amo d a aop w ord scp
  s.guarded i (memCheck i s) (fun s =>
    let n := atomicBytes w
    let x := s.rd d
    let t := s.latchOp i 0 0 0
    if isStoker s.ctx.cid then
      let pa := stokerAddr s.ctx.cid (s.rd a)
      let old := s.stokerRead pa n
      ((t.scrub pa n).stokerWrite (s.ctx.cid - 1024) pa n (amoResult aop.toNat n old x.toNat)).scalarPending i d 0 (loadExtend n false old)
    else t.atomicCell i d (s.scalarHome true (s.rd a)) (.amo aop.toNat n x) (orderHold ord.toNat scp.toNat) ord.toNat 0 scp.toNat
      (orderFence s.ctx.cid (s.seq + 1) s.ctx.bun ord.toNat scp.toNat false))

/-- CAS (R326, R166). -/
def execCas (d a : BitVec 6) (w : BitVec 1) (ords ordf scp : BitVec 3) (s : State) : Step :=
  let i : Instr := .cas d a w ords ordf scp
  s.guarded i (memCheck i s) (fun s =>
    let n := atomicBytes w
    let x := s.rd d
    let y := s.rd (d + 1)
    let t := s.latchOp i 0 0 0
    if isStoker s.ctx.cid then
      let pa := stokerAddr s.ctx.cid (s.rd a)
      let old := s.stokerRead pa n
      let t := t.scrub pa n
      let t := if old == x.toNat % 2 ^ (8 * n) then t.stokerWrite (s.ctx.cid - 1024) pa n (y.toNat % 2 ^ (8 * n)) else t
      t.scalarPending i d 0 (loadExtend n false old)
    else t.atomicCell i d (s.scalarHome true (s.rd a)) (.cas n x y) (casHold ords.toNat ordf.toNat scp.toNat) ords.toNat ordf.toNat
      scp.toNat (casFence s.ctx.cid (s.seq + 1) s.ctx.bun ords.toNat ordf.toNat))

/-- The doorbell bits of queues 64w to 64w + 63 (R372). -/
def State.bellWord (s : State) (w : Nat) : Word :=
  pack ((List.range 64).map (fun i => (flag (mapGet false s.sched.bells (64 * w + i)), i)))

/-- The doorbell bits of a word cleared. -/
def State.clearBells (s : State) (w : Nat) : State :=
  { s with sched := { s.sched with bells := s.sched.bells.filter (fun p => p.1 / 64 != w) } }

/-- QPOLL (R372). -/
def execQpoll (d a : BitVec 6) (s : State) : Step :=
  let i : Instr := .qpoll d a
  s.guarded i (memCheck i s) (fun s =>
    let w := field (s.rd a) 5 0
    ((s.latchOp i 0 0 0).clearBells w).scalarPending i d 0 (s.bellWord w))

/-! ## Signals and watches -/

/-- Watch `n` fires (R285): FIRED is set, ARM cleared, and a message with its vector goes to the host. -/
def State.fireWatch (s : State) (n : Nat) : State :=
  let v := mapGet 0 s.firm.watch n
  ({ s with firm := { s.firm with
    watch := mapSet 0 s.firm.watch n ((v &&& ~~~(1 : Word)) ||| 2)
    msgs := field v 62 52 :: s.firm.msgs } } : State).sendFlit 18 3 (field v 62 52)

/-- Watch `n` is armed on an address. -/
def State.armedOn (s : State) (n pa : Nat) : Bool :=
  let v := mapGet 0 s.firm.watch n
  bit v.toNat 0 && field v 51 5 == pa / 32

/-- The watches armed on an address fire. -/
def State.fireAll (s : State) (pa : Nat) : State :=
  ((s.firm.watch.map Prod.fst).filter (fun n => s.armedOn n pa)).foldl State.fireWatch s

/-- A completion signal of four doublewords is written at home as one unit, and fires the watches on it (R386). The untrained Unulo link
holds one to host memory (R285). -/
def State.writeSignal (s : State) (pa : Nat) (words : List Nat) : State :=
  if regionOf pa == .host && !s.hostUp then { s with firm := { s.firm with sigHeld := s.firm.sigHeld ++ [(pa, words)] } }
  else (words.zipIdx.foldl (fun (s : State) p => s.storePlain (pa + 8 * p.2) 8 p.1) s).fireAll pa

/-- SIGW (R386). -/
def execSigw (a b : BitVec 6) (s : State) : Step :=
  let i : Instr := .sigw a b
  s.guarded i (memCheck i s) (fun s =>
    (s.latchOp i 0 0 0).writeSignal (field (s.rd a) 51 0)
      [(s.rd b).toNat, (s.rd (b + 1)).toNat, (s.rd (b + 2)).toNat, (s.rd (b + 3)).toNat])

end Sys2Proof.Machine
end

