-- ==== Sys2Proof/Machine/Ahead.lean ====
section
/-!
DEFINITION. Machine/Ahead.lean: the open lanes of an `.eph` producer (R62, R64, R453): those that a `.cut` consumer may still cancel,
one that has issued or one that the program ahead will issue in time to chain.
-/
namespace Sys2Proof.Machine

/-- R29 after the last execution of a bundle at `pc`: the loop stack, and the address of the next bundle. -/
def loopNext (pc next : Nat) : List LoopEntry → List LoopEntry × Nat
  | [] => ([], next)
  | e :: l =>
    if e.stop = pc then
      if e.index + 1 < e.count then ({ e with index := e.index + 1 } :: l, e.start) else loopNext pc next l
    else (e :: l, next)

/-- Where the program stands as it is read ahead: PC, executions left, the loop stack and the VEC latch. -/
structure Ahead where
  pc    : Nat
  rpt   : Nat
  loops : List LoopEntry
  vec   : Option Instr
  deriving DecidableEq, Repr

/-- What the next execution ahead does: its VEC operation and the place after it; the program ends here for chains; or its course cannot be
told ahead. -/
inductive Course where
  | on (op : Option Instr) (next : Ahead)
  | stops
  | open_
  deriving DecidableEq, Repr

/-- A present payload of the bundle at a place, decoded. -/
def State.aheadOp (s : State) (c h pc slot : Nat) : Option Instr :=
  if present h slot then (decode (slotFormat slot) (s.payload c h pc slot)).instr? else none

/-- The place after the last execution of a bundle. -/
def Ahead.after (a : Ahead) (next : Nat) (vec : Option Instr) : Ahead :=
  let r := loopNext a.pc next a.loops
  ⟨r.2 % 2 ^ 16, 0, r.1, vec⟩

/-- The next execution of core `c` at a place ahead. A bundle with IB = 1 ends every chain (R59); a transfer of control, a loop's start and a
wait leave the course open. -/
def State.courseAt (s : State) (c : Nat) (a : Ahead) : Course :=
  let h := s.codeWord c a.pc
  let next := a.pc + 1 + payloadWords h
  if !headerOk h then .stops
  else if a.rpt ≠ 0 then .on a.vec (if a.rpt = 1 then a.after next a.vec else { a with rpt := a.rpt - 1 })
  else if headerIb h then .stops
  else
    let vec := if present h 3 then (s.aheadOp c h a.pc 3).filter (· != .nopVec) else a.vec
    let go := Course.on vec (if headerRpt h = 0 then a.after next vec else { a with rpt := headerRpt h, vec := vec })
    let ring := match s.aheadOp c h a.pc 5 with
      | some (.rawait ..) => true
      | _ => false
    if present h 3 && (s.aheadOp c h a.pc 3).isNone then .stops
    else if ring then .open_
    else if !present h 0 then go
    else match s.aheadOp c h a.pc 0 with
      | none => .stops
      | some .halt => .stops
      | some (.trap _) => .stops
      | some .nopCtl => go
      | some (.drain ..) => go
      | some .handoff => go
      | some .yield => go
      | some (.call _ t) => .on vec ⟨t.toNat, 0, a.loops, vec⟩
      | _ => .open_

/-- A `.cut` consumer is to issue in one of the next `n` schedule cycles, the first of which is `cyc`, and to chain to a producer that
issued, or is to issue, in one of the cycles `heads`, directly or through further `.eph` operations (R59, R64). -/
def State.cutAhead (s : State) (c : Nat) : Nat → Nat → Ahead → List Nat → Bool
  | 0, _, _, _ => false
  | n + 1, cyc, a, heads =>
    let heads := heads.filter (fun p => decide (cyc ≤ p + 15))
    if heads.isEmpty then false
    else match s.courseAt c a with
      | .stops => false
      | .open_ => true
      | .on op next =>
        match op.bind vaParts with
        | none => s.cutAhead c n (cyc + 1) next heads
        | some (o, f) =>
          let p := cyc - f.distance
          if f.chs = 0 || !heads.contains p then s.cutAhead c n (cyc + 1) next heads
          else if f.cut = 1 && (o == .vcmp || o == .vthr) then true
          else s.cutAhead c n (cyc + 1) next ((if f.eph = 1 then [cyc] else []) ++ heads.filter (· != p))

/-- A consumer may still chain to an operation of number `seq` that issued in schedule cycle `icyc`: it has none, its latency has not
passed, and no bundle with IB = 1 has issued since (R59). -/
def Core.chainOpen (k : Core) (seq icyc : Nat) (i : Instr) (fmt : Word) : Bool :=
  match vaParts i with
  | none => false
  | some (op, f) =>
    k.st != .halted && k.st != .stopped && !k.hasConsumer seq && decide (k.cyc + 1 ≤ icyc + vaLatency op (vaFormat f fmt))
      && decide (k.lastIb ≤ icyc + 1)

/-- The program ahead cancels lanes of an operation that issued in schedule cycle `icyc`; a waiting or held cell's course is open
(log 54). -/
def State.cutToCome (s : State) (c icyc : Nat) : Bool :=
  let k := s.core c
  if k.st != .run then k.st == .wait || k.st == .hold
  else s.cutAhead c 64 (k.cyc + 1) ⟨k.pc, k.rptLeft, k.loops, (k.latch 3).op⟩ [icyc]

/-- A waiting operation is an `.eph` producer, and so may pass a cancellation on. -/
def Waiting.passes (w : Waiting) : Bool :=
  match vaParts w.op with
  | some (op, f) => f.eph == 1 && vaProduces op (vaFormat f w.cap.fmt)
  | none => false

/-- A waiting operation carries `.cut`. -/
def Waiting.cuts (w : Waiting) : Bool :=
  match vaParts w.op with
  | some (op, f) => vaSerial op (vaFormat f w.cap.fmt) && f.cut == 1
  | none => false

/-- A waiting `.eph` operation of number `n` may still lose lanes: a `.cut` consumer waits behind it, or is to come. -/
def State.queuedCut (s : State) (c : Nat) : Nat → Waiting → Bool
  | 0, _ => false
  | fuel + 1, w =>
    let k := s.core c
    match k.queue.find? (fun v => v.chain == some w.seq) with
    | some v => v.cuts || (v.passes && s.queuedCut c fuel v)
    | none => k.chainOpen w.seq w.icyc w.op w.cap.fmt && s.cutToCome c w.icyc

/-- The lanes of a result that are open: a `.cut` consumer is still to decide them, its own or one further down its chain. Of a consumer that
has not started no lane's activity is known yet (R62, R64, R453). -/
def State.openLanes (s : State) (c : Nat) : Nat → Flight → List Bool
  | 0, f => f.lanes.map (fun _ => false)
  | fuel + 1, f =>
    let k := s.core c
    match k.flights.find? (fun g => g.chain == some f.seq), k.queue.find? (fun w => w.chain == some f.seq) with
    | some g, _ =>
      if g.cutc then f.lanes.map (fun x => x.mark && !x.dec)
      else if g.eph then (g.lanes.zip (s.openLanes c fuel g)).map (fun p => p.1.act && p.2)
      else f.lanes.map (fun _ => false)
    | none, some w => let b := w.cuts || (w.passes && s.queuedCut c 65 w); f.lanes.map (fun _ => b)
    | none, none => let b := k.chainOpen f.seq f.icyc f.op f.fmt && s.cutToCome c f.icyc; f.lanes.map (fun _ => b)

end Sys2Proof.Machine
end

