-- ==== Sys2Proof/Machine/Cycle.lean ====
section
/-!
DEFINITION. Machine/Cycle.lean: what a cycle of a core does beside issuing: late starts (R36), lane decisions (R62 to R64, R453),
results landing (R32, R33, R43, R70, R71, R214), and the two kinds of cycle: a schedule cycle and a frozen one (R32).
-/
namespace Sys2Proof.Machine

/-! ## Lane decisions (R62 to R64, R453) -/

/-- Lanes decided in the results of a producer and of the `.eph` producers upstream of it (R64). A lane to be cancelled forms no digit after
the present cycle (R63). -/
def Core.decideChain (pick : Nat → Bool) : Nat → Core → Option Nat → Core
  | 0, k, _ => k
  | _, k, none => k
  | n + 1, k, some seq =>
    match k.flights.find? (fun f => f.seq == seq) with
    | none => k
    | some f =>
      if f.eph then
        Core.decideChain pick n
          (k.setLanes seq (f.lanes.zipIdx.map (fun p =>
            if pick p.2 && !p.1.dec then { p.1 with dec := true, len := if p.1.cut then f.digits (k.cyc + 1) else p.1.len } else p.1))) f.chain
      else k

/-- The digit of its producer that a chained consumer reads in the present schedule cycle (R59). -/
def Flight.readsDigit (f : Flight) (cyc : Nat) : Nat := cyc + 1 - f.start

/-- A lane that a `.cut` consumer decides once it has read `j` digits (R63). -/
def LaneRes.early (j : Nat) (x : LaneRes) : Bool := x.act && !x.dec && decide (x.at_ ≤ j)

/-- What a started `.cut` consumer decides in the present schedule cycle: the lanes whose digits read so far decide them, and with the
guard digit every lane still open (R63, R453). -/
def Core.decideBy (k : Core) (f : Flight) : Core :=
  if !f.cutc || f.landed then k
  else if f.rem == 1 then Core.decideChain (fun _ => true) 65 k f.chain
  else
    match f.chain.bind (fun n => k.flights.find? (fun p => p.seq == n && p.eph)) with
    | none => k
    | some p =>
      let j := f.readsDigit k.cyc
      if p.lanes.any (LaneRes.early j) then
        let now := p.lanes.map (LaneRes.early j)
        Core.decideChain (fun l => now.getD l false) 65 k f.chain
      else k

/-- The lanes of a result past its write cycle that no `.cut` consumer is to decide are kept (R62, R453). -/
def State.closeLanes (s : State) (c seq : Nat) : State :=
  match (s.core c).flights.find? (fun f => f.seq == seq) with
  | none => s
  | some f =>
    s.modCore c (fun k => k.setLanes seq ((f.lanes.zip (s.openLanes c 65 f)).map (fun p => if p.2 then p.1 else { p.1 with dec := true })))

/-- The decisions of a schedule cycle: those of the `.cut` consumers, and the lanes kept of the producers whose write cycle has come (R62, R63,
R453). -/
def State.decideLanes (s : State) (c : Nat) : State :=
  let s := s.modCore c (fun k => k.flights.foldl (fun k f => k.decideBy f) k)
  (s.core c).flights.foldl (fun s f => if f.eph && (f.rem == 0 || f.heldw) && !f.landed then s.closeLanes c f.seq else s) s

/-- The producer of a started `.cut` consumer in which the digits read decide lane `l`. -/
def Core.openProducer (k : Core) (l : Nat) : Option Nat :=
  (k.flights.filter (fun f => f.cutc && !f.landed)).findSome? (fun f =>
    f.chain.bind (fun n => (k.flights.find? (fun p => p.seq == n && p.eph)).bind (fun p =>
      (p.lanes[l]?).bind (fun x => if x.early (f.readsDigit k.cyc) then some n else none))))

/-- EPH_LANE_DECIDE: a `.cut` consumer decides one lane of its producer, and with it the lanes upstream, once the digits that it has read
let it (R63, R64). -/
def execEphLaneDecide (cid lane : Nat) (s : State) : Step :=
  .next (match (s.core cid).openProducer lane with
    | none => s
    | some n => s.modCore cid (fun k => Core.decideChain (fun l => l == lane) 65 k (some n)))

/-- Cancelled lanes that have been decided count, and set VSTAT.CUT, once (R62, R64). -/
def State.reapCancelled (s : State) (c : Nat) : State :=
  let gone (x : LaneRes) : Bool := x.act && x.cut && x.dec && !x.out
  let n := (s.core c).flights.foldl (fun n f => if f.eph then n + f.lanes.countP gone else n) 0
  if n = 0 then s
  else (s.modCore c (fun k => { k with
      vstat := k.vstat ||| flagCut.zeroExtend 64
      flights := k.flights.map (fun f =>
        if f.eph then { f with lanes := f.lanes.map (fun x => if gone x then { x with out := true } else x) } else f) })).count c 0x0D n

/-! ## Results landing -/

/-- A predicate with lanes written. -/
def setLanesOf (p : Pred) (l : List (LaneRes × Nat)) : Pred :=
  l.foldl (fun q x =>
    let b : Pred := BitVec.ofNat 128 (2 ^ x.2)
    if x.1.val.getLsbD 0 then q ||| b else q &&& ~~~b) p

/-- The lanes of a result that a condition picks are written in the engine's own cell (R43, R75). -/
def State.writeLanes (s : State) (f : Flight) (pick : LaneRes → Bool) : State :=
  let l := f.lanes.zipIdx.filter (fun p => p.1.act && pick p.1)
  match f.dest with
  | .vector r => s.modCore f.eng (fun k => l.foldl (fun k p => k.setLane r p.2 p.1.val) k)
  | .vecScalar r _ => s.modCore f.eng (fun k => l.foldl (fun k p => k.setLane r p.2 p.1.val) k)
  | .pred r => s.modCore f.eng (fun k => k.setPred r (setLanesOf (k.pred r) l))
  | _ => s

/-- The AR stop that the flags of an operation raise under its captured FMT (R70, R209). -/
def Flight.arCause (f : Flight) (c : Nat) (fl : Flags) : Option Cause :=
  (arDetail (fl &&& trapMask f.fmt)).map (fun d =>
    lateCause f.seq f.eng f.ipc f.slot f.op ⟨6, d.toNat, fl.toNat, none⟩ (f.eng != c))

/-- Flags set at a write. -/
def State.setFlags (s : State) (c : Nat) (fl : Flags) : State :=
  if fl = flagNone then s else s.modCore c (fun k => { k with vstat := k.vstat ||| fl.zeroExtend 64 })

/-- Effects of a result in the issuing cell: scalar destination, collective status, token, counter, and a fault found on the way
(R43, R123, R159, R214). A failed operation writes nothing but a done register (R132). -/
def Flight.toIssuer (f : Flight) (k : Core) : Core :=
  let good := match f.fault with
    | none => true
    | some x => x.cls == 6
  let k := match f.dest with
    | .scalar r => if good || f.cnt == Counter.cp then k.setReg r f.sval else k
    | .vecScalar _ r => if good then k.setReg r f.sval else k
    | _ => k
  let k := match f.op with
    | .xcoll .. => { k with coll := f.fmt, vstat := if good then k.vstat ||| f.flags.zeroExtend 64 else k.vstat }
    | _ => k
  let k := (k.complete f.tok f.seq (!good)).countDown f.cnt
  match f.fault with
  | none => k
  | some x => k.addLate x

/-- A result leaves the list of those in flight. -/
def Core.dropFlight (k : Core) (n : Nat) : Core := { k with flights := k.flights.filter (fun f => f.seq != n) }

/-- The chained consumers that still wait keep a written producer's lanes (R60, R61). -/
def Core.giveLanes (k : Core) (f : Flight) : Core :=
  { k with queue := k.queue.map (fun w => if w.chain == some f.seq then { w with given := f.lanes } else w) }

/-- The done register of a transfer is written, or its token completes: its writes count from here on as writes of the cell (R160, R170). -/
def State.ownWrites (s : State) (c : Nat) (f : Flight) : State :=
  if f.cnt == .cp then
    { s with
      seq := s.seq + 1
      writes := s.writes.map (fun w => if w.cid == c && w.tran == f.seq && w.slot == 5 then { w with slot := 7, seq := s.seq + 1 } else w) }
  else s

/-- The effects of a result reach the issuing cell, and it is no longer in flight (R43, R71). -/
def State.arrive (s : State) (c : Nat) (f : Flight) : State :=
  (s.modCore c (fun k => (f.toIssuer k).dropFlight f.seq)).ownWrites c f

/-- A result is written for good: its effects reach the issuing cell now, or after the skew of R43. `x` is an AR stop that its
last write raises. A fault found on the cell's own engine takes no skew (R95, R204, R214). -/
def State.closeFlight (s : State) (c : Nat) (f : Flight) (x : Option Cause) : State :=
  let own := f.eng == c
  let now := if f.skewl != 0 && own then x else none
  let f := match (if now.isSome then none else x) with
    | none => f
    | some y => { f with fault := some y }
  let s := s.modCore c (fun k =>
    let k := k.giveLanes f
    match now with
    | none => k
    | some y => k.addLate y)
  if f.skewl = 0 ∨ (own ∧ f.fault.isSome) then s.arrive c f
  else s.modCore c (fun k => k.modFlight f.seq (fun g => { g with landed := true, fault := f.fault }))

/-- The flags of a whole result: those of the operation and those of its lanes (R70). -/
def Flight.allFlags (f : Flight) : Flags :=
  f.flags ||| unionFlags ((f.lanes.filter LaneRes.act).map LaneRes.fl)

/-- A result without held lanes lands: register, flags, then its effects in the issuing cell. -/
def State.landWhole (s : State) (c : Nat) (f : Flight) : State :=
  if f.fault.isSome ∨ f.kind = 3 then s.closeFlight c f none
  else ((s.writeLanes f (fun _ => true)).setFlags c f.allFlags).closeFlight c f (f.arCause c f.allFlags)

/-- An `.eph` producer at or past its write cycle: its decided, kept lanes are written with their flags, and it stays in flight
while lanes are open (R453). -/
def State.landEph (s : State) (c : Nat) (f : Flight) : State :=
  let now (x : LaneRes) : Bool := x.act && x.dec && !x.cut && !x.out
  let fl := unionFlags ((f.lanes.filter now).map LaneRes.fl)
  let lanes := f.lanes.map (fun x => if now x then { x with out := true } else x)
  let s := (s.writeLanes f now).setFlags c fl
  if lanes.all (fun x => !x.act || x.out) then s.closeFlight c { f with lanes := lanes } (f.arCause c fl)
  else s.modCore c (fun k =>
    let k := k.modFlight f.seq (fun g => { g with lanes := lanes, heldw := true })
    match f.arCause c fl with
    | none => k
    | some x => k.raise (if f.eng = c then 0 else f.skewl) x)

/-- One result of a core at the end of a schedule cycle (R32, R43). -/
def State.tickFlight (s : State) (c n : Nat) : State :=
  match (s.core c).flights.find? (fun f => f.seq == n) with
  | none => s
  | some f =>
    if f.landed then
      (if f.skewl ≤ 1 then s.arrive c f
      else s.modCore c (fun k => k.modFlight n (fun g => { g with skewl := g.skewl - 1 })))
    else if f.rem ≠ 0 then s.modCore c (fun k => k.modFlight n (fun g => { g with rem := g.rem - 1 }))
    else if f.open_ then s
    else if f.eph && f.fault.isNone then s.landEph c f
    else s.landWhole c f

/-- The result is written in the engine's own cell now: its latency has passed, or a held lane has just been decided (R43, R453). -/
def Flight.atEngine (f : Flight) : Bool :=
  !f.landed && f.rem == 0 && !f.open_ && f.fault.isNone && (!f.eph || f.lanes.any (fun x => x.act && x.dec && !x.cut && !x.out))

/-- Its effects reach the issuing cell now: with that write, or after the skew of its slot (R43). A done register is written by a failed
transfer too (R132). -/
def Flight.atIssuer (f : Flight) : Bool :=
  (if f.landed then decide (f.skewl ≤ 1) else f.rem == 0 && !f.open_ && decide (f.skewl = 0))
    && (f.fault.isNone || f.cnt == .cp || (match f.fault with
      | some x => x.cls == 6
      | none => true))

/-- The registers that a result writes now, by class and index. -/
def Flight.writesNow (f : Flight) (c : Nat) : List (Nat × Nat × Nat) :=
  let scalar (r : Nat) : List (Nat × Nat × Nat) := if f.atIssuer && r != 0 then [(0, c, r)] else []
  match f.dest with
  | .scalar r => scalar r
  | .vector r => if f.atEngine then [(1, f.eng, r)] else []
  | .vecScalar v r => (if f.atEngine then [(1, f.eng, v)] else []) ++ scalar r
  | .pred r => if f.atEngine && r != 0 then [(2, f.eng, r)] else []
  | .none => []

/-- The results of a core at the end of a schedule cycle, in issue order, with the collisions of R33 counted. -/
def State.landAll (s : State) (c : Nat) : State :=
  let fs := (s.core c).flights
  let w := fs.flatMap (fun f => f.writesNow c)
  let s := s.count c 0x0B (w.length - w.eraseDups.length)
  fs.foldl (fun s f => s.tickFlight c f.seq) s

/-- Results that the device completes land in a cycle in which the schedule stands still (R32, R135, R175). -/
def State.landFree (s : State) (c : Nat) : State :=
  ((s.core c).flights.filter (fun f => f.free)).foldl (fun s f => s.tickFlight c f.seq) s

/-! ## Stores at the end of a cycle -/

/-- The local stores of a cell that nothing holds perform, oldest first (R150, R156). -/
def State.settleLocal (s : State) (c : Nat) : State :=
  s.writes.foldl (fun s w => if w.cid == c && s.goesHome w && !s.behindVec w then s.reachHome w else s) s

/-! ## Late starts (R36) -/

/-- A cycle of an operation's way to its engine (R43). -/
def Waiting.travel (w : Waiting) : Waiting := { w with way := w.way - 1 }

/-- A waiting operation at the end of a schedule cycle: one nearer to its scheduled start, or later. -/
def Waiting.tick (w : Waiting) : Waiting :=
  if w.held then w else if w.due = 0 then { w with late := w.late + 1 } else { w with due := w.due - 1 }

/-- The operation's lateness has reached its slack (R36). -/
def Waiting.exhausted (w : Waiting) : Bool := !w.held && w.due == 0 && decide (w.slack < w.late)

/-- The cell is frozen by a late operation, or by a replayed K-step beyond the slack (R36, R272). -/
def Core.lateFrozen (k : Core) : Bool := k.replay != 0 || k.queue.any Waiting.exhausted

/-- The heads of the buffers start where they may, at the beginning of a schedule cycle. -/
def State.startHeads (s : State) (c : Nat) : State := ((s.tryVec c).tryMat c).tryXfr c

/-- A head of a slot's buffer starts where it may. -/
def State.tryOp (s : State) (c : Nat) (w : Waiting) : State :=
  match w.slot with
  | 3 => s.tryVecOp c w true
  | 4 => s.tryMatOp c w
  | _ => if s.mayStartXfr c w then s.startXfr c w else s

/-- The MAT operations of a cell that a late one has completed, itself among them, land in the present cycle. -/
def Core.freeDone (k : Core) : Core :=
  { k with flights := k.flights.map (fun f =>
      if f.slot == 4 && f.kind != 2 && !f.open_ && f.rem == 0 && !f.landed then { f with free := true } else f) }

/-- What an operation that counts as having started in the last schedule cycle does in it: a cycle of its latency passes, and a
matrix operation begins where it may. Flags that a step set which a late MABORT takes back stay in VSTAT (log 81: DESIGN CHOICE). -/
def State.catchUp (s : State) (c seq : Nat) : State :=
  let s := s.modCore c (fun k => k.modFlight seq (fun f =>
    if f.free then f else if f.rem = 0 ∧ !f.open_ then { f with free := true } else { f with rem := f.rem - 1 }))
  let s := s.dropAborted
  match s.mat.find? (fun m => m.owner == c && m.seq == seq) with
  | none => s
  | some m =>
    if s.mayBegin m then
      let s := s.beginMat m
      match s.mat.find? (fun m => m.owner == c && m.seq == seq) with
      | none => s
      | some m => if m.onArray then s.modMat c seq MatOp.tickArray else s.tickPort m
    else s

/-- A waiting operation may start in a frozen cycle: it froze the cell, or is a late vector access for which a scalar access waits (R156). -/
def Waiting.mayThaw (w : Waiting) (access : Bool) : Bool :=
  w.exhausted || (access && !w.held && w.due == 0 && w.slot == 3 && decide (0 < w.late))

/-- The registers of an engine as they stood in the last schedule cycle (R33, R36). -/
def Core.rewind (k : Core) : Core := { k with v := k.oldV, p := k.oldP, a := k.oldA, kdone := k.oldDone }

/-- The tile that the start of an operation as of the last schedule cycle has changed: one that it zeroes, or whose aborted step it takes back
(R355, R368). `cut` says that it aborted an operation. -/
def lateTile (i : Instr) (cut : Bool) : Option Nat :=
  match i with
  | .mzero t _ => some t.toNat
  | .mabort t _ => if cut then some t.toNat else none
  | _ => none

/-- The registers of an engine once an operation has started as of the last schedule cycle; `q` is the engine before. -/
def Core.forward (k q : Core) (i : Instr) (cut : Bool) : Core :=
  { k with
    v := q.v
    p := q.p
    a := match lateTile i cut with
      | none => q.a
      | some t => (q.setTile t (k.tile t)).a
    kdone := match lateTile i cut with
      | none => q.kdone
      | some t => mapSet 0 q.kdone t (mapGet 0 k.kdone t) }

/-- A head of a slot's buffer that holds the cell frozen starts if it can, as of the last schedule cycle (R36). -/
def State.lateStartOp (s : State) (c : Nat) (access : Bool) (w : Waiting) : State :=
  if !w.mayThaw access then s
  else
    let k0 := s.core c
    let q0 := s.core w.eng
    let cut := s.mat.any (fun m => m.onArray && !m.away && m.eng == w.eng && m.tile == tileOf w.op)
    let s := ((s.modCore w.eng Core.rewind).modCore c (fun k => { k with cyc := k.cyc - 1, skewOut := [] })).tryOp c w
    let waits := (s.core c).queue.any (fun q => q.seq == w.seq)
    let s := if waits then s else s.catchUp c w.seq
    let s := s.modCore w.eng (fun k => k.forward q0 (if waits then .nopMat else w.op) cut)
    s.modCore c (fun k => { k.freeDone with
      cyc := k0.cyc, skewOut := if waits then k0.skewOut else mapSet 0 k0.skewOut (startKey w.slot w.eng) k0.cyc })

/-- The heads of a slot's buffer that hold the cell frozen start where they can. -/
def State.lateStart (s : State) (c slot : Nat) (access : Bool) : State :=
  ((s.core c).heads slot).foldl (fun s w => s.lateStartOp c access w) s

/-- LATE_OPERATION_START: the late operation of a slot that freezes its cell starts (R36, R61, R123). -/
def execLateOperationStart (cid slot : Nat) (s : State) : Step := .next (s.lateStart cid slot false)

/-! ## What an operation waits for -/

/-- Operations of the VEC and MAT slots of a cell, numbered below `n`, that have still to access memory. -/
def State.accessesBefore (s : State) (c n : Nat) : List Nat :=
  ((s.core c).queue.filter (fun w => !w.held && (isRead w.op || isVecStore w.op) && decide (w.seq < n))).map Waiting.seq
    ++ (s.mat.filter (fun m => m.owner == c && !m.away && (m.reads || m.stores) && decide (m.seq < n))).map MatOp.seq

/-- The producers of a list that are outstanding. -/
def Core.outstanding (k : Core) (l : List (Nat × Nat)) : List Nat :=
  (l.filter (fun p => k.prods.any (fun q => q.tok == p.1 && q.seq == p.2))).map Prod.snd

/-- The operations of the cell for which a waiting one waits: producers of its tokens and of its chain, the oldest of its slot on its engine, and
what its order, its queue or its place needs (R36, R61, R123, R150, R156, R349, R379). -/
def State.waitsFor (s : State) (c : Nat) (w : Waiting) : List Nat :=
  let k := s.core c
  k.outstanding w.toks ++ (if k.chainReady w then [] else w.chain.toList)
    ++ ((k.heads w.slot).filter (fun h => h.eng == w.eng && h.seq != w.seq)).map Waiting.seq
    ++ (if w.slot == 3 && !(s.inOrder c w && s.storeRoom c w) || w.op matches .rrel .. then s.accessesBefore c w.seq else [])
    ++ (if w.slot == 4 && !s.matRoom w.eng then (s.mat.filter (fun m => m.owner == c && m.eng == w.eng && !m.begun)).map MatOp.seq else [])
    ++ (match w.op with
      | .xstart xs _ _ _ _ => (s.xfers.filter (fun p => p.1 == xferKey w.eng xs.toNat && p.2.busy && p.2.owner == c)).map (fun p => p.2.seq)
      | .xstep xs _ _ => (s.xfers.filter (fun p => p.1 == xferKey w.eng xs.toNat && p.2.busy && p.2.owner == c)).map (fun p => p.2.seq)
      | _ => [])

/-- The operations for which an operation of number `seq` waits. -/
def State.dependsOn (s : State) (c seq : Nat) : List Nat :=
  let k := s.core c
  match k.queue.find? (fun w => w.seq == seq), k.flights.find? (fun f => f.seq == seq) with
  | some w, _ => if w.held then [] else s.waitsFor c w
  | none, none => []
  | none, some f =>
    if !f.open_ then []
    else if f.slot == 5 then
      (s.xfers.filter (fun p => p.2.busy && p.2.owner == c && p.2.seq == seq)).flatMap (fun p =>
          k.outstanding p.2.toks ++ (if p.2.started then [] else s.accessesBefore c seq))
        ++ (s.collects.filter (fun m => m.owner == c && m.seq == seq)).flatMap (fun m =>
          k.outstanding m.toks ++ (if m.started then [] else s.accessesBefore c seq))
    else if f.slot == 4 then (s.mat.filter (fun m => m.owner == c && m.eng == f.eng && decide (m.seq < seq))).map MatOp.seq ++ s.accessesBefore c seq
    else s.accessesBefore c seq

/-- A list of operations with all those that they wait for, directly and through others. -/
def State.closure (s : State) (c : Nat) : Nat → List Nat → List Nat
  | 0, l => l
  | n + 1, l =>
    let m := (l ++ l.flatMap (s.dependsOn c)).eraseDups
    if m.length = l.length then l else s.closure c n m

/-- An access of the cell is on its way through the device: one may perform or move on, or waits for a link or a migration. -/
def State.accessMoves (s : State) (c : Nat) : Bool :=
  s.reads.any (fun r => r.cid == c && (s.mayRead r || s.waitsMove c r.addr false || s.linkHeld c r.addr))
    || s.writes.any (fun w => w.cid == c && (w.place != .queue || (s.mayAdvance w && !s.behindVec w)
          || w.bytes.any (fun p => s.waitsMove c p.1 w.ofEngine || s.linkHeld w.origin p.1)))

/-- The device has work under way on an operation of the cell, which ends in frozen cycles too (R32). -/
def State.deviceMoves (s : State) (c seq : Nat) : Bool :=
  let k := s.core c
  match k.queue.find? (fun w => w.seq == seq), k.flights.find? (fun f => f.seq == seq) with
  | some w, _ => !w.held && (decide (0 < w.way) || (w.due == 0 &&
      (s.arrivedFirst c w || !s.reachesEngine c w || s.meetsMove c w
        || (((w.slot == 3 && !s.storeRoom c w) || w.op matches .rrel ..) && s.accessMoves c))))
  | none, none => false
  | none, some f =>
    if f.landed then false
    else if !f.open_ then f.free
    else if f.slot == 5 then
      (match f.op with
        | .invr .. => true
        | _ => false)
        || s.xfers.any (fun p => p.2.busy && p.2.owner == c && (p.2.seq == seq || p.2.steps.any (fun q => q.2.2 == seq))
            && (if p.2.started then !p.2.waitsStep else p.2.killed || (s.recordReady (s.xferAt p.1)) || s.accessMoves c))
        || s.collects.any (fun m => m.owner == c && m.seq == seq && (m.started || s.accessMoves c))
    else s.accessMoves c

/-- One of a list of operations waits for the device, itself or through what it waits for. -/
def State.deviceBound (s : State) (c : Nat) (l : List Nat) : Bool := (s.closure c 64 l).any (s.deviceMoves c)

/-! ## The two kinds of cycle -/

/-- The end of a schedule cycle for a core's registers: writes of the sequencer take effect, and every wait and lateness moves
on. -/
def Core.endTick (k : Core) : Core :=
  let k := k.tickPending
  { k.tickSoon with cyc := k.cyc + 1, rcyc := k.rcyc + 1, banks := [], queue := k.queue.map (fun w => w.tick.travel) }

/-- The banks of the engines that serve a cell are free again. -/
def State.freeBanks (s : State) (c : Nat) : State :=
  [3, 4, 5].foldl (fun s slot =>
    let e := s.engine c slot
    if (s.core e).banks.isEmpty then s else s.modCore e (fun k => { k with banks := [] })) s

/-- The registers of the engines that serve a cell are noted as they stand before the writes of a schedule cycle (R36). -/
def State.remember (s : State) (c : Nat) : State :=
  if isStoker c then s
  else ([c, s.engine c 3, s.engine c 4].eraseDups).foldl (fun s e =>
    s.modCore e (fun k => { k with oldV := k.v, oldP := k.p, oldA := k.a, oldDone := k.kdone })) s

/-- The end of a schedule cycle of core `c` (R32, R33, R70, R352, R453). A flag that an operation sets in the cycle in which an MTSR clears
it is set first and then cleared (log 68: DESIGN CHOICE). -/
def State.endCycle (s : State) (c : Nat) : State :=
  let s := (s.remember c).beginMats c
  let s := s.releaseReads c
  let s := s.tickMats c
  let s := s.settleLocal c
  let s := s.reapStores c
  let s := if (s.core c).matLate = 0 || s.mat.any (fun m => m.owner == c) then s else s.modCore c (fun k => { k with matLate := 0 })
  let s := s.decideLanes c
  let s := s.reapCancelled c
  let s := s.landAll c
  let s := ((s.modCore c Core.endTick).freeBanks c).freeHeld c
  ((s.count c 0x01 1).count c 0x02 1).dropFences

/-- The event that counts a cycle of a hold (R227). -/
def holdEvent (waitk : Nat) : Nat :=
  match waitk with
  | 5 => 0x07
  | 6 => 0x05
  | 7 => 0x09
  | 8 => 0x06
  | _ => 0x08

/-- The core shows a hold; a wait goes on under its own code (R31, R45). A budget hold adds nothing to the run of frozen cycles, and a cycle of
a wait breaks it (R201). -/
def Core.showHold (k : Core) (waitk : Nat) : Core :=
  let k := if k.st == .wait then { k with holdCyc := 0 } else if waitk = 7 then k else { k with holdCyc := k.holdCyc + 1 }
  if k.st == .run || k.st == .hold then { k with st := .hold, waitk := waitk } else k

/-- One schedule cycle of those operations of a cell on which the late operation depends: they advance with it (R32, R36; log 6). -/
def State.advanceOps (s : State) (c : Nat) (l : List Nat) : State :=
  if l.isEmpty then s
  else
    let on (n : Nat) : Bool := l.contains n
    let mats := s.mat.any (fun m => m.owner == c && on m.seq)
    let s := (s.core c).queue.foldl (fun s w =>
      if on w.seq && !w.exhausted && ((s.core c).heads w.slot).any (fun h => h.seq == w.seq) then s.tryOp c w else s) s
    let s := if mats then (s.beginMats c).tickMats c else s
    let s := s.modCore c (fun k => { k with
      queue := k.queue.map (fun w => if on w.seq then { w with due := w.due - 1 } else w)
      flights := k.flights.map (fun f => if on f.seq && !f.free then { f with start := f.start - 1 } else f) })
    let s := (s.decideLanes c).reapCancelled c
    ((s.core c).flights.filter (fun f => on f.seq && !f.free)).foldl (fun s f => s.tickFlight c f.seq) s

/-- A frozen cycle of core `c` (R32): of its own operations only the late one that freezes it goes on, with those that it waits for, and with
`access` the late vector accesses for which a scalar access waits; the device's steps and the results that they complete go on too. -/
def State.frozenCycle (s : State) (c waitk : Nat) (access : Bool := false) : State :=
  let s := s.modCore c (fun k => k.showHold waitk)
  let s := if waitk = 6 then [3, 4, 5].foldl (fun s slot => s.lateStart c slot access) s else s
  let late := ((s.core c).queue.filter Waiting.exhausted).map Waiting.seq
  let s := if waitk = 6 then s.advanceOps c ((s.closure c 64 late).filter (fun n => !late.contains n)) else s
  let s := if waitk = 6 then s.modCore c (fun k => { k with replay := k.replay - 1 }) else s
  let s := s.releaseReads c
  let s := s.settleLocal c
  let s := s.reapStores c
  let s := s.landFree c
  let s := (s.modCore c (fun k => { k with
    rcyc := if k.rcyc = 0 then 0 else k.rcyc + 1, banks := [], queue := k.queue.map Waiting.travel })).freeBanks c
  (((s.count c 0x02 1).count c 0x04 1).count c (holdEvent waitk) 1).dropFences

/-- A cycle of a hold that the cell's own work ends: it passes as a schedule cycle (log 6). -/
def State.heldCycle (s : State) (c waitk : Nat) : State :=
  let first := (s.core c).rcyc == 0
  let s := (s.modCore c (fun k => k.showHold waitk)).endCycle c
  let s := if first then s.modCore c (fun k => { k with rcyc := 0 }) else s
  (s.count c 0x04 1).count c (holdEvent waitk) 1

/-- A throttle freezes the cell in this cycle of its window of 16 (R261). -/
def State.throttled (s : State) (c : Nat) : Bool :=
  !isStoker c && decide (mapGet 16 s.power.kmin c ≤ s.beat % 16)

/-- Once every cell of a team that is no donor has halted, the transfers of a cell that wait only for XSTEP are killed (R133). -/
def State.killWaiting (s : State) (c : Nat) : State :=
  match s.teamOf c with
  | none => s
  | some t =>
    if t.workers.all (fun q => (s.core q).st == .halted) then
      { s with xfers := s.xfers.map (fun p => if p.2.owner == c && p.2.waitsStep then (p.1, { p.2 with killed := true }) else p) }
    else s

/-- OPERATION_RESULT_WRITE: a cycle of a core that issues nothing more: a halted cell's operations go on in its schedule, and
those of a core that is stopped, or not begun, where the device completes them (R32, R71, R135, R338). -/
def execOperationResultWrite (cid : Nat) (s : State) : Step :=
  .next (match (s.core cid).st with
    | .halted => if s.throttled cid then s.frozenCycle cid 7 else ((s.startHeads cid).endCycle cid).killWaiting cid
    | .run => s
    | .wait => s
    | .hold => s
    | _ => s.landFree cid)

end Sys2Proof.Machine
end

