-- ==== Sys2Proof/Machine/Image.lean ====
section
/-!
DEFINITION. Machine/Image.lean: the context image (R72, R217, R218, R455): what it holds byte by byte, writing it, reading it
back, and when a context may leave its cell.
-/
namespace Sys2Proof.Machine

/-! ## What an image holds -/

/-- A field of an image: offset, width in bytes, value. -/
abbrev Piece := Nat × Nat × Nat

/-- Bytes of an image (R217). -/
def imageSize : Nat := 0x90000

/-- A latch at an offset (R455). -/
def latchPieces (at_ : Nat) (p : Nat × Latch) : List Piece :=
  let o := at_ + 16 * (p.1 - 1)
  [(o, 8, (p.2.op.map payloadOf).getD 0), (o + 8, 4, p.2.addr), (o + 12, 4, p.2.k0)]

/-- The scalar operands of an elastic-buffer record (R455). -/
def Waiting.operands (w : Waiting) : Nat :=
  match w.op with
  | .vld _ | .vst _ | .vgth _ | .vsct _ | .vthr _ | .vbcst _ | .mldacc _ | .mstacc _ | .xstart .. => w.x0
  | .mma _ | .mmas _ => w.x0 + w.x2 * 2 ^ 32 + w.x1 * 2 ^ 64
  | _ => 0

/-- The eight captured registers at an offset (R217). -/
def Capture.pieces (c : Capture) (at_ : Nat) : List Piece :=
  [c.fmt, c.sc0, c.sc1, c.sc2, c.sc3, c.swz, c.unf0, c.unf1].zipIdx.map (fun p => (at_ + 8 * p.2, 8, p.1.toNat))

/-- The records of one elastic buffer (R217, R455). -/
def Core.bufferPieces (k : Core) (slot : Nat) : List Piece :=
  ((k.queue.filter (fun w => w.slot == slot)).zipIdx).flatMap (fun p =>
    let n := 16 * (slot - 3) + p.2
    let o := 0x700 + 32 * n
    [(o, 8, payloadOf p.1.op), (o + 8, 16, p.1.operands), (o + 24, 1, min p.1.late p.1.slack), (o + 25, 1, p.1.skew)]
      ++ p.1.cap.pieces (0x8E500 + 64 * n))

/-- The XSTEP completions of a slot as (THR, TOK, CNT), in increasing THR, then TOK (R455). -/
def Xfer.stepEntries (x : Xfer) : List (Nat × Nat × Nat) :=
  (List.range 65).flatMap (fun thr => (List.range 32).filterMap (fun tok =>
    match x.steps.countP (fun p => p.1 == tok && p.2.1 == thr) with
    | 0 => none
    | n => some (thr, tok, n)))

/-- A transfer slot (R217, R455). -/
def Xfer.pieces (x : Xfer) (slot : Nat) : List Piece :=
  if !x.busy then []
  else
    let o := 0xD00 + 1152 * slot
    (x.rec_.zipIdx.map (fun p => (o + 8 * p.2, 8, p.1)))
      ++ [(o + 64, 1, x.stage), (o + 65, 1, x.mdone), (o + 66, 1, 1 + 2 * flag x.ringw), (o + 67, 1, x.dr), (o + 68, 4, x.bytes),
        (o + 72, 1, x.tok)]
      ++ x.sched.zipIdx.flatMap (fun p => [(o + 128 + 16 * p.2, 8, p.1.1), (o + 136 + 16 * p.2, 8, p.1.2)])
      ++ x.stepEntries.zipIdx.map (fun p =>
        (0x8F100 + 256 * slot + 2 * p.2, 2, p.1.2.1 + p.1.1 * 2 ^ 5 + min p.1.2.2 15 * 2 ^ 12))

/-- DCLS and DIDX of a result (R72). -/
def Flight.destCode (f : Flight) : Nat × Nat :=
  match f.dest with
  | .scalar r => (0, r)
  | .vector r => (1, r)
  | .pred r => (2, r)
  | .vecScalar v _ => (1, v)
  | .none => if f.kind = 4 then (3, tileOf f.op) else (4, 0)

/-- Schedule cycles until a matrix operation's next write: of a K-step, of MLDACC's tile, of a row of MSTACC; no such cycle is fixed before it
begins (R352, R353, R358, R365). -/
def MatOp.nextWrite (m : MatOp) : Nat :=
  if !m.begun then 63
  else match m.op with
    | .mldacc _ => 131 - m.clock
    | .mstacc _ => if m.done = 128 then 1 else m.done + 5 - m.clock
    | .mzero _ _ => 1
    | _ =>
      match m.left.map Prod.snd with
      | [] => m.len - m.clock + 4
      | l => l.foldl min 63

/-- REMLAT: schedule cycles until the write, counted from the first resumed one (R72, R353). -/
def Flight.remlat (f : Flight) (m : Option MatOp) : Nat :=
  if f.landed then 0
  else min 63 (match m with
    | some m => m.nextWrite
    | none => f.rem + 1)

/-- Element format of a result (EFMT). -/
def Flight.efmt (f : Flight) : Nat :=
  match f.op with
  | .mrdacc x => x.f.toNat
  | .mstacc x => x.f.toNat
  | i =>
    match vaParts i with
    | some (_, va) => vaFormat va f.fmt
    | none => 0

/-- DELTA: the online delay of a digit-serial result (R58, R72). -/
def Flight.delta (f : Flight) : Nat := if f.kind = 1 then (vaParts f.op).elim 0 (fun p => vaDelta p.1) else 0

/-- Cycles already run of the step or row in progress (R353): a row takes one, so that MLDACC counts behind its last row and MSTACC ahead of its
first. -/
def MatOp.instep (m : MatOp) : Nat :=
  match m.op with
  | .mldacc _ => m.clock - m.done
  | .mstacc _ => if m.done = 0 then min m.clock 4 else 0
  | _ => if m.clock = m.len then 0 else m.clock

/-- Progress of a matrix operation (R353). -/
def MatOp.sval (m : MatOp) : Nat := m.done % 2 ^ 16 + m.instep % 2 ^ 16 * 2 ^ 16 + flag m.begun * 2 ^ 32

/-- The cycle of the schedule at which the digits of a result are counted: the stop that entered the handler for a held entry, else the present
one (R61, R212). -/
def Core.entryCycle (k : Core) (f : Flight) : Nat := if k.hand.held.any (fun g => g.seq == f.seq) then k.hand.cyc else k.cyc

/-- The header of a snapshot entry, with its KIND, destination and SVAL given (R72). -/
def Flight.header (f : Flight) (k : Core) (m : Option MatOp) (own link kind dcls didx sval : Nat) : Nat :=
  kind + dcls * 2 ^ 4 + didx * 2 ^ 7 + f.remlat m * 2 ^ 13 + f.digits (k.entryCycle f) * 2 ^ 19 + opcodeOf f.op * 2 ^ 22 + f.slot * 2 ^ 30
    + f.efmt * 2 ^ 33 + field f.fmt 13 12 * 2 ^ 37 + f.delta * 2 ^ 39 + flag f.eph * 2 ^ 41 + flag f.cutc * 2 ^ 42
    + (if link = 0 then 0 else (link - 1) * 2 ^ 43 + 2 ^ 49) + f.tok * 2 ^ 50 + f.skewl % 64 * 2 ^ 55 + flag (f.eng != own) * 2 ^ 61
    + sval * 2 ^ 64

/-- What the residual of a KIND 1 lane carries in this revision: the value, the flags and their trap enables, and how the lane is decided (R72;
log 50). -/
def LaneRes.residual (x : LaneRes) (fmt : Word) : Nat :=
  x.val.toNat + x.fl.toNat * 2 ^ 32 + (trapMask fmt).toNat * 2 ^ 39 + flag x.last * 2 ^ 46 + flag x.mark * 2 ^ 47 + flag x.out * 2 ^ 48
    + flag x.whole * 2 ^ 49 + x.at_ % 16 * 2 ^ 50 + x.len % 16 * 2 ^ 54 + flag x.cut * 2 ^ 58 + flag x.side * 2 ^ 59

/-- A residual under the mask of entry `n` and a lane: what the image holds of what it carries, and the reverse (R72). -/
def maskedResidual (n lane r : Nat) : Nat := (word r ^^^ Config.residualMask n lane).toNat

/-- The record of a KIND 1 lane of entry `n` (R72): its digits are those formed before cycle `cyc`, to the digit at which a cancelled one stopped
(R63). DEC, CUT and SIDE show what a `.cut` consumer has decided. -/
def Flight.serialWord (f : Flight) (n cyc : Nat) (p : LaneRes × Nat) : Nat :=
  let x := p.1
  let dec := x.dec && x.mark
  (if x.act then digitField (x.digits f.seq p.2 (min 7 (min x.len (f.digits cyc)))) + x.exp % 512 * 2 ^ 35 + 2 ^ 44
      + flag (x.cut && dec) * 2 ^ 45 + flag dec * 2 ^ 46 + flag (x.side && dec) * 2 ^ 47 else 0)
    + maskedResidual n p.2 (x.residual f.fmt) * 2 ^ 48

/-- The record of a KIND 2 lane: its result; of an inactive lane what its register holds, which the write leaves (R72; log 10). -/
def State.wholeWord (s : State) (f : Flight) (p : LaneRes × Nat) : Nat :=
  if p.1.act then p.1.val.toNat
  else match f.dest with
    | .vector r => ((s.core f.eng).lane r p.2).toNat
    | .vecScalar r _ => ((s.core f.eng).lane r p.2).toNat
    | .pred r => flag (((s.core f.eng).pred r).getLsbD p.2)
    | _ => 0

/-- A lane record of entry `n` of core `c` (R72). -/
def State.laneWord (s : State) (c n : Nat) (f : Flight) (p : LaneRes × Nat) : Nat :=
  if f.kind = 1 then f.serialWord n ((s.core c).entryCycle f) p else s.wholeWord f p

/-- Entries that a result takes: two for MRDACC, none for one that writes no register and no done register, completes no token and counts in no
counter (R71, R72). -/
def Flight.entryCount (f : Flight) : Nat :=
  match f.dest with
  | .vecScalar _ _ => 2
  | .none => if f.tok = 0 ∧ f.cnt = .none then 0 else 1
  | _ => 1

/-- The results in flight that an image holds: held entries, then those of the engines' schedule, in issue order (R71). -/
def Core.entries (k : Core) : List Flight := (k.hand.held ++ k.flights.filter (fun f => !f.ofTransfer)).filter (fun f => f.entryCount != 0)

/-- 1 plus the entry of the result of an issue number; 0 none. -/
def linkOf (l : List Flight) (seq : Option Nat) : Nat :=
  match seq with
  | none => 0
  | some n =>
    if l.any (fun f => f.seq == n) then ((l.takeWhile (fun f => f.seq != n)).foldl (fun i f => i + f.entryCount) 0) + 1 else 0

/-- The snapshot entries of a core from entry `n` on (R71, R72). -/
def State.entryPieces (s : State) (c : Nat) (all : List Flight) : Nat → List Flight → List Piece
  | _, [] => []
  | n, f :: l =>
    let k := s.core c
    let o := 0xD100 + 2064 * n
    let m := s.mat.find? (fun m => m.owner == c && m.seq == f.seq)
    let sval := match f.kind, m with
      | 3, _ => f.sval.toNat
      | 4, some m => m.sval
      | 5, _ => f.sval.toNat
      | _, _ => 0
    let lanes := if f.kind ≤ 2 then f.lanes.zipIdx.map (fun p => (o + 16 + 16 * p.2, 16, s.laneWord c n f p)) else []
    let cap := match m with
      | some m => m.cap.pieces (0x2D500 + 64 * n)
      | none => []
    let first : Piece := (o, 16, f.header k m c (linkOf all f.chain) f.kind f.destCode.1 f.destCode.2 sval)
    match f.dest with
    | .vecScalar _ r =>
      (first :: lanes) ++ [(o + 2064, 16, { f with tok := 0 }.header k none c 0 3 0 r f.sval.toNat)]
        ++ s.entryPieces c all (n + 2) l
    | _ => (first :: lanes) ++ cap ++ s.entryPieces c all (n + 1) l

/-- The system register words of an image (R217). -/
def State.sysWords (s : State) (c : Nat) : List Word :=
  let k := s.core c
  let bars := pack [(flag (mapGet false k.arrived 1), 0), (flag (mapGet false k.arrived 2), 1), (flag (mapGet false k.arrived 3), 2)]
  [k.fmt, k.slack, k.skew, k.bind, k.swz, k.unf0, k.unf1, k.sctabWord 0, k.sctabWord 1, k.sctabWord 2, k.sctabWord 3, k.vstat,
    k.wswap, k.team, k.predst, k.outcntWord, k.tokcnt 0, k.tokcnt 1, k.tokerr, s.xstage c, k.hand.hvec, k.hand.epc, 0, k.ycfg,
    k.ystat, k.tagidx, s.lidqWord k, bars]
    ++ (List.range 12).flatMap (fun i =>
      match ((k.hand.pend ++ k.shadow).filter (fun x => x.target < 16))[i]? with
      | some x => [pack [(x.target, 0), (x.left, 8)], x.val]
      | none => [0, 0])
    ++ [k.apx, k.apxcnt]

/-- The body of the image of core `c`, but its header (R217). -/
def State.imagePieces (s : State) (c : Nat) : List Piece :=
  let k := s.core c
  let seqw := [word k.pc, k.seqstat] ++ (List.range 6).map k.lsi ++ (List.range 6).map k.lsb
  ((k.rec_.map FaultRec.words).getD []).zipIdx.map (fun p => (0x40 + 8 * p.2, 8, p.1))
    ++ seqw.zipIdx.map (fun p => (0x80 + 8 * p.2, 8, p.1.toNat))
    ++ k.latches.flatMap (latchPieces 0x100) ++ k.hand.shadow.flatMap (latchPieces 0x150)
    ++ [(0x1A0, 4, (k.latch 4).row0), (0x1A4, 4, (mapGet Latch.nop k.hand.shadow 4).row0)]
    ++ (s.sysWords c).zipIdx.map (fun p => (0x200 + 8 * p.2, 8, p.1.toNat))
    ++ k.s.map (fun p => (0x400 + 8 * p.1, 8, p.2.toNat))
    ++ (List.range 8).map (fun r => (0x600 + 16 * r, 16, (k.pred r).toNat))
    ++ k.evsel.map (fun p => (0x680 + 8 * p.1, 8, p.2.toNat)) ++ k.evcnt.map (fun p => (0x6C0 + 8 * p.1, 8, p.2.toNat))
    ++ k.bufferPieces 3 ++ k.bufferPieces 4 ++ k.bufferPieces 5
    ++ (List.range 8).flatMap (fun i => (s.xferAt (s.slotKey c i)).pieces i)
    ++ k.tags.flatMap (fun p => match p.2 with
      | some key => [(0x3100 + 8 * p.1, 8, 2 ^ 63 + key.toNat)]
      | none => [])
    ++ k.v.map (fun p => (0x5100 + 4 * p.1, 4, p.2.toNat))
    ++ s.entryPieces c k.entries 0 k.entries
    ++ k.a.map (fun p => (0x2E500 + 6 * p.1, 6, p.2.toNat))

/-- The header of an image (R217). -/
def State.headerPieces (s : State) (c kind splen : Nat) : List Piece :=
  [(0, 4, 0x4C394349), (4, 2, 1), (6, 1, kind), (8, 2, field (s.core c).team 9 0), (10, 2, c), (12, 2, s.asidOf c), (16, 4, splen),
    (24, 8, s.now)]

/-- The bytes of a field that are not zero, by offset. -/
def pieceBytes (p : Piece) : List (Nat × Byte) :=
  ((natBytes p.2.2 p.2.1).zipIdx.filter (fun q => q.1 != 0)).map (fun q => (p.1 + q.2, BitVec.ofNat 8 q.1))

/-! ## Writing -/

/-- The pinned view of a canonical HBM4 address (R100). -/
def pinnedOf (a : Nat) : Nat :=
  0x10000000000 + stackOf a / 2 * 0x2000000000 + a / 2 ^ 16 * 2 ^ 13 + stackOf a % 2 * 2 ^ 12 + a % 2 ^ 12

/-- A byte of memory lies in a run of physical addresses. -/
def inRun (pa n a : Nat) : Bool :=
  (decide (pa ≤ a) && decide (a < pa + n)) || (decide (a < 0x10000000000) && decide (pa ≤ pinnedOf a) && decide (pinnedOf a < pa + n))

/-- A run of memory set to zeros, with fresh check bits. -/
def State.zeroRun (s : State) (pa n : Nat) : State :=
  { s with mem := s.mem.filter (fun p => !inRun pa n p.1), ueMem := s.ueMem.filter (fun d => !inRun pa n (8 * d)) }

/-- A run of `n` bytes written, zeros but for those given by offset; under a key where one is given (R118). -/
def State.writeRun (s : State) (pa n : Nat) (l : List (Nat × Byte)) (key : Option Nat) : State :=
  match key with
  | none => (s.zeroRun pa n).setHomes (l.map (fun p => (pa + p.1, p.2)))
  | some _ =>
    let all := (List.range n).map (fun i => (pa + i, ((l.find? (fun p => p.1 == i)).map Prod.snd).getD 0))
    (s.zeroRun pa n).putHome key all

/-- A hamper discarded: its header no longer reads as one (R202, R240, R251). -/
def State.dropHamper (s : State) (t : Team) : State :=
  if t.hamper = 0 then s else (s.zeroRun t.hamper 64).modTeam t.id (fun t => { t with hamper := 0 })

/-- The scratchpad of a cell up to SPCAP, by offset. -/
def State.spBytes (s : State) (c : Nat) : SMap Byte :=
  (s.mem.filter (fun p => decide (spKey c 0 ≤ p.1) && decide (p.1 < spKey c (s.core c).spcap))).map (fun p => (p.1 - spKey c 0, p.2))

/-- The transfer slots of a cell that are not as at reset, by number: one that a migration left on its old engine is the cell's own slot again
where the context is restored (R218, R226). -/
def State.slotsOf (s : State) (c : Nat) : SMap Xfer :=
  (List.range 8).filterMap (fun i =>
    let x := s.xferAt (s.slotKey c i)
    if x == Xfer.idle then none else some (i, if x.busy && x.side == c then { x with eng := c } else x))

/-- What a departure saves of a cell. -/
def State.savedCell (s : State) (c splen : Nat) : SavedCell :=
  { cid := c, core := s.core c, sp := if splen = 0 then [] else s.spBytes c, splen := splen,
    xfers := s.slotsOf c,
    mats := s.mat.filter (fun m => m.owner == c) }

/-- An image of a kind of core `c` written at a physical address, with its scratchpad where `splen` is not 0; the header comes
last (R330). -/
def State.saveImage (s : State) (c pa kind splen : Nat) (key : Option Nat) : State :=
  let body := ((s.imagePieces c) ++ s.headerPieces c kind splen).flatMap pieceBytes
  let sp := if splen = 0 then [] else (s.spBytes c).map (fun p => (imageSize + p.1, p.2))
  let saved := s.savedCell c splen
  let t := s.writeRun pa (imageSize + splen) (body ++ sp) key
  { t with
    images := mapSet none t.images pa (some ⟨saved, mapSetAll 0 [] (body ++ sp), key⟩)
    ueMem := if (s.core c).ueSnap then t.ueMem ++ [(pa + 0xD100) / 8] else t.ueMem }

/-- A field of an image that the device wrote changes in place, in what it stands for too (R215, R321). -/
def State.editImage (s : State) (pa : Nat) (v : SavedImage) (off n x : Nat) (f : Core → Core) : State :=
  { s.putHome v.key (bytesAt (pa + off) n x) with
    images := mapSet none s.images pa (some { v with
      cell := { v.cell with core := f v.cell.core }
      bytes := mapSetAll 0 v.bytes ((natBytes x n).zipIdx.map (fun p => (off + p.2, BitVec.ofNat 8 p.1))) }) }

/-- The state with what was saved of a cell back in its place, to form its image from. -/
def State.withSaved (s : State) (v : SavedCell) (cid : Nat) : State :=
  { (s.setCore cid v.core) with
    xfers := (List.range 8).foldl (fun m i => mapSet Xfer.idle m (8 * cid + i) (mapGet Xfer.idle v.xfers i)) s.xfers
    mat := v.mats }

/-- An image of a kind written at a physical address from what was saved, with its scratchpad. -/
def State.writeSaved (s : State) (v : SavedCell) (pa kind : Nat) (key : Option Nat) : State :=
  let old := s.withSaved v v.cid
  let body := ((old.imagePieces v.cid) ++ old.headerPieces v.cid kind v.splen).flatMap pieceBytes
  let all := body ++ v.sp.map (fun p => (imageSize + p.1, p.2))
  let t := s.writeRun pa (imageSize + v.splen) all key
  { t with images := mapSet none t.images pa (some ⟨v, mapSetAll 0 [] all, key⟩) }

/-! ## When a context may leave (R175, R218) -/

/-- The write queue of a cell is empty and its held reads have performed (R175). -/
def State.queueEmpty (s : State) (c : Nat) : Bool :=
  !s.writes.any (fun w => w.cid == c && !w.ofEngine && w.place == .queue) && !s.reads.any (fun r => r.cid == c)

/-- Every transfer slot of the cell is idle, or in a state of R218; no gather or collective of it runs. -/
def State.slotsQuiet (s : State) (c : Nat) : Bool :=
  s.xfers.all (fun p => !(p.2.busy && p.2.owner == c) || (p.2.kind == .copy && p.2.idleEnough))
    && !s.collects.any (fun m => m.owner == c)

/-- The image of a core may be written (R330). -/
def State.mayLeave (s : State) (c : Nat) : Bool := s.queueEmpty c && s.slotsQuiet c

/-! ## Reading back -/

/-- `n` bytes of an image in memory at an offset, under a key where one is given (R118). -/
def State.imageNat (s : State) (pa : Nat) (key : Option Nat) (off n : Nat) : Nat :=
  match key with
  | none => s.homeNat (pa + off) n
  | some k =>
    bytesNat ((List.range n).map (fun i =>
      let a := canonical (pa + off + i)
      (xtsDecrypt k (a / 16 * 16) (s.block (a / 16 * 16))).getD (a % 16) 0))

/-- A bundle's payload decoded in the format of a slot, 0 for NOP. -/
def latchOpOf (slot v : Nat) : Option Instr :=
  if v = 0 then none
  else (decode (slotFormat slot) v).instr?

/-- A latch read back. -/
def readLatch (rd : Nat → Nat → Nat) (at_ slot row0 : Nat) : Latch :=
  let o := at_ + 16 * (slot - 1)
  ⟨latchOpOf slot (rd o 8), rd (o + 8) 4, rd (o + 12) 4, if slot = 4 then row0 else 0⟩

/-- The captured registers read back. -/
def readCapture (rd : Nat → Nat → Nat) (at_ : Nat) : Capture :=
  let w (i : Nat) : Word := word (rd (at_ + 8 * i) 8)
  ⟨w 0, w 1, w 2, w 3, w 4, w 5, w 6, w 7⟩

/-- The captured format with which the VEC operation of a buffer's record reads its elements. -/
def Waiting.format (w : Waiting) : Option (VAOp × FieldsVA × Nat) :=
  (vaParts w.op).map (fun p => (p.1, p.2, vaFormat p.2 w.cap.fmt))

/-- The producer of a chained operation read back from an elastic buffer: of the results and the records before it, the latest that
a distance of `n` may name (R59, R61). The image holds no issue cycle of either (log 10). -/
def readChain (fs : List Flight) (before : List Waiting) (n t : Nat) : Option Nat :=
  let fits (op : VAOp) (pt : Nat) : Bool := vaProduces op pt && pt == t && decide (vaDelta op ≤ n) && decide (n ≤ vaLatency op pt)
  let flown := fs.filterMap (fun f => (vaParts f.op).bind (fun p => if f.slot == 3 && fits p.1 (vaFormat p.2 f.fmt) then some f.seq else none))
  let queued := before.filterMap (fun w => w.format.bind (fun p => if fits p.1 p.2.2 then some w.seq else none))
  (flown ++ queued).getLast?

/-- A record of an elastic buffer read back; it waits on the producers of its tokens that are outstanding. A gather's or collective's record
offset is the one that its payload names, since R455 stores none. -/
def readWaiting (rd : Nat → Nat → Nat) (k : Core) (before : List Waiting) (eng : Nat → Nat) (slot i : Nat) : Option Waiting :=
  let n := 16 * (slot - 3) + i
  let o := 0x700 + 32 * n
  match latchOpOf slot (rd o 8) with
  | none => none
  | some op =>
    let x := rd (o + 8) 16
    let mma := match op with
      | .mma _ | .mmas _ => true
      | _ => false
    let x0 := match op with
      | .xgath _ g _ | .xcoll _ g _ => 32 * g.toNat
      | _ => if mma then x % 2 ^ 32 else x % 2 ^ 64
    let w : Waiting :=
      { seq := 256 + n, slot := slot, op := op, ipc := k.pc, eng := eng slot, cap := readCapture rd (0x8E500 + 64 * n),
        x0 := x0, x1 := if mma then x / 2 ^ 64 else 0, x2 := if mma then x / 2 ^ 32 % 2 ^ 32 else 0,
        due := 0, late := rd (o + 24) 1, slack := k.slackOf slot, skew := rd (o + 25) 1, way := 0, bun := 0, toks := k.waitsOn (tokensOf op),
        chain := none, chdist := 0, given := [], icyc := k.cyc, arr := 0, stall := none, held := false }
    match w.format with
    | some (_, f, t) => if f.chs = 0 then some w else some { w with chain := readChain k.flights before f.distance t, chdist := f.distance }
    | none => some w

/-- The records of one elastic buffer read back, from number `i` on, behind those before it. -/
def readBuffer (rd : Nat → Nat → Nat) (k : Core) (eng : Nat → Nat) (slot : Nat) : Nat → Nat → List Waiting → List Waiting
  | 0, _, before => before
  | n + 1, i, before => readBuffer rd k eng slot n (i + 1) (before ++ (readWaiting rd k before eng slot i).toList)

/-- The destination of an entry. -/
def readDest (h : Nat) : Dest :=
  match bits h 6 4 with
  | 0 => .scalar (bits h 12 7)
  | 1 => .vector (bits h 12 7)
  | 2 => .pred (bits h 12 7)
  | _ => .none

/-- A digit of 5 bits read back. -/
def digitOfCode (n : Nat) : Int := signedOf 5 n

/-- The lane of a KIND 1 record that a residual goes with: `dgt` digits have formed, in format `t`; the rest of them is the unit's, for the value
that the residual carries (R72, R73). A comparison's digits stand for its operands' difference, of which the record holds no more than its
digits. -/
def readSerial (n t dgt lane x : Nat) (cmp : Bool) : LaneRes :=
  let r := maskedResidual n lane (bits x 111 48)
  let pre := (List.range (min 7 dgt)).map (fun j => digitOfCode (bits x (34 - 5 * j) (30 - 5 * j)))
  let e : Int := (bits x 43 35 : Nat) - 256
  let mark := bit r 47
  { val := BitVec.ofNat 32 r, act := bit x 44, fl := BitVec.ofNat 7 (bits r 38 32), cut := bit r 58, dec := bit x 46 || !mark, side := bit r 59,
    last := bit r 46, out := bit r 48, mark := mark, at_ := bits r 53 50, len := bits r 57 54,
    num := if cmp then (digitsNumber pre).scale e else match floatValue t (bits r 31 0) with
      | .fin s m k => (Value.fin s m k).dyad
      | _ => dyadZero
    exp := bits x 43 35, whole := bit r 49, pre := pre }

/-- A lane record of entry `n` read back. Of a KIND 2 lane it holds the result alone: every lane counts as active, and its flags are free values
(log 10: DESIGN CHOICE). -/
def readLane (kind n t dgt lane x : Nat) (cmp : Bool) : LaneRes :=
  if kind = 1 then readSerial n t dgt lane x cmp
  else { laneRes (BitVec.ofNat 32 x) true (Config.resumedFlags x) with dec := true }

/-- The operation of an entry, known by its slot and opcode alone: an instruction of that opcode with its other fields zero. -/
def entryOp (h : Nat) : Instr :=
  let slot := bits h 32 30
  let sh := if 3 ≤ slot then 56 else 24
  (latchOpOf slot (bits h 29 22 * 2 ^ sh)).getD .nopS

/-- The destination of an operation with that opcode is scoreboarded (R47, R332). -/
def opPends (i : Instr) : Bool :=
  match i with
  | .div .. | .rem .. | .amo .. | .cas .. => true
  | _ => false

/-- Snapshot entry `n` read back, for a core whose first resumed cycle is `cyc`: a KIND 1 entry with REMLAT m started L − m + 1 cycles
earlier (R73). `eng` names the core whose engine serves a slot, of the cell itself and of the donor that BIND names (R42). The header holds no trap
enables: those of a KIND 1 entry come with its residuals, and a KIND 2 entry's are 0 (log 10: DESIGN CHOICE). -/
def readEntry (rd : Nat → Nat → Nat) (cyc own : Nat) (eng : Nat → Nat) (n : Nat) : Option Flight :=
  let o := 0xD100 + 2064 * n
  let h := rd o 16
  let kind := h % 8
  if kind = 0 then none
  else
    let op := entryOp h
    let t := bits h 36 33
    let cmp := op matches .vcmp _
    let lane (l : Nat) : Nat := rd (o + 16 + 16 * l) 16
    let lanes := if kind = 1 ∨ kind = 2 then lanes128.map (fun l => readLane kind n t (bits h 21 19) l (lane l) cmp) else []
    let traps := if kind = 1 then bits (maskedResidual n 0 (bits (lane 0) 111 48)) 45 39 else 0
    let long := bits h 40 39 + digitLength t
    let start := if kind = 1 then cyc - (long + 1 - bits h 18 13) else cyc
    some { seq := n + 1, slot := bits h 32 30, op := op, ipc := 0, eng := if bit h 61 then eng (bits h 32 30) else own, kind := kind,
           dest := readDest h, rem := if kind = 4 then 0 else bits h 18 13 - 1, open_ := kind == 4, free := false, skewl := bits h 60 55,
           landed := kind != 4 && bits h 18 13 == 0, sval := word (bits h 127 64), lanes := lanes, flags := flagNone,
           fmt := word (t + bits h 38 37 * 2 ^ 12 + (traps % 32) * 2 ^ 20 + traps / 64 % 2 * 2 ^ 25), tok := bits h 54 50, cnt := counterOf op,
           sb := opPends op, chain := if bit h 49 then some (bits h 48 43 + 1) else none, icyc := start, start := start, eph := bit h 41,
           cutc := bit h 42, heldw := lanes.any LaneRes.out, parts := 0, fault := none, ran := false }

/-- A matrix operation's progress as its entry holds it: DONE, INSTEP, BEGUN and REMLAT (R353). A step whose products are formed comes to its
write in at most four cycles; the array then forms the one after it. -/
def MatOp.resumed (m : MatOp) (v remlat : Nat) : MatOp :=
  let done := bits v 15 0
  let instep := bits v 31 16
  let m := { m with begun := bit v 32, done := done, step := done }
  if !m.begun then m
  else match m.op with
    | .mldacc _ => { m with clock := done + instep }
    | .mstacc _ => { m with clock := if done = 0 then instep else done + 4 }
    | .mma _ | .mmas _ =>
      let formed := decide (remlat ≤ 4)
      let step := if formed then done + 1 else done
      { m with
        step := step
        clock := instep
        opA := (if formed then [(done, [])] else []) ++ (if instep = 0 then [] else [(step, [])])
        opB := (if formed then [(done, [])] else []) ++ (if instep = 0 then [] else [(step, [])])
        left := if formed then [(done, remlat)] else [] }
    | _ => m

/-- A matrix operation read back from its KIND 4 entry (R353). The entry holds no payload: the last one of the image is the MAT latch's where
that has its opcode, with the operands that the latch holds; otherwise the operands are free values (log 10). -/
def readMat (rd : Nat → Nat → Nat) (l : Latch) (last own n : Nat) (f : Flight) : Option MatOp :=
  if f.kind = 4 then
    let h := rd (0xD100 + 2064 * n) 16
    let mine := l.op.filter (fun i => n == last && opcodeOf i == opcodeOf f.op)
    let operand (i x : Nat) : Nat := if mine.isSome then x else Config.resumedOperand h i
    let m : MatOp :=
      { seq := f.seq, owner := own, eng := f.eng, op := mine.getD f.op, ipc := 0, tile := bits h 12 7,
        base := operand 0 l.addr, k0 := operand 1 l.k0, row0 := operand 2 l.row0, cap := readCapture rd (0x2D500 + 64 * n),
        begun := false, step := 0, clock := 0, len := 0, done := 0, opA := [], opB := [], left := [],
        rows := [], next := operand 0 l.addr, flags := flagNone, writes := 0, held := 2, bun := 0, skew := 0, apxs := [], fault := none }
    some (m.resumed f.sval.toNat (bits h 18 13))
  else none

/-- The registers of the system register words 0 to 53 of an image, in their order; 0 for a word that is none (R217). -/
def imageRegs : List Nat :=
  [0x040, 0x030, 0x031, 0x032, 0x046, 0x047, 0x048, 0x042, 0x043, 0x044, 0x045, 0x041, 0x023, 0x020, 0x022, 0x033, 0x058, 0x059, 0x05A,
    0x05B, 0x060, 0x061, 0, 0x062, 0x063, 0x050, 0x021, 0] ++ List.replicate 24 0 ++ [0x049, 0x04A]

/-- The register that a target code of a pending write names (R217). -/
def shadowReg (target : Nat) : Nat :=
  match target with
  | 1 => 0x040
  | 2 => 0x042
  | 3 => 0x043
  | 4 => 0x044
  | 5 => 0x045
  | 6 => 0x046
  | 7 => 0x047
  | 8 => 0x048
  | _ => 0x049

/-- The fault record that eight doublewords hold (R209). -/
def readRecord (w : Nat → Nat) : FaultRec :=
  { cls := bits (w 0) 7 0, detail := bits (w 0) 15 8, async := bit (w 0) 16, bound := bit (w 0) 17, hnest := bit (w 0) 18, vav := bit (w 0) 19,
    kv := bit (w 0) 20, xv := bit (w 0) 21, lid := bits (w 0) 41 32, ecid := bits (w 0) 57 48, pc := bits (w 1) 15 0, rpt := bits (w 1) 23 16,
    ipc := bits (w 1) 47 32, slot := bits (w 2) 7 0, opc := bits (w 2) 15 8, xslot := bits (w 2) 23 16, move := bits (w 2) 31 24,
    kstep := bits (w 2) 63 32, addr := w 3, time := w 4, info := w 5, scyc := w 6, more := bits (w 7) 31 0 }

/-- The registers of a core as an image holds them, over the presets of the load phase: reserved bits do not enter (R8, R264). Schedule
cycles are counted on from a number past that of every cycle that an entry may have started in. -/
def readCore (rd : Nat → Nat → Nat) (k : Core) : Core :=
  let w (i : Nat) : Word := word (rd (0x200 + 8 * i) 8) &&& imageMask (imageRegs.getD i 0)
  let ss := rd 0x88 8
  let depth := bits ss 10 8
  let loop (i : Nat) : LoopEntry :=
    ⟨rd (0x90 + 8 * i) 4, rd (0x94 + 8 * i) 4, rd (0xC0 + 8 * i) 2, rd (0xC2 + 8 * i) 2⟩
  { k with
    s := mapSetAll 0 [] ((List.range 63).map (fun r => (r + 1, word (rd (0x408 + 8 * r) 8))))
    p := mapSetAll 0 [] ((List.range 7).map (fun r => (r + 1, BitVec.ofNat 128 (rd (0x610 + 16 * r) 16))))
    v := mapSetAll 0 [] ((List.range 8192).map (fun i => (i, BitVec.ofNat 32 (rd (0x5100 + 4 * i) 4))))
    a := mapSetAll accZero [] ((List.range 65536).map (fun i => (i, BitVec.ofNat 48 (rd (0x2E500 + 6 * i) 6))))
    pc := rd 0x80 2
    rec_ := if rd 0x40 1 = 0 then none else some (readRecord (fun i => rd (0x40 + 8 * i) 8))
    cyc := k.cyc + 64
    st := if ss % 8 = 4 then .halted else .free
    waitk := bits ss 7 4
    yreq := bit ss 11
    rptLeft := bits ss 19 12
    loops := ((List.range depth).map loop).reverse
    latches := mapSetAll Latch.nop [] ((List.range 5).map (fun i => (i + 1, readLatch rd 0x100 (i + 1) (rd 0x1A0 4))))
    fmt := w 0
    slack := w 1
    skew := w 2
    bind := w 3
    swz := w 4
    unf0 := w 5
    unf1 := w 6
    sctab := mapSetAll 0x3F803F803F803F80 [] ((List.range 4).map (fun i => (i, w (7 + i))))
    vstat := w 11
    wswap := w 12
    team := w 13
    predst := w 14
    outcnt := mapSetAll 0 [] ((List.range 4).map (fun i => (i, field (w 15) (8 * i + 5) (8 * i))))
    prods := (List.range 32).flatMap (fun t =>
      List.replicate (field (w (16 + t / 16)) (4 * (t % 16) + 3) (4 * (t % 16))) ⟨t, 0⟩)
    tokerr := w 18 &&& 0xFFFFFFFE
    ycfg := w 23
    ystat := w 24
    tagidx := w 25
    lidq := w 26 &&& 0x3FF
    arrived := mapSetAll false [] ((List.range 3).map (fun i => (i + 1, bit (w 27).toNat i)))
    shadow := (List.range 12).filterMap (fun i =>
      let x := w (28 + 2 * i)
      if field x 7 0 = 0 then none else some ⟨field x 7 0, field x 10 8, w (29 + 2 * i) &&& imageMask (shadowReg (field x 7 0))⟩)
    apx := w 52
    apxcnt := w 53
    tags := mapSetAll none [] ((List.range 1024).map (fun i =>
      let x := rd (0x3100 + 8 * i) 8
      (i, if bit x 63 then some (BitVec.ofNat 52 x) else none)))
    evsel := mapSetAll 0 [] ((List.range 8).map (fun i => (i, word (rd (0x680 + 8 * i) 8) &&& 0x3FF)))
    evcnt := mapSetAll 0 [] ((List.range 8).map (fun i => (i, word (rd (0x6C0 + 8 * i) 8) &&& 0xFFFFFFFFFFFF)))
    hand := { k.hand with
      hvec := w 20
      epc := w 21
      shadow := mapSetAll Latch.nop [] ((List.range 5).map (fun i => (i + 1, readLatch rd 0x150 (i + 1) (rd 0x1A4 4)))) } }

/-- A transfer slot read back (R217, R455). -/
def readXfer (rd : Nat → Nat → Nat) (own i : Nat) : Xfer :=
  let o := 0xD00 + 1152 * i
  let fl := rd (o + 66) 1
  if !bit fl 0 then Xfer.idle
  else
    let rec_ := (List.range 8).map (fun j => rd (o + 8 * j) 8)
    let nsched := bits (rec_.getD 0 0) 15 9
    { Xfer.idle with
      kind := .copy, busy := true, started := true, owner := own, eng := own, side := own, seq := 100 + i, rec_ := rec_,
      sched := (List.range nsched).map (fun j => (rd (o + 128 + 16 * j) 8, rd (o + 136 + 16 * j) 8)),
      stage := rd (o + 64) 1, mstart := rd (o + 65) 1, mdone := rd (o + 65) 1, bytes := rd (o + 68) 4, dr := rd (o + 67) 1,
      tok := rd (o + 72) 1, ringw := bit fl 1,
      steps := (List.range 128).flatMap (fun j =>
        let e := rd (0x8F100 + 256 * i + 2 * j) 2
        (List.range (bits e 15 12)).map (fun n => (bits e 4 0, bits e 11 5, 1000 + 2048 * i + 16 * j + n))) }

/-- The results that a transfer slot still owes: its done register, and the XSTEPs that wait for its moves. -/
def Xfer.owed (x : Xfer) : List Flight :=
  if !x.busy then []
  else
    let f (seq kind tok : Nat) (dest : Dest) : Flight :=
      { seq := seq, slot := 5, op := .nopXfr, ipc := 0, eng := x.eng, kind := kind, dest := dest, rem := 0, open_ := true, free := true,
        skewl := 0, landed := false, sval := 0, lanes := [], flags := flagNone, fmt := 0, tok := tok, cnt := .none, sb := false,
        chain := none, icyc := 0, start := 0, eph := false, cutc := false, heldw := false, parts := 1, fault := none, ran := false }
    { f x.seq 3 x.tok (.scalar x.dr) with cnt := .cp, sb := x.dr != 0 } :: x.steps.map (fun p => f p.2.2 5 p.1 .none)

/-- What the bytes of an image hold of a cell, over the presets of the load phase. `donors` are the donors of its team. -/
def readSaved (rd : Nat → Nat → Nat) (k : Core) (donors : List Nat) (own splen : Nat) : SavedCell :=
  let c0 := readCore rd k
  let eng (slot : Nat) : Nat := if slot < 3 then own else donors.getD (c0.bindOf slot) own
  let fs := (List.range 64).filterMap (fun n => (readEntry rd c0.cyc own eng n).map (fun f => (n, f)))
  let lastMat := ((fs.filter (fun p => p.2.kind == 4)).map Prod.fst).foldl max 0
  let xs := (List.range 8).map (readXfer rd own)
  let fl := fs.map Prod.snd ++ xs.flatMap Xfer.owed
  let known := (fl.filter (fun f => f.tok != 0)).map (fun f => (⟨f.tok, f.seq⟩ : Producer))
  let core := { c0 with
    flights := fl
    prods := known ++ (List.range 32).flatMap (fun t => (c0.prods.filter (fun (p : Producer) => p.tok == t)).drop (known.countP (fun (p : Producer) => p.tok == t))) }
  { cid := rd 10 2, core := { core with
      queue := [3, 4, 5].flatMap (fun slot => readBuffer rd core eng slot 16 0 []) }
    sp := mapSetAll 0 [] ((List.range splen).map (fun i => (i, BitVec.ofNat 8 (rd (imageSize + i) 1))))
    splen := splen
    xfers := mapSetAll Xfer.idle [] (xs.zipIdx.map (fun p => (p.2, p.1)))
    mats := fs.filterMap (fun p => readMat rd (c0.latch 4) lastMat own p.1 p.2) }

/-- Every byte at an address is still the one that the device wrote there. -/
def State.imageIntact (s : State) (pa : Nat) (key : Option Nat) (v : SavedImage) : Bool :=
  let n := imageSize + v.cell.splen
  ((List.range n).zip (denseFrom 0 n 0 v.bytes)).all (fun p => s.imageNat pa key p.1 1 == p.2.toNat)

/-- What an image restores: what was saved there while its bytes stand, else what its bytes hold (log 10). -/
def State.imageAt (s : State) (pa : Nat) (key : Option Nat) (target splen : Nat) : SavedCell :=
  let rd := s.imageNat pa key
  let fresh := readSaved rd (s.core target) (((s.teamOf target).map Team.donorCells).getD []) target splen
  match mapGet none s.images pa with
  | some v => if s.imageIntact pa key v then v.cell else fresh
  | none => fresh

/-- A number of one cell renamed to another. -/
def rename (a b n : Nat) : Nat := if n = a then b else n

/-- PREDST of a team at its load (R51). -/
def State.predWord (s : State) (t : Team) : Word :=
  if !t.hasPred then 0
  else match t.pred.bind s.team with
    | none => pack [(1, 32), (1, 33)]
    | some p => if p.state == .closed then pack [(p.error, 0), (1, 32), (1, 33)] else pack [(1, 33)]

/-- PREDST of a restored cell: as it was saved, unless the predecessor has meanwhile ended (R51, R435). -/
def State.predNow (s : State) (b : Nat) (saved : Word) : Word :=
  let p := ((s.teamOf b).map s.predWord).getD 0
  if bit p.toNat 32 then p else saved

/-- Waits with the engine of a RAWAIT's ring renamed. -/
def Waits.move (w : Waits) (move : Nat → Nat) : Waits :=
  if w.ring.isNone then w else { w with ringArg := w.ringArg % 2 ^ 22 + move (w.ringArg / 2 ^ 22) * 2 ^ 22 }

/-- The core that a restore leaves: what R217 holds, with what belongs to the target itself or to its load phase kept. `move` gives the cell
that stands where one of the team stood. -/
def restoredCore (v k : Core) (move : Nat → Nat) : Core :=
  { v with
    st := if v.st == .halted then .halted else .free
    spcap := k.spcap
    celltemp := k.celltemp
    ctxasid := k.ctxasid
    ebal := k.ebal
    erate := k.erate
    ecost := k.ecost
    charged := 0
    duty := k.duty
    duties := k.duties
    rcache := k.rcache
    rcidx := k.rcidx
    imem := k.imem
    ueImem := k.ueImem
    ceImem := k.ceImem
    ctxt := k.ctxt
    lmbase := k.lmbase
    banks := []
    stopReq := none
    migReq := k.migReq
    landing := false
    holdCyc := 0
    rcyc := 0
    flights := v.flights.map (fun f => { f with eng := move f.eng })
    queue := v.queue.map (fun w => { w with eng := move w.eng })
    waits := v.waits.move move
    hand := { v.hand with held := v.hand.held.map (fun f => { f with eng := move f.eng }), waits := v.hand.waits.move move } }

/-- The saved state of a cell placed on core `b`; `move` gives the cell that stands where one of its team stood. With `sp` its scratchpad too
(R331). -/
def State.restoreCell (s : State) (v : SavedCell) (move : Nat → Nat) (b : Nat) (sp : Bool) : State :=
  let s := s.setCore b { restoredCore v.core (s.core b) move with predst := s.predNow b v.core.predst }
  let s := if sp then (s.zeroRun (spKey b 0) v.splen).setHomes (v.sp.map (fun p => (spKey b p.1, p.2))) else s
  { s with
    seq := max s.seq 32768
    xfers := v.xfers.foldl (fun m p => mapSet Xfer.idle m (8 * b + p.1)
      { p.2 with owner := move p.2.owner, eng := move p.2.eng, side := move p.2.side }) s.xfers
    mat := s.mat ++ v.mats.map (fun m => { m with owner := b, eng := move m.eng, held := if m.held == 1 then 2 else m.held }) }

/-- The image's own checks of R331, in their order; the reserved bits of the register words are among its reserved areas (R265). -/
def State.imageCheck (s : State) (pa : Nat) (key : Option Nat) (target : Nat) (sp : Bool) : Option Trap :=
  let rd := s.imageNat pa key
  let heads := (List.range 64).map (fun n => rd (0xD100 + 2064 * n) 16)
  let reserved : List (Nat × Nat) := [(7, 1), (14, 2), (20, 4), (32, 32), (0xF0, 16), (0x1A8, 88), (0x2B0, 8), (0x3B0, 80), (0x8F900, 1792)]
  let ctximg : Option Trap := some (trapIL 0x0F)
  let spare (off n : Nat) : Bool := rd off 8 % 2 ^ 64 != rd off 8 % 2 ^ 64 &&& (imageMask n).toNat
  let words := imageRegs.zipIdx.any (fun p => spare (0x200 + 8 * p.2) p.1) || spare 0x80 0x010 || spare 0x88 0x011 || decide (7 < rd 0x2D8 8)
    || (List.range 12).any (fun i => decide (2 ^ 11 ≤ rd (0x2E0 + 16 * i) 8) || decide (9 < rd (0x2E0 + 16 * i) 1)
          || spare (0x2E8 + 16 * i) (shadowReg (rd (0x2E0 + 16 * i) 1)))
    || (List.range 8).any (fun i => decide (2 ^ 10 ≤ rd (0x680 + 8 * i) 8) || decide (2 ^ 48 ≤ rd (0x6C0 + 8 * i) 8))
  let ue (off n : Nat) : Bool := s.ueMem.any (fun d => inRun (pa + off) n (8 * d))
  if rd 0 4 != 0x4C394349 || rd 4 2 != 1 || rd 6 1 == 0 || decide (3 < rd 6 1) || reserved.any (fun r => rd r.1 r.2 != 0) || words then ctximg
  else if ((s.teamOf target).map Team.asid) != some (rd 12 2) then ctximg
  else if sp && decide ((s.core target).spcap < rd 16 4) then ctximg
  else if heads.zipIdx.any (fun h => decide (6 ≤ h.1 % 8)
      || (bit h.1 49 && (decide (h.2 ≤ bits h.1 48 43) || (heads.getD (bits h.1 48 43) 0) % 8 == 0))) then ctximg
  else if heads.zipIdx.any (fun h => h.1 % 8 == 1 && lanes128.any (fun l =>
      (List.range 7).any (fun d => bits (rd (0xD100 + 2064 * h.2 + 16 + 16 * l) 16) (5 * d + 4) (5 * d) == 16))) then
    some (trapIL 0x06)
  else if ue 0xD100 132096 || ue 0x100 0xA8 then some (trapOf 5 0x04)
  else if ue 0 (imageSize + if sp then rd 16 4 else 0) then some (trapOf 5 0x02)
  else none

end Sys2Proof.Machine
end

