-- ==== Sys2Proof/Machine/Stoker.lean ====
section
/-!
DEFINITION. Machine/Stoker.lean: the stoker instructions of CTL: RELEASE (R375, R376), CTXS and CTXR (R329 to R331), with the
ends of the saves and restores, and the team's first cycle.
-/
namespace Sys2Proof.Machine

/-! ## RELEASE -/

/-- The CIDs of a release list at an offset of the stoker's local memory (R375). -/
def State.releaseList (s : State) (off : Nat) : List Nat :=
  let at_ (i n : Nat) : Nat := s.homeNat (localKey s.ctx.cid (off + i)) n
  (List.range (at_ 0 8)).map (fun i => at_ (8 + 2 * i) 2)

/-- The team whose ended load phase a release list names whole (R375). -/
def State.releasable (s : State) (cids : List Nat) : Option Team :=
  s.sched.teams.find? (fun t => t.state == .loaded && cids.all t.cells.contains && t.cells.all cids.contains)

/-- The checks of RELEASE in their order (R375). -/
def State.releaseCheck (s : State) (a : Word) : Option Trap :=
  let off := field a 62 0
  let n := s.homeNat (localKey s.ctx.cid off) 8
  if !isStoker s.ctx.cid then some (trapOf 3 0x00)
  else if s.owed.rpt != 0 then some trapEncoding
  else if bit a.toNat 63 then some (trapAt 3 0x03 a.toNat)
  else if off % 8 != 0 then some (trapAt 2 0x00 a.toNat)
  else if decide (0x40000 < off + 8) || decide (0x40000 < off + 8 + 2 * (n % 2048)) then some (trapAt 8 0x0D a.toNat)
  else if n == 0 || decide (1024 < n) then some (trapOf 8 0x0C)
  else
    let l := s.releaseList off
    if l.any (fun c => decide (1024 ≤ c)) || l.eraseDups.length != l.length then some (trapOf 8 0x0C)
    else if (s.releasable l).isNone then some (trapOf 8 0x0C)
    else none

/-- A loaded team is released: its first cycle comes 360 ns later (R193, R376). -/
def State.releaseTeam (s : State) (id : Nat) : State :=
  let s := match s.team id with
    | some t => s.dropHamper t
    | none => s
  s.modTeam id (fun t => { t with state := .resident, dep := .none, loadTime := s.now - t.placed, saved := [] })

/-- RELEASE (R375, R376). -/
def execRelease (a : BitVec 6) (s : State) : Step :=
  s.guarded (.release a) (s.releaseCheck (s.rd a)) (fun s =>
    match s.releasable (s.releaseList (field (s.rd a) 62 0)) with
    | none => s
    | some t => s.releaseTeam t.id)

/-- The released team's cells have not begun; a stop or a yield asked of them meanwhile waits for their first bundle (R193, R376). -/
def State.beforeFirst (s : State) (t : Team) : Bool :=
  (t.state == .resident || t.state == .leaving || t.state == .ending) && t.cells.any (fun c => (s.core c).st == .free)

/-- The instruction waits in the CTL slot (R45). -/
def waitsInCtl (i : Instr) : Bool :=
  match i with
  | .wait .. => true
  | .waitpred => true
  | .bar scp => decide (1 ≤ scp.toNat) && decide (scp.toNat ≤ 3)
  | _ => false

/-- The CTL operation of the bundle at an address. -/
def State.ctlAt (s : State) (c pc : Nat) : Option Instr :=
  let h := s.codeWord c pc
  if headerOk h then s.aheadOp c h pc 0 else none

/-- The WAIT whose bundle ran just before PC: at the end of a loop's body where PC is its start and an iteration has ended, else the bundle that
ends at PC (R29). -/
def State.waitBefore (s : State) (c : Nat) : Option Instr :=
  let k := s.core c
  let wait (i : Instr) : Bool := i matches .wait ..
  let back : List Nat := ((List.range 11).filter (fun n =>
    decide (n < k.pc) && k.pc - 1 - n + 1 + payloadWords (s.codeWord c (k.pc - 1 - n)) == k.pc)).map (fun n => k.pc - 1 - n)
  let ends := match k.loops with
    | e :: _ => if e.start = k.pc ∧ e.index ≠ 0 then [e.stop] else back
    | [] => back
  (ends.filterMap (s.ctlAt c)).find? wait

/-- The waits of a core that was restored from the bytes of an image alone: those that SEQSTAT.WAITK shows, from what else the image holds and the
team's program. The limits of a WAIT that its program does not show are free values (R217, R321, R374, R434, R435; log 10). -/
def State.resumedWaits (s : State) (c : Nat) : Waits :=
  let k := s.core c
  let scope := [1, 2, 3].find? (fun scp => mapGet false k.arrived scp)
  let free (i : Nat) : BitVec 4 := BitVec.ofNat 4 (Config.resumedOperand k.pc i)
  let op := if k.rptLeft ≠ 0 then (s.ctlAt c k.pc).filter waitsInCtl
    else match k.waitk with
      | 1 => some ((s.waitBefore c).getD (.wait (free 0) (free 1) (free 2) (free 3)))
      | 2 => some .waitpred
      | 4 => scope.map (fun scp => .bar (BitVec.ofNat 3 scp))
      | _ => none
  let ring := match k.waitk, (k.latch 5).op with
    | 3, some (.rawait d h j) => some (.rawait d h j)
    | _, _ => none
  ⟨op, 0, ring, if ring.isSome then k.pc % 2 ^ 16 + k.skewOf 5 * 2 ^ 16 + s.engine c 5 * 2 ^ 22 else 0⟩

/-- A stopped BAR whose arrival bit a completion has cleared is over: its cell issues in its first resumed cycle (R321). -/
def Core.endBar (k : Core) : Core :=
  match k.waits.op with
  | some (.bar scp) => if mapGet false k.arrived scp.toNat then k else { k with waits := { k.waits with op := none, arg := 0 } }
  | _ => k

/-- A cell begins or resumes issue: a donor enters STATE 3, a halted cell stays halted, and a cell that a stop took from a wait
goes on waiting (R41, R376). Its bucket starts empty (R249, R451). -/
def Core.begin_ (k0 : Core) (donor : Bool) : Core :=
  let k := k0.endBar
  if k.st != .free then k0
  else { k with
    st := if donor then .donor else if k.activeWaits != Waits.none then .wait else .run
    waitk := if donor then 0 else k.activeWaits.code
    rcyc := 0
    ebal := 0
    charged := 0
    holdCyc := 0
    waitCyc := 0
    rec_ := none
    late := k.snapCauses ++ k.due.toList ++ k.late
    ueSnap := false
    due := none }

/-- The first cycle of a team: every cell begins in it, and the signal's START is its TSTAMP (R193, R376). A team that resumes with a
yield request kept by its forced stop is leaving again: the request stands for all its cells, so that the yield that lands is the team's
(R222; log 58: DESIGN CHOICE). -/
def State.firstCycle (s : State) (t : Team) : State :=
  let again := t.state == .resident && t.workers.any (fun c => (s.core c).yreq && (s.core c).st != .halted)
  let s := t.cells.foldl (fun (s : State) c =>
    let w := if (s.core c).waits == Waits.none then s.resumedWaits c else (s.core c).waits
    s.modCore c (fun k => { k with waits := w }.begin_ (t.donorCells.contains c))) s
  let s := if again then t.workers.foldl (fun (s : State) c => s.modCore c (fun k => if k.st == .halted then k else { k with yreq := true })) s else s
  s.modTeam t.id (fun t => { t with
    started := if t.started = 0 then s.now else t.started
    state := if again then .leaving else t.state
    dep := if again then .slice else t.dep
    asked := if again then s.now else t.asked })

/-- TEAM_FIRST_CYCLE (R376). -/
def execTeamFirstCycle (team : Nat) (s : State) : Step :=
  .next (match s.team team with
    | some t => if s.beforeFirst t && decide (t.placed + t.loadTime + 360 ≤ s.now) then s.firstCycle t else s
    | none => s)

/-! ## CTXS and CTXR -/

/-- CID of the target of CTXS or CTXR (R329). -/
def ctxCid (a : Word) : Nat := field a 9 0
/-- SP of the operand. -/
def ctxSp (a : Word) : Bool := bit a.toNat 16
/-- KIND of the operand. -/
def ctxKind (a : Word) : Nat := field a 18 17
/-- The key of the operand, if KV = 1. -/
def State.ctxKey (s : State) (a : Word) : Option Nat :=
  if bit a.toNat 19 then mapGet none s.sched.key (field a 26 20) else none

/-- The bytes lie within one row of HBM4 or the park tier (R329). -/
def State.inOneRow (s : State) (pa n : Nat) : Bool :=
  decide (mapRow pa < 3) && mapRow (pa + n - 1) == mapRow pa && (List.range (n / 4096)).all (fun i => !s.isHole (pa + 4096 * i))

/-- The common checks of R329 in their order, with the scratchpad bytes given. -/
def State.ctxCheck (s : State) (a b : Word) (kindOk : Bool) (splen : Nat) : Option Trap :=
  let pa := b.toNat
  if !isStoker s.ctx.cid then some (trapOf 3 0x00)
  else if s.owed.rpt != 0 || field a 15 10 != 0 || field a 63 27 != 0 || field b 63 52 != 0 || !kindOk then some trapEncoding
  else if pa % 4096 != 0 then some (trapAt 2 0x00 pa)
  else if !s.inOneRow pa (imageSize + splen) then some (trapAt 3 0x03 pa)
  else if bit a.toNat 19 && (s.ctxKey a).isNone then some (trapOf 0x10 0x00)
  else none

/-- A cell whose context CTXS may save: stopped, or a donor whose bound cells are all stopped (R330). -/
def State.savable (s : State) (c : Nat) : Bool :=
  match (s.core c).st with
  | .stopped => true
  | .donor =>
    match s.teamOf c with
    | none => false
    | some t => t.cells.all (fun q => (s.core q).st == .stopped || !([3, 4, 5].any (fun slot => q != c && s.engine q slot == c)))
  | _ => false

/-- Scratchpad bytes that CTXS saves. -/
def State.ctxsLen (s : State) (a : Word) : Nat := if ctxSp a then (s.core (ctxCid a)).spcap else 0

/-- SPLEN of the image that CTXR names, if it takes the scratchpad. -/
def State.ctxrLen (s : State) (a b : Word) : Nat := if ctxSp a then s.imageNat b.toNat (s.ctxKey a) 16 4 else 0

/-- The checks of CTXS (R329, R330). -/
def State.ctxsCheck (s : State) (a b : Word) : Option Trap :=
  firstTrap [s.ctxCheck a b (ctxKind a != 0) (s.ctxsLen a), if s.savable (ctxCid a) then none else some (trapIL 0x0F)]

/-- The checks of CTXR (R329, R331). -/
def State.ctxrCheck (s : State) (a b : Word) : Option Trap :=
  match s.ctxCheck a b (ctxKind a == 0) (s.ctxrLen a b) with
  | some t => some t
  | none => s.imageCheck b.toNat (s.ctxKey a) (ctxCid a) (ctxSp a)

/-- The stoker waits for its CTXS or CTXR, with both operands kept (R329). -/
def State.ctxWait (s : State) (i : Instr) (a b : Word) : State := s.atEnd i (a.toNat + 2 ^ 64 * b.toNat)

/-- CTXS issues (R329, R330). -/
def execCtxs (a b : BitVec 6) (s : State) : Step :=
  s.guarded (.ctxs a b) (s.ctxsCheck (s.rd a) (s.rd b)) (fun s => s.ctxWait (.ctxs a b) (s.rd a) (s.rd b))

/-- CTXR issues (R329, R331). -/
def execCtxr (a b : BitVec 6) (s : State) : Step :=
  s.guarded (.ctxr a b) (s.ctxrCheck (s.rd a) (s.rd b)) (fun s => s.ctxWait (.ctxr a b) (s.rd a) (s.rd b))

/-- The operand word that a stoker waiting in a CTXS or CTXR kept: sA. -/
def Core.ctxA (k : Core) : Word := word (k.waits.arg % 2 ^ 64)
/-- The same: sB. -/
def Core.ctxB (k : Core) : Word := word (k.waits.arg / 2 ^ 64)

/-- A stoker that waits in a CTXS (or, with `restore`, a CTXR) naming a cell. -/
def State.ctxStoker (s : State) (cid : Nat) (restore : Bool) : Option Nat :=
  (List.range 6).find? (fun n =>
    let k := s.core (1024 + n)
    (match k.waits.op with
    | some (.ctxs _ _) => !restore
    | some (.ctxr _ _) => restore
    | _ => false) && ctxCid k.ctxA == cid) |>.map (· + 1024)

/-- The stoker issues again. -/
def State.ctxDone (s : State) (stk : Nat) : State :=
  s.modCore stk (fun k => { k with st := .run, waits := Waits.none, waitk := 0 })

/-- CONTEXT_SAVE_COMPLETE: the CTXS that saves a cell ends, with every byte at home (R330). -/
def execContextSaveComplete (cid : Nat) (s : State) : Step :=
  .next (match s.ctxStoker cid false with
    | none => s
    | some stk =>
      if !s.mayLeave cid then s
      else
        let k := s.core stk
        (s.saveImage cid k.ctxB.toNat (ctxKind k.ctxA) (s.ctxsLen k.ctxA) (s.ctxKey k.ctxA)).ctxDone stk)

/-- Where a cell that an image names now stands, for an image of cell `a` restored on `b`: another cell of the team, under the CID that it had
before it moved. -/
def State.cellMove (s : State) (a b c : Nat) : Nat :=
  if c = a then b
  else (((s.teamOf b).bind (fun t => t.homes.find? (fun h => h.1 == c))).map Prod.snd).getD c

/-- CONTEXT_RESTORE_COMPLETE: the CTXR that restores a cell ends (R331). -/
def execContextRestoreComplete (cid : Nat) (s : State) : Step :=
  .next (match s.ctxStoker cid true with
    | none => s
    | some stk =>
      let k := s.core stk
      let pa := k.ctxB.toNat
      let key := s.ctxKey k.ctxA
      let v := s.imageAt pa key cid (s.ctxrLen k.ctxA k.ctxB)
      (s.restoreCell v (s.cellMove (s.imageNat pa key 10 2) cid) cid (ctxSp k.ctxA)).ctxDone stk)

end Sys2Proof.Machine
end

