-- ==== Sys2Proof/Machine/Bundle.lean ====
section
/-!
DEFINITION. Machine/Bundle.lean: the sequencer (R29 to R38, R45 to R47, R204, R256, R292, R293, R306): fetching a bundle, its
checks in their order, the holds, issuing its operations, the end of a bundle, waits and the return to issue.
-/
namespace Sys2Proof.Machine

/-! ## Registers that an operation names (R47) -/

/-- Scalar registers that an instruction reads or writes. -/
def scalarRegs (i : Instr) : List (BitVec 6) :=
  match i with
  | .br _ c _ => [c]
  | .bri _ c b => [c, b]
  | .call d _ => [d]
  | .ret a | .loopReg a _ | .release a => [a]
  | .ctxs a b | .ctxr a b => [a, b]
  | .addSr d a b _ | .subSr d a b _ | .mulSr d a b _ | .mulh d a b _ | .div d a b _ | .rem d a b _ | .andSr d a b _ | .orSr d a b _
  | .xorSr d a b _ | .andnSr d a b _ | .shlSr d a b _ | .shrSr d a b _ | .sraSr d a b _ | .minSr d a b _ | .maxSr d a b _
  | .cmpSc d a b _ => [d, a, b]
  | .addSi d a _ | .subSi d a _ | .mulSi d a _ | .andSi d a _ | .orSi d a _ | .xorSi d a _ | .andnSi d a _ | .shlSi d a _
  | .shrSi d a _ | .sraSi d a _ | .minSi d a _ | .maxSi d a _ | .cmpSci d a _ _ | .clz d a _ | .popc d a _ | .tagl d a
  | .qpoll d a => [d, a]
  | .sel d a b c => [d, a, b, c.zeroExtend 6]
  | .movSm d a _ => [d, a]
  | .movSwi d _ | .movh d _ => [d]
  | .ext d a _ _ | .ins d a _ _ => [d, a]
  | .ld d a _ _ _ _ _ => [d, a]
  | .st d a _ _ _ _ => [d, a]
  | .amo d a _ _ _ _ => [d, a]
  | .cas d a _ _ _ _ => [d, d + 1, a]
  | .tags a b => [a, b]
  | .tagi a => [a]
  | .mfsr d _ => [d]
  | .mtsr a _ => [a]
  | .sigw a b => [a, b, b + 1, b + 2, b + 3]
  | .sfmtReg a | .sscl a _ | .sswzReg a => [a]
  | .sunf a b => [a, b]
  | .vthr f | .vbcst f => [f.b]
  | .vld f | .vst f => [f.a]
  | .vgth f | .vsct f => [f.a]
  | .mma f | .mmas f => [f.o]
  | .mrdacc f => [f.e]
  | .xstart _ dr _ _ _ => [dr]
  | .xgath dr _ _ | .xcoll dr _ _ => [dr]
  | .xskew d => [d]
  | .rawait d _ _ => [d]
  | .invr d a v l => [d, a, v, l]
  | _ => []

/-- The fields of a VA operation that name vector registers: its destination, and the sources that its entry reads from registers (R47, R300, R302,
R399). -/
def vaRegs (op : VAOp) (f : FieldsVA) : List (BitVec 6) :=
  let src (n : Nat) (r : BitVec 6) : List (BitVec 6) := if f.chs.toNat == n then [] else [r]
  match op with
  | .vcmp => src 1 f.a ++ src 2 f.b
  | .vthr => f.d :: src 1 f.a
  | .vbcst | .vidx => [f.d]
  | .vfma => f.d :: (src 1 f.a ++ src 2 f.b ++ src 3 f.c)
  | .vadd | .vsub | .vmul | .vdiv | .vmin | .vmax | .vsel | .vand | .vor | .vxor | .vshl | .vshr | .vperm => f.d :: (src 1 f.a ++ src 2 f.b)
  | .vsqrt | .vrsq | .vexp | .vabs | .vneg | .vcvt | .vqnt | .vamax | .vred | .vmov => f.d :: src 1 f.a

/-- Vector registers that an instruction reads or writes. -/
def vectorRegs (i : Instr) : List (BitVec 6) :=
  match i with
  | .vld f | .vst f => [f.d]
  | .vgth f | .vsct f => [f.d, f.b]
  | .mrdacc f => [f.d]
  | i =>
    match vaParts i with
    | some (op, f) => vaRegs op f
    | none => []

/-- The operation's scalar base stands in its latch when it is re-issued: it is read only where the operation is encoded (R306). -/
def baseInLatch (i : Instr) : Bool :=
  match i with
  | .vld _ | .vst _ | .mma _ | .mmas _ => true
  | _ => false

/-- A register that is pending: class 0 scalar, 1 vector; the core that holds it; its number. -/
abbrev PendReg := Nat × Nat × Nat

/-- The scoreboarded destination of a result in flight. -/
def Flight.pendReg (f : Flight) (c : Nat) : Option PendReg :=
  if !f.sb then none
  else match f.dest with
    | .scalar r => some (0, c, r)
    | .vector r => if f.landed then none else some (1, f.eng, r)
    | _ => none

/-- The scoreboarded destination of an operation that waits in a buffer: a done register, and that of a vector load of which a byte is
remote, as its registers stand, or that a fence holds (R47, R162, R413). -/
def State.waitingReg (s : State) (c : Nat) (w : Waiting) : Option PendReg :=
  if w.held then none
  else match w.op with
    | .xstart _ dr _ _ _ => some (0, c, dr.toNat)
    | .xgath dr _ _ => some (0, c, dr.toNat)
    | .xcoll dr _ _ => some (0, c, dr.toNat)
    | .vld f =>
      if s.isLocal c w.eng (addrCell w.eng (f.g == 1) w.x0) && !s.fenced c w.seq w.bun false then none else some (1, w.eng, f.d.toNat)
    | .vgth f =>
      if (s.laneAddrs w f).all (fun p => s.laneLocal c w f p.2) && !s.fenced c w.seq w.bun false then none else some (1, w.eng, f.d.toNat)
    | _ => none

/-- The scoreboarded destinations of a core's operations that have issued and not been written (R47). -/
def State.pendingRegs (s : State) (c : Nat) : List PendReg :=
  (s.core c).flights.filterMap (fun f => f.pendReg c) ++ (s.core c).queue.filterMap (s.waitingReg c)

/-- The operations whose pending destinations stand in a list. -/
def State.pendingOps (s : State) (c : Nat) (l : List PendReg) : List Nat :=
  ((s.core c).flights.filter (fun f => (f.pendReg c).any l.contains)).map Flight.seq
    ++ ((s.core c).queue.filter (fun w => (s.waitingReg c w).any l.contains)).map Waiting.seq

/-- The registers that an operation of an execution names, as pending registers are named. -/
def State.namedRegs (s : State) (c : Nat) (p : PendOp) : List PendReg :=
  (if p.reissue && baseInLatch p.op then [] else (scalarRegs p.op).map (fun r => (0, c, r.toNat)))
    ++ (vectorRegs p.op).map (fun r => (1, s.engine c p.slot, r.toNat))

/-! ## Fetch and decode (R292, R293, R308) -/

/-- A cause that the fetch or the decoding of a bundle finds (R207, R209). -/
def State.fetchCause (s : State) (c slot opc info : Nat) (t : Trap) : Cause :=
  { seq := s.seq + 1, cls := t.cls, detail := t.detail, async := false, bound := false, ecid := c, ipc := (s.core c).pc,
    slot := slot, opc := opc, xv := false, xslot := 0, move := 0, kv := false, kstep := 0, vav := false, addr := 0,
    info := if t.cls == 1 then info % 2 ^ 32 else 0 }

/-- The opcode of a payload (R293). -/
def payloadOpcode (slot v : Nat) : Nat := if slotWords slot == 1 then v / 2 ^ 24 else v / 2 ^ 56

/-- The opcode is marked † in its slot's map (R296, R298, R304). -/
def daggered (slot op : Nat) : Bool :=
  match slot with
  | 0 => op == 0x10 || op == 0x11 || op == 0x12
  | 1 => op == 0x32 || op == 0x33
  | 2 => op == 0x32 || op == 0x33
  | 5 => op == 0x09
  | _ => false

/-- One present payload decoded, or its trap (R293, R308). VQNT's format is checked ahead of its fields (R424). -/
def State.decodeSlot (s : State) (c h slot : Nat) : Cause ⊕ PendOp :=
  let v := s.payload c h (s.core c).pc slot
  let op := payloadOpcode slot v
  let bad (t : Trap) : Cause ⊕ PendOp := .inl (s.fetchCause c slot op v t)
  if isStoker c && (slot == 3 || slot == 4 || slot == 6) then bad (trapIL 0x0D)
  else if !isStoker c && daggered slot op then bad (trapOf 3 0x00)
  else match decode (slotFormat slot) v with
    | .bad e =>
      if slot == 3 && op == 0x16 && !vaAccepts .vqnt (fldVA v) (s.core c).fmt then bad (trapIL 0x07)
      else bad (if e = .chain then trapIL 0x04 else trapEncoding)
    | .ok .eret => if payloadWords h == 1 && headerRpt h == 0 then .inr ⟨slot, false, .eret⟩ else bad trapEncoding
    | .ok i => .inr ⟨slot, false, i⟩

/-- The operations of a decoded bundle. -/
def decodedOps (l : List (Cause ⊕ PendOp)) : List PendOp :=
  l.filterMap (fun x => match x with
    | .inl _ => none
    | .inr p => some p)

/-- The causes that its decoding found. -/
def decodedBad (l : List (Cause ⊕ PendOp)) : List Cause :=
  l.filterMap (fun x => match x with
    | .inl c => some c
    | .inr _ => none)

/-- An uncorrectable error stands in a word of the bundle (R292). -/
def State.codeUe (s : State) (c pc n : Nat) : Bool :=
  if isStoker c then s.ueIn (localKey c (4 * pc)) (4 * n) else (s.core c).ueImem.any (fun w => decide (pc ≤ w) && decide (w < pc + n))

/-- The bundle at PC decoded: the operations of its present slots in slot order, each or the cause that its payload raises (R292, R205). -/
def State.fetch (s : State) (c : Nat) : Cause ⊕ List (Cause ⊕ PendOp) :=
  let pc := (s.core c).pc
  let h := s.codeWord c pc
  let n := 1 + payloadWords h
  let head (t : Trap) : Cause ⊕ List (Cause ⊕ PendOp) := .inl (s.fetchCause c 7 0 h t)
  if codeLimit c ≤ pc || !headerOk h then head trapEncoding
  else if codeLimit c < pc + n then head trapEncoding
  else if s.codeUe c pc n then head (trapOf 5 0x01)
  else .inr (((List.range 7).filter (present h)).map (s.decodeSlot c h))

/-! ## Sticky slots (R34, R306) -/

/-- A 6-bit stride in units of 64 bytes. -/
def strideOf (x : BitVec 6) : Int := 64 * x.toInt

/-- A latch stepped for a later execution (R306). -/
def Latch.stepped (l : Latch) : Latch :=
  let add (x : BitVec 6) : Nat := wrapInt 32 ((l.addr : Int) + strideOf x)
  match l.op with
  | some (.vld f) => { l with addr := add f.str }
  | some (.vst f) => { l with addr := add f.str }
  | some (.mma f) => { l with addr := add f.bstr, k0 := (l.k0 + 32 * (f.ks.toNat + 1)) % 2 ^ 32 }
  | some (.mmas f) => { l with addr := add f.bstr, k0 := (l.k0 + 32 * (f.ks.toNat + 1)) % 2 ^ 32 }
  | some (.mldacc f) => { l with addr := add f.str }
  | some (.mstacc f) => { l with addr := add f.str }
  | some (.xstart _ _ _ str _) => { l with addr := add str }
  | _ => l

/-- The operations that an execution re-issues from its latches: those of the slots that `enc` does not encode (R34). -/
def Core.reissues (k : Core) (enc : Nat → Bool) : List PendOp :=
  [1, 2, 3, 4, 5].filterMap (fun slot => if enc slot then none else (k.latch slot).op.map (fun i => ⟨slot, true, i⟩))

/-- The latches of those slots stepped. -/
def Core.stepLatches (k : Core) (enc : Nat → Bool) : Core :=
  [1, 2, 3, 4, 5].foldl (fun k slot =>
    if enc slot || (k.latch slot).op.isNone then k else k.setLatch slot (k.latch slot).stepped) k

/-- The operations of an execution by slot order, sorted from encoded and re-issued ones. -/
def bySlot (l : List PendOp) : List PendOp := (List.range 7).flatMap (fun slot => l.filter (fun p => p.slot == slot))

/-- The bundle carries ERET: no latch re-issues in its execution (R336). -/
def carriesEret (l : List PendOp) : Bool := l.any (fun p => p.op == .eret)

/-! ## Checks of operands -/

/-- The checks at issue of an instruction in its slot. -/
def State.opCheck (s : State) (i : Instr) : Option Trap :=
  match i with
  | .release a => s.releaseCheck (s.rd a)
  | .ctxs a b => s.ctxsCheck (s.rd a) (s.rd b)
  | .ctxr a b => s.ctxrCheck (s.rd a) (s.rd b)
  | .mfsr .. => sysCheck i s
  | .mtsr .. => sysCheck i s
  | .tagl .. => tagCheck i s
  | .tags .. => tagCheck i s
  | .tagi .. => tagCheck i s
  | .ld .. => memCheck i s
  | .st .. => memCheck i s
  | .amo .. => memCheck i s
  | .cas .. => memCheck i s
  | .qpoll .. => memCheck i s
  | .sigw .. => memCheck i s
  | .invr _ a v l => invrCheck i a v l s
  | .nopS => none
  | .nopCtl => none
  | i =>
    match s.ctx.slot with
    | 0 => ctlCheck i s
    | 1 => scalarCheck i
    | 2 => scalarCheck i
    | 3 => vecCheck i s
    | 4 => matCheck i s
    | 5 => xfrCheck i s
    | _ => cfgCheck i s

/-- The state in which one operation of a bundle is checked or executes. -/
def State.atOp (s : State) (p : PendOp) : State := { s with ctx := { s.ctx with slot := p.slot, reissue := p.reissue } }

/-- The causes that the operations of an execution raise at issue, in slot order (R205). -/
def State.issueCauses (s : State) (ops : List PendOp) : List Cause :=
  ops.filterMap (fun p => ((s.atOp p).opCheck p.op).map ((s.atOp p).issueCause p.op))

/-- Causes in slot order (R205). -/
def causesBySlot (l : List Cause) : List Cause := (List.range 7).flatMap (fun slot => l.filter (fun x => x.slot == slot))

/-- The causes that a bundle raises in slot order: those of its decoding and those of its operations' checks (R205). -/
def State.bundleCauses (s : State) (ops : List PendOp) (bad : List Cause) : List Cause := causesBySlot (bad ++ s.issueCauses ops)

/-- The checks of an operation that need no operand value and are made as the bundle is decoded, ahead of every hold: those on the bundle's RPT,
those of ERET, and INVR's first two steps where its operands are not pending (R320, R323, R336, R341). `regs` are the pending registers. -/
def State.decodeCheck (s : State) (regs : List PendReg) (i : Instr) : Option Trap :=
  let free (l : List (BitVec 6)) : Bool := l.all (fun r => r == 0 || !regs.contains (0, s.ctx.cid, r.toNat))
  match i with
  | .eret => ctlCheck i s
  | .invr _ a v l => if isStoker s.ctx.cid && s.owed.rpt == 0 && !free [v, l] then none else invrCheck i a v l s
  | .br .. | .bri .. | .call .. | .ret .. | .halt | .yield | .wait .. | .waitpred | .handoff => ctlCheck i s
  | .loopReg .. | .loopImm .. => encodingCheck (s.owed.rpt == 0 && WellFormed i)
  | _ => none

/-- The causes that the decoding of a bundle raises in slot order. -/
def State.decodeCauses (s : State) (ops : List PendOp) (bad : List Cause) : List Cause :=
  let regs := if ops.any (fun p => p.op matches .invr ..) then s.pendingRegs s.ctx.cid else []
  causesBySlot (bad ++ ops.filterMap (fun p =>
    if p.reissue then none else ((s.atOp p).decodeCheck regs p.op).map ((s.atOp p).issueCause p.op)))

/-! ## Holds (R45) -/

/-- The operation is one of a slot with an elastic buffer. -/
def queued (p : PendOp) : Bool :=
  match p.op with
  | .nopVec => false
  | .nopMat => false
  | .nopXfr => false
  | .rawait .. => false
  | .invr .. => false
  | _ => p.slot == 3 || p.slot == 4 || p.slot == 5

/-- A scalar access of a cell by its address operand, with G and its bytes; none for other instructions. -/
def scalarAccess (i : Instr) : Option (BitVec 6 × Bool × Nat) :=
  match i with
  | .ld _ a sz _ _ _ g => some (a, g == 1, 2 ^ sz.toNat)
  | .st _ a sz _ _ g => some (a, g == 1, 2 ^ sz.toNat)
  | .amo _ a _ w _ _ => some (a, true, atomicBytes w)
  | .cas _ a w _ _ _ => some (a, true, atomicBytes w)
  | _ => none

/-- The physical place and size of a cell's scalar access. -/
def State.scalarPlace (s : State) (p : PendOp) : Option (Nat × Nat) :=
  if isStoker s.ctx.cid then none
  else (scalarAccess p.op).map (fun x => (s.scalarHome x.2.1 (s.rd x.1), x.2.2))

/-- The operation is a scalar store. -/
def isStore (i : Instr) : Bool :=
  match i with
  | .st .. => true
  | _ => false

/-- Remote accesses of a vector operation: one for a block of another cell's scratchpad, and one for each remote active lane of a gather or
scatter, as its registers stand at issue (R256, R413; log 55). -/
def State.remoteParts (s : State) (p : PendOp) : Nat :=
  let c := s.ctx.cid
  let e := s.engine c 3
  let far (f : FieldsVM) : Nat := flag (!s.isLocal c e (addrCell e (f.g == 1) ((s.atOp p).vmAddr f)))
  let lanes (f : FieldsVG) : Nat :=
    (activeLanes ((s.core e).pred f.p.toNat)).countP (fun l =>
      !s.isLocal c e (addrCell e (f.g == 1) (wrapInt 32 (((s.rd f.a).toNat : Int) + ((s.core e).lane f.b.toNat l).toInt))))
  match p.op with
  | .vld f => far f
  | .vst f => far f
  | .vgth f => lanes f
  | .vsct f => lanes f
  | _ => 0

/-- Remote scratchpad accesses of an operation of an execution (R256). -/
def State.remoteOf (s : State) (p : PendOp) : Nat :=
  match s.scalarPlace p with
  | some (pa, _) => flag (!s.ownPlace pa)
  | none => s.remoteParts p

/-- Remote scratchpad accesses that the operations of an execution issue (R256). -/
def State.remoteCount (s : State) (ops : List PendOp) : Nat := ops.foldl (fun n p => n + s.remoteOf p) 0

/-- K-steps of an MMA or MMAS. -/
def kSteps (i : Instr) : Nat :=
  match i with
  | .mma f => f.ks.toNat + 1
  | .mmas f => f.ks.toNat + 1
  | _ => 0

/-- What an execution costs its bucket (R256). -/
def State.bundleCost (s : State) (ops : List PendOp) : Nat :=
  let e (n : Nat) : Nat := mapGet 0 s.cur.ecost n
  e 0 + (if ops.any (fun p => p.slot == 3 && queued p) then e 1 else 0)
    + e 2 * (ops.foldl (fun n p => n + kSteps p.op) 0) + e 4 * s.remoteCount ops

/-- The counter of R46 in which an operation of the execution rises. -/
def State.counterAt (s : State) (p : PendOp) : Counter :=
  match s.scalarPlace p with
  | some (pa, _) => if s.ownPlace pa then .none else if isStore p.op then .st else .ld
  | none => counterOf p.op

/-- Results that an operation adds to those in flight: two for MRDACC (R71). One that writes no register and no done register, completes no token
and counts in no counter adds none. -/
def resultsOf (p : PendOp) : Nat :=
  match p.op with
  | .mrdacc _ => 2
  | .nopS => 0
  | .mtsr .. => 0
  | .tags .. => 0
  | .tagi .. => 0
  | .rawait .. => 1
  | .rrel .. => 0
  | .xkill .. => 0
  | .mabort _ t => flag (t.tp != 0)
  | .xstep _ _ t => flag (t.tp != 0)
  | i => if queued p then 1 else if (p.slot == 1 || p.slot == 2) then 1 else if (match i with | .call .. => true | _ => false) then 1 else 0

/-- Results not yet written (R71): those in flight, the held entries of a handler, the operations that still wait, and the register of an
XFR wait; not those of a transfer that ran on past a stop. -/
def Core.inFlight (k : Core) : Nat :=
  (k.flights.filter (fun f => !f.ran) ++ k.hand.held).foldl (fun n f => n + f.entryCount) 0 + k.queue.foldl (fun n w => n + resultsOf ⟨w.slot, false, w.op⟩) 0
    + flag k.waits.ring.isSome

/-- The counter of R46 would pass 63 with an execution. -/
def State.counterFull (s : State) (ops : List PendOp) (c : Counter) : Bool :=
  let n := ops.countP (fun p => s.counterAt p == c)
  n != 0 && decide (63 < s.cur.counter c + n)

/-- A slot's buffer holds 16 operations and the execution sends it another (R37). -/
def State.slotFull (s : State) (ops : List PendOp) (slot : Nat) : Bool :=
  ops.any (fun p => p.slot == slot && queued p) && decide (16 ≤ s.cur.queue.countP (fun w => w.slot == slot))

/-- The tokens that an execution produces and whose counts it would take past 15 (R123). -/
def Core.toksFull (k : Core) (ops : List PendOp) : List Nat :=
  let toks := (ops.map (fun p => (tokensOf p.op).tp.toNat)).filter (· != 0)
  toks.filter (fun t => decide (15 < k.tokCount t + toks.count t))

/-- The execution would take the results in flight past 64 (R71). A store to the cell's own scratchpad has none. -/
def State.resultsFull (s : State) (ops : List PendOp) : Bool :=
  let l := ops.filter (fun p => !(isStore p.op && s.counterAt p == .none))
  decide (64 < s.cur.inFlight + l.foldl (fun n p => n + resultsOf p) 0)

/-- What a buffer-full hold of an execution waits for, one of several (R37, R46, R71, R123): none where it is not held; otherwise the operations
that keep the counters, the buffers, the tokens and the results that are full. -/
def State.bufferFull (s : State) (ops : List PendOp) : Option (List Nat) :=
  let k := s.cur
  let counts := [Counter.ld, .st, .cp, .tl].filter (s.counterFull ops)
  let slots := [3, 4, 5].filter (s.slotFull ops)
  let toks := k.toksFull ops
  let many := s.resultsFull ops
  if counts.isEmpty && slots.isEmpty && toks.isEmpty && !many then none
  else some (
    (k.queue.filter (fun w => many || counts.contains (counterOf w.op) || slots.contains w.slot)).map Waiting.seq
      ++ (k.flights.filter (fun f => many || counts.contains f.cnt)).map Flight.seq
      ++ (k.prods.filter (fun p => toks.contains p.tok)).map Producer.seq)

/-- Accesses of a cell in its remote request queue: the remote reads that have not performed, and the remote stores that nothing keeps in
the write queue (R198, log 51). -/
def State.requests (s : State) (c : Nat) : Nat :=
  ((((s.reads.filter (fun r => r.cid == c && r.remote)).map PendRead.seq)
    ++ (s.writes.filter (fun w => w.cid == c && !w.ofEngine && w.place == .queue && !s.writeHeld w
          && !w.bytes.all (fun p => regionOf p.1 == .scratch && spCell p.1 == w.own))).map PendWrite.seq).eraseDups).length

/-- A DRAIN of the execution itself will hold its stores (R161, R334). -/
def State.drainHolds (s : State) (ops : List PendOp) : Bool :=
  ops.any (fun p => match p.op with
    | .drain ord scp => if ord == 1 then !s.readsDone s.ctx.cid (s.seq + 1) else !s.priorDone s.ctx.cid (s.seq + 1) scp.toNat
    | _ => false)

/-- An operation of an execution takes an entry of the write queue: a store to another cell's scratchpad, or one that stays there, held by an
order or behind an earlier access to its bytes (R150, R153, R162). -/
def State.takesEntry (s : State) (ops : List PendOp) (p : PendOp) : Bool :=
  let c := s.ctx.cid
  let held := s.fenced c (s.seq + 1) s.seq true || s.drainHolds ops
  let behind (pa n : Nat) : Bool :=
    s.writes.any (fun w => w.cid == c && !w.ofEngine && w.touches pa n) || s.vecAhead c (s.seq + 1) s.seq true pa n
      || s.rowsAhead c (s.seq + 1) pa n || s.reads.any (fun r => r.cid == c && overlaps (canonical r.addr) r.kind.size pa n)
  match p.op with
  | .st _ _ _ ord _ _ => s.remoteOf p != 0 || 2 ≤ ord.toNat || held || (s.scalarPlace p).any (fun q => behind q.1 q.2)
  | .vst _ => s.remoteOf p != 0 || held
  | .vsct _ => s.remoteOf p != 0 || held
  | _ => false

/-- A full inter-unit queue holds the bundle (R150, R198): the write queue for stores that take an entry of it, the remote request queue
for remote accesses; each access takes one entry. -/
def State.queueFull (s : State) (c : Nat) (ops : List PendOp) : Bool :=
  let stores := ops.countP (s.takesEntry ops)
  let remotes := ops.countP (fun p => s.remoteOf p != 0)
  !isStoker c && ((stores != 0 && decide (32 < s.queuedStores c + stores)) || (remotes != 0 && decide (16 < s.requests c + remotes)))

/-- A scalar load or store of an execution to the cell's own scratchpad: its place, its size, and whether it stores. -/
def State.localRuns (s : State) (ops : List PendOp) : List (Nat × Nat × Bool) :=
  (ops.filter (fun p => match p.op with
    | .ld .. => true
    | .st .. => true
    | _ => false)).filterMap (fun p => (s.scalarPlace p).bind (fun q => if s.ownPlace q.1 then some (q.1, q.2, isStore p.op) else none))

/-- The operations for which a scalar load or store of an execution waits: earlier vector accesses to its bytes, and earlier MSTACCs with rows
to store there (R153, R156, R345, R392; log 27). `t` is the state at the beginning of the cycle: an access that starts only now has not
performed. -/
def State.scalarWaits (s t : State) (c : Nat) (ops : List PendOp) : List Nat :=
  if t.leftBehind c then []
  else (s.localRuns ops).flatMap (fun r =>
    ((t.core c).queue.filter (fun w => w.slot == 3 && (t.core c).bearsOn w.held (s.seq + 1) && w.precedes (s.seq + 1) s.seq r.2.2
        && t.vecTouches c w r.1 r.2.1)).map Waiting.seq
      ++ (t.mat.filter (fun m => m.owner == c && (t.core c).bearsOn (m.held == 4) (s.seq + 1) && m.storesTo r.1 r.2.1)).map MatOp.seq)

/-- The cycle of that hold: frozen while the device works on what it waits for, or where the access that is late starts now; a cycle of the
schedule otherwise (log 6). -/
def State.accessCycle (s t : State) (c : Nat) (ops : List PendOp) : State :=
  let l := s.scalarWaits t c ops
  let starts := (t.core c).queue.any (fun w => l.contains w.seq && decide (0 < w.late) && !(s.core c).queue.any (fun v => v.seq == w.seq))
  if starts || s.deviceBound c l then t.frozenCycle c 6 true else s.heldCycle c 6

/-- ERET waits until every operation that the handler issued has written its result, its transfers among them (R212). -/
def State.eretWaits (s : State) (c : Nat) (ops : List PendOp) : Bool :=
  let k := s.core c
  carriesEret ops && (k.flights.any (fun f => !f.ofTransfer || decide (k.hand.since < f.seq)) || k.queue.any (fun w => !w.held))

/-- The registers of a list that an execution names (R47). -/
def State.named (s : State) (c : Nat) (ops : List PendOp) (l : List PendReg) : List PendReg :=
  l.filter (fun r => (r.1 != 0 || r.2.2 != 0) && ops.any (fun p => (s.namedRegs c p).contains r))

/-- The scoreboard hold (R47, R212). -/
def State.scoreHold (s : State) (c : Nat) (ops : List PendOp) : Bool :=
  !(s.named c ops (s.pendingRegs c)).isEmpty || s.eretWaits c ops

/-- The operations for which the scoreboard hold waits. -/
def State.scoreWaits (s : State) (c : Nat) (ops : List PendOp) : List Nat :=
  let k := s.core c
  s.pendingOps c (s.named c ops (s.pendingRegs c))
    ++ (if s.eretWaits c ops then k.flights.map Flight.seq ++ (k.queue.filter (fun w => !w.held)).map Waiting.seq else [])

/-- A cycle of a hold that waits for operations of the cell: frozen while the device works on one of them, and a cycle of the schedule where only
that brings them on (R32, log 6). `t` is the state at the beginning of the cycle. -/
def State.holdCycle (s t : State) (c waitk : Nat) (l : List Nat) : State :=
  if s.deviceBound c l then t.frozenCycle c waitk else s.heldCycle c waitk

/-- A CTXS or CTXR of an execution names a cell on which another stoker's is under way (R329). -/
def State.ctxBusy (s : State) (c : Nat) (ops : List PendOp) : Bool :=
  let busy (a : BitVec 6) : Bool := (s.ctxStoker (ctxCid (s.rd a)) false).isSome || (s.ctxStoker (ctxCid (s.rd a)) true).isSome
  isStoker c && ops.any (fun p => match p.op with
    | .ctxs a _ => busy a
    | .ctxr a _ => busy a
    | _ => false)

/-- The holds that come before the checks of operands (log 5): 5 and 9. A CTXS or CTXR behind another one on its cell is checked once that
one has completed (R329, log 31). -/
def State.holdBefore (s : State) (c : Nat) (ops : List PendOp) : Nat :=
  if s.scoreHold c ops || s.ctxBusy c ops then 5 else if s.queueFull c ops then 9 else 0

/-- An INVR of an execution waits for the stoker's earlier one (R109, R341). -/
def State.invrPending (s : State) (c : Nat) (ops : List PendOp) : Bool :=
  s.invrs.any (fun q => q.stk == c) && ops.any (fun p => match p.op with
    | .invr .. => true
    | _ => false)

/-- A stoker's access of an execution to host memory waits for the Unulo link to train (R172, R285). -/
def State.hostPending (s : State) (c : Nat) (ops : List PendOp) : Bool :=
  let far (a : BitVec 6) : Bool := regionOf (stokerAddr c (s.rd a)) == .host
  isStoker c && !s.hostUp && ops.any (fun p => match p.op with
    | .ld _ a _ _ _ _ _ => far a
    | .st _ a _ _ _ _ => far a
    | .amo _ a _ _ _ _ => far a
    | .cas _ a _ _ _ _ => far a
    | .sigw a _ => regionOf (field (s.rd a) 51 0) == .host
    | _ => false)

/-- The holds that come after them: 5 for an INVR behind another and for a link that is down, 6, 8 and 7. -/
def State.holdAfter (s t : State) (c : Nat) (ops : List PendOp) : Nat :=
  if s.invrPending c ops || s.hostPending c ops then 5
  else if !(s.scalarWaits t c ops).isEmpty then 6
  else if (s.bufferFull ops).isSome then 8
  else if !isStoker c && !(s.core c).affords (s.bundleCost ops) then 7
  else 0

/-! ## Issue -/

/-- The order in which the operations of an execution take effect: DRAIN draws its boundary and CALL leaves its link first, then the scalar
slots and the engines in slot order, then the other CTL operations. -/
def issueOrder (l : List PendOp) : List PendOp :=
  let early (p : PendOp) : Bool := match p.op with
    | .drain .. => true
    | .call .. => true
    | _ => false
  l.filter early ++ l.filter (fun p => p.slot != 0) ++ l.filter (fun p => p.slot == 0 && !early p)

/-- The state in which an execution of the bundle at PC is checked: its context, and its latches stepped. `t` is the state
at the beginning of the cycle. -/
def State.prepare (s t : State) (c : Nat) (enc : Nat → Bool) (eret : Bool) : State :=
  let k := s.core c
  let h := s.codeWord c k.pc
  let s := if eret then s else s.modCore c (fun k => k.stepLatches enc)
  { s with
    ctx := ⟨c, 0, k.pc, s.seq, false, false, (List.range 8).map (mapGet 0 (t.core c).evcnt)⟩
    owed := ⟨true, true, k.pc + 1 + payloadWords h, headerRpt h, headerIb h && k.rptLeft == 0, none, false⟩ }

/-- The words of the bundle at `pc` are read: one-bit errors in a cell's instruction memory are corrected and counted (R95). -/
def State.scrubCode (s : State) (c pc : Nat) : State :=
  let n := 1 + payloadWords (s.codeWord c pc)
  let hit (w : Nat) : Bool := decide (pc ≤ w) && decide (w < pc + n)
  if (s.core c).ceImem.any hit then
    (s.count c 0x15 ((s.core c).ceImem.countP hit)).modCore c (fun k => { k with ceImem := k.ceImem.filter (fun w => !hit w) })
  else s

/-- An operation other than a nop stands in the MAT slot. -/
def PendOp.onMat (p : PendOp) : Bool := p.slot == 4 && p.op != .nopMat

/-- The execution issues (R35): the remaining count, the energy charged, and the operations handed to the present step. -/
def State.commit (s : State) (c : Nat) (ops : List PendOp) : State :=
  let cost := if isStoker c then 0 else s.bundleCost ops
  let rpt := s.owed.rpt
  let ib := s.owed.ib
  let s := s.modCore c (fun k =>
    let k := if isStoker c then k else k.charge cost
    { k with
      st := .run
      waitk := 0
      holdCyc := 0
      waitCyc := 0
      rptLeft := if k.rptLeft = 0 then rpt else k.rptLeft - 1
      lastIb := if ib then k.cyc + 1 else k.lastIb })
  { (s.count c 0x03 1).scrubCode c s.ctx.ipc with
    ops := issueOrder ops, ctx := { s.ctx with checked := true }, matNow := if ops.any PendOp.onMat then c :: s.matNow else s.matNow }

/-- What comes next at PC: its operations, the slots that it encodes, and the causes that its decoding found. -/
structure Execution where
  ops : List PendOp
  enc : List Nat
  bad : List Cause
  deriving DecidableEq, Repr

/-- The execution that comes next at PC, or the cause that its header raises; a later execution of a repeated bundle encodes no slot (R34,
R35). -/
def State.execution (s : State) (c : Nat) : Cause ⊕ Execution :=
  let k := s.core c
  if k.rptLeft ≠ 0 then .inr ⟨k.reissues (fun _ => false), [], []⟩
  else match s.fetch c with
    | .inl x => .inl x
    | .inr l =>
      let ops := decodedOps l
      let bad := decodedBad l
      let enc := ops.map PendOp.slot ++ bad.map Cause.slot
      .inr ⟨if carriesEret ops then ops else bySlot (ops ++ k.reissues enc.contains), enc, bad⟩

/-- The stop before a bundle whose checks failed, with the causes that waited (R204, R205). -/
def State.stopBefore (s : State) (c : Nat) (x : Cause) (l : List Cause) : State :=
  let late := (s.core c).late
  { s.landStop c (earliest x late) (late.length + l.length) false with ops := [], owed := Owed.none }

/-- The rest of an issue once the bundle has been fetched: the checks of decoding, holds 5 and 9, the checks of operands, the other holds, and
the issue itself (log 5: DEDUCED). `t` is the state at the beginning of the cycle, which a frozen cycle goes on from. -/
def State.issueOps (s t : State) (c : Nat) (e : Execution) : State :=
  let ops := e.ops
  let p := s.prepare t c e.enc.contains (carriesEret ops)
  match p.holdBefore c ops, p.decodeCauses ops e.bad with
  | 5, [] => s.holdCycle t c 5 (p.scoreWaits c ops)
  | 9, [] => if s.accessMoves c then t.frozenCycle c 9 else s.heldCycle c 9
  | 5, x :: l => s.stopBefore c x l
  | 9, x :: l => s.stopBefore c x l
  | _, _ =>
    match p.bundleCauses ops e.bad with
    | x :: l => s.stopBefore c x l
    | [] =>
      match p.holdAfter t c ops with
      | 0 => p.commit c ops
      | 6 => s.accessCycle t c ops
      | 8 => s.holdCycle t c 8 ((p.bufferFull ops).getD [])
      | w => t.frozenCycle c w

/-- The loads and stores of an execution that a cell's own scratchpad serves in the issue cycle: address and size (R345). -/
def State.scalarRuns (s : State) (ops : List PendOp) : List (Nat × Nat) :=
  (ops.filter (fun p => match p.op with
    | .ld .. => true
    | .st _ _ _ ord _ _ => ord == 0
    | _ => false)).filterMap (fun p => (s.scalarPlace p).filter (fun q => s.ownPlace q.1))

/-- The state in which an execution is checked, `u` being that in which every waiting operation has started that could: where the
execution issues, its scalar accesses are served ahead of the vector accesses of their banks, which then start later (R94, R345).
`t` is the state at the beginning of the cycle. -/
def State.scalarsFirst (u t : State) (c : Nat) (e : Execution) : State :=
  let ops := e.ops
  let p := u.prepare t c e.enc.contains (carriesEret ops)
  let b := p.scalarRuns ops
  if b.isEmpty then u
  else if !(t.core c).queue.any (fun w => w.slot == 3) then { u with taken := u.taken ++ b }
  else if p.holdBefore c ops = 0 ∧ p.bundleCauses ops e.bad = [] ∧ p.holdAfter t c ops = 0 then
    ({ t with taken := t.taken ++ b } : State).startHeads c
  else u

/-- The causes with which the bundle that comes next stops in this cycle, if it is tested and fails (R204). -/
def State.failing (t : State) (c : Nat) : Option (Cause × List Cause) :=
  if t.throttled c || (t.core c).lateFrozen then none
  else
    let s := t.startHeads c
    match s.execution c with
    | .inl x => some (x, [])
    | .inr e =>
      let p := (s.scalarsFirst t c e).prepare t c e.enc.contains (carriesEret e.ops)
      match (if p.holdBefore c e.ops = 0 then p.bundleCauses e.ops e.bad else p.decodeCauses e.ops e.bad) with
        | [] => none
        | x :: l => some (x, l)

/-- The core issues, holds or stops in this cycle. -/
def State.issueOrHold (t : State) (c : Nat) : State :=
  if t.throttled c then t.frozenCycle c 7
  else if (t.core c).lateFrozen then t.frozenCycle c 6
  else
    let s := t.startHeads c
    match s.execution c with
    | .inl x => s.stopBefore c x []
    | .inr e => (s.scalarsFirst t c e).issueOps t c e

/-- BUNDLE_ISSUE: a running core issues the execution at its PC, or enters a hold, or stops before it (R29, R34, R45, R204,
R256, R292). -/
def execBundleIssue (cid : Nat) (s : State) : Step :=
  .next (if (s.core cid).st == .run then s.issueOrHold cid else s)

/-- HOLD_END: a held core tests its hold: with none left it issues next, and otherwise a cycle of the hold passes (R45). A core
that waits to be saved passes a schedule cycle (R221). -/
def execHoldEnd (cid : Nat) (s : State) : Step :=
  .next (
    let k := s.core cid
    if k.st != .hold then s
    else if k.landing then
      (if s.throttled cid then s.frozenCycle cid 7
      else if k.lateFrozen then s.frozenCycle cid 6
      else (s.startHeads cid).heldCycle cid 5)
    else
      let t := (s.modCore cid (fun k => { k with st := .run, waitk := 0 })).issueOrHold cid
      if (t.core cid).st == .run && !t.ops.isEmpty then
        { s.modCore cid (fun k => { k with st := .run, waitk := 0 }) with agenda := .bundleIssue cid :: s.agenda }
      else t)

/-! ## The end of an execution -/

/-- The condition of the CTL slot's wait holds (R45, R434, R435, R320). -/
def State.waitOver (s : State) (c : Nat) : Bool :=
  let k := s.core c
  match k.waits.op with
  | some (.wait ldl stl cpl tll) =>
    decide (k.counter .ld ≤ ldl.toNat) && decide (k.counter .st ≤ stl.toNat) && decide (k.counter .cp ≤ cpl.toNat)
      && decide (k.counter .tl ≤ tll.toNat)
  | some .waitpred => !bit k.predst.toNat 33 || bit k.predst.toNat 32
  | some (.bar scp) => !mapGet false k.arrived scp.toNat
  | some (.ctxs _ _) => false
  | some (.ctxr _ _) => false
  | _ => true

/-- The ring header that the XFR slot's wait names. -/
def State.waitRing (s : State) (k : Core) : Option Ring :=
  match k.waits.ring with
  | some (.rawait _ h _) => s.ringAt (bits k.waits.ringArg 31 22) (64 * h.toNat)
  | _ => none

/-- The condition of the XFR slot's wait holds (R138, R373). -/
def State.ringOver (s : State) (k : Core) : Bool :=
  match k.waits.ring, s.waitRing k with
  | some (.rawait _ _ j), some r => decide (j.toNat < ringDiff r.wptr r.rptr)
  | some _, _ => false
  | none, _ => true

/-- The register that a RAWAIT writes as its wait ends: at the end of the cycle, or after the skew of its slot (R373, R374). -/
def Core.ringFlight (k : Core) (seq : Nat) (i : Instr) (d : Nat) (r : Ring) (j : Nat) : Flight where
  seq := seq
  slot := 5
  op := i
  ipc := bits k.waits.ringArg 15 0
  eng := bits k.waits.ringArg 31 22
  kind := 3
  dest := .scalar d
  rem := 0
  open_ := false
  free := false
  skewl := bits k.waits.ringArg 21 16
  landed := false
  sval := word (r.slot ((r.rptr + j) % 2 ^ 32))
  lanes := []
  flags := flagNone
  fmt := 0
  tok := 0
  cnt := .none
  sb := false
  chain := none
  icyc := k.cyc
  start := k.cyc
  eph := false
  cutc := false
  heldw := false
  parts := 0
  fault := none
  ran := false

/-- The XFR slot's wait ends where its condition holds, and leaves its register (R373). -/
def State.testRing (s : State) (c : Nat) : State :=
  let k := s.core c
  match k.waits.ring, s.waitRing k with
  | some (.rawait d h j), some r =>
    let s := s.scrubRing r.cell (64 * h.toNat)
    if s.ringOver k then
      (s.modCore c (fun k => { k with waits := { k.waits with ring := none, ringArg := 0 } })).launch c
        (k.ringFlight (s.seq + 1) (.rawait d h j) d.toNat r j.toNat)
    else s
  | _, _ => s

/-- The waits of a core are tested: each that is over ends, and with none left the core issues from the next cycle on. -/
def State.testWaits (s : State) (c : Nat) : State :=
  let ended := (s.core c).rptLeft == 0 && s.waitOver c
  (s.testRing c).modCore c (fun k =>
    let k := { k with waits := if ended then { k.waits with op := none, arg := 0 } else k.waits }
    if k.activeWaits == Waits.none then { k with st := .run, waitk := 0 } else { k with st := .wait, waitk := k.activeWaits.code })

/-- The present wait meets a fault: a ring header with an uncorrectable error, one that has become invalid, or one too small for J (R95, R373,
R374). -/
def State.waitFault (s : State) (c : Nat) : Option Cause :=
  let k := s.core c
  match k.waits.ring with
  | some (.rawait d h j) =>
    let e := bits k.waits.ringArg 31 22
    let found (t : Trap) : Option Cause :=
      some { lateCause (s.seq + 1) e (bits k.waits.ringArg 15 0) 5 (.rawait d h j) t (e != c) with async := false }
    match s.ringRead e (64 * h.toNat) (64 * h.toNat) with
    | .inl t => found t
    | .inr r => if 2 ^ r.lns ≤ j.toNat then found (trapOf 8 0x06) else none
  | _ => none

/-- LBRK pops before R29 is applied (R343). -/
def Core.popBreak (k : Core) : Core := if k.popReq then { k with loops := k.loops.drop 1, popReq := false } else k

/-- After the last execution of a bundle: LBRK's pop, SBIND's change, and the next bundle's address (R29, R343, R382). -/
def Core.endBundle (k : Core) (ipc next : Nat) (advance : Bool) : Core :=
  let k := k.popBreak
  let k := match k.bindReq with
    | some (e, sl) => { k.rebind e sl with bindReq := none }
    | none => k
  if advance then
    let r := loopNext ipc next k.loops
    { k with loops := r.1, pc := r.2 % 2 ^ 16 }
  else k

/-- The waits of an execution begin, and are tested in its cycle (R45, R373). -/
def State.beginWait (s : State) (c : Nat) : State :=
  if (s.core c).activeWaits == Waits.none || (s.core c).st != .run then s else s.testWaits c

/-- The end of an execution, once its operations have taken effect: the advance, a wait, TRAP's stop at the boundary after it,
and the end of the cycle (R29, R35, R204). -/
def State.finishBundle (s : State) : State :=
  if !s.owed.cycle then s
  else
    let c := s.ctx.cid
    let o := s.owed
    let ipc := s.ctx.ipc
    let done := !o.advance || (s.core c).rptLeft == 0
    let s := (if done then s.modCore c (fun k => k.endBundle ipc o.next o.advance) else s).beginWait c
    let s := s.endCycle c
    let s := match o.stop with
      | none => s
      | some x => s.modCore c (fun k => k.addLate x)
    { s with owed := Owed.none, ctx := ⟨0, 0, 0, 0, false, false, []⟩,
             ident := if o.trip then { s.ident with hardtrip := false } else s.ident }

/-- WAIT_END: a waiting core tests its wait; with the condition met in this cycle it issues in the next one (R45, R373, R434). -/
def execWaitEnd (cid : Nat) (s : State) : Step :=
  let s := if (s.core cid).st == .wait then s.modCore cid (fun k => { k with waitCyc := k.waitCyc + 1 }) else s
  .next (if (s.core cid).st != .wait then s
    else if s.throttled cid then s.frozenCycle cid 7
    else if (s.core cid).lateFrozen then s.frozenCycle cid 6
    else
      let s := (s.startHeads cid).modCore cid (fun k => { k with holdCyc := 0 })
      match s.waitFault cid with
      | some x => s.modCore cid (fun k => { k.addLate x with st := .run, waitk := 0, waits := Waits.none })
      | none =>
        let s := s.testWaits cid
        let on := (s.core cid).st == .wait
        (s.endCycle cid).count cid 0x0A (flag on))

end Sys2Proof.Machine
end

