-- ==== Sys2Proof/Machine/Ordering.lean ====
section
/-!
DEFINITION. Machine/Ordering.lean: the device's steps on accesses (R150 to R171): writes moving home, remote reads and atomics
performing, holds ending, and barriers completing (R320, R321).
-/
namespace Sys2Proof.Machine

/-- The writes of an access number. -/
def State.writesOf (s : State) (n : Nat) : List PendWrite := s.writes.filter (fun w => w.seq == n)

/-- The reads of an access number. -/
def State.readsOf (s : State) (n : Nat) : List PendRead := s.reads.filter (fun r => r.seq == n)

/-- A write may move on (R150); a cell's own store also waits behind its late vector accesses (R156). -/
def State.mayMove (s : State) (w : PendWrite) : Bool := s.mayAdvance w && !s.behindVec w

/-- The release write of a cell, held in its write queue, that a later rlx store of the cell to exactly the same bytes may merge with: the
store could move on but for it (R168). -/
def State.mergePartner (s : State) (w : PendWrite) : Option PendWrite :=
  if decide (w.place = .queue) && w.hold.isNone && (w.slot == 1 || w.slot == 2) && !w.ofEngine && !s.writeHeld w then
    s.writes.find? (fun r => r.cid == w.cid && !r.ofEngine && decide (r.place = .queue) && decide (r.seq < w.seq) && r.hold.isSome
      && s.writeHeld r && r.bytes.map Prod.fst == w.bytes.map Prod.fst
      && ({ s with writes := s.writes.filter (fun v => v.seq != r.seq) } : State).mayMove w)
  else none

/-- The merged write: the release carries the later value, and what waits for the store goes on once the release has performed (R168,
log 44). -/
def State.mergeWrites (s : State) (r w : PendWrite) : State :=
  { s with writes := s.writes.map (fun v =>
      if v == r then { v with bytes := w.bytes } else if v == w then { v with bytes := [], hold := some 4 } else v) }

/-- WRITE_ADVANCE: the first write of an access that may move on does (R150); a store that waits only for a held release of its cell to
the same bytes merges with it (R168). -/
def execWriteAdvance (n : Nat) (s : State) : Step :=
  .next (match (s.writesOf n).find? s.mayMove with
    | some w => ((s.advanceWrite w).dropFences).serve (if w.nextPlace.isNone then w.bytes.map Prod.fst else [])
    | none =>
      match (s.writesOf n).findSome? (fun w => (s.mergePartner w).map (fun r => (r, w))) with
      | some p => s.mergeWrites p.1 p.2
      | none => s)

/-- REMOTE_READ_PERFORM: a remote read of an access takes its value (R151, R157). -/
def execRemoteReadPerform (n : Nat) (s : State) : Step :=
  .next (match (s.readsOf n).find? (fun r => r.remote && !r.kind.atomic && s.mayRead r) with
    | none => s
    | some r => ((s.performRead r).dropFences).serve [r.addr])

/-- ATOMIC_EXECUTE: an atomic reads and writes home as one step (R165). -/
def execAtomicExecute (n : Nat) (s : State) : Step :=
  .next (match (s.readsOf n).find? (fun r => r.kind.atomic && s.mayRead r) with
    | none => s
    | some r => ((s.performRead r).dropFences).serve [r.addr])

/-- ACCESS_HOLD_RELEASE: the local accesses of a cell that nothing holds any more perform (R162). -/
def execAccessHoldRelease (cid : Nat) (s : State) : Step := .next ((s.releaseReads cid).settleLocal cid).dropFences

/-- The barrier group of a cell at a scope: the cells of its team that are no donors, in its cluster or die as it stood at
release, or all of them (R48, R321). A migrated cell counts under the cell that it left. -/
def State.barrierGroup (s : State) (c scp : Nat) : List Nat :=
  match s.teamOf c with
  | none => [c]
  | some t =>
    let born (q : Nat) : Nat := ((t.homes.find? (fun h => h.2 == q)).map Prod.fst).getD q
    t.workers.filter (fun q =>
      match scp with
      | 1 => clusterOf (born q) == clusterOf (born c)
      | 2 => dieOf (born q) == dieOf (born c)
      | _ => true)

/-- A cell's arrival at a barrier counts: its earlier accesses have performed at the scope (R171), or it has halted. -/
def State.hasArrived (s : State) (c scp : Nat) : Bool :=
  let k := s.core c
  k.st == .halted
    || (mapGet false k.arrived scp
        && (match k.waits.op, k.hand.waits.op with
          | some (.bar _), _ => s.priorDone c k.waits.arg scp && !s.leftToCome c k.waits.arg
          | _, some (.bar _) => s.priorDone c k.hand.waits.arg scp && !s.leftToCome c k.hand.waits.arg
          | _, _ => true))

/-- The arrival bit of a stopped cell at a scope clears in its image too (R321). -/
def State.clearSaved (s : State) (g : List Nat) (scp : Nat) : State :=
  s.images.foldl (fun s p => match p.2 with
    | some v =>
      let c := v.cell.cid
      if g.contains c && (s.core c).st == .stopped && mapGet false v.cell.core.arrived scp then
        s.editImage p.1 v 0x2D8 8 (bytesNat ((List.range 8).map (fun i => (mapGet 0 v.bytes (0x2D8 + i)).toNat)) - 2 ^ (scp - 1))
          (fun k => { k with arrived := mapSet false k.arrived scp false })
      else s
    | none => s) s

/-- BARRIER_COMPLETE: every member of the group has arrived, and its arrival bits clear; the members' waits then end by
themselves (R320, R321). -/
def execBarrierComplete (cid scp : Nat) (s : State) : Step :=
  .next (
    let g := s.barrierGroup cid scp
    if (scp = 1 ∨ scp = 2 ∨ scp = 3) ∧ g.any (fun c => mapGet false (s.core c).arrived scp) ∧ g.all (fun c => s.hasArrived c scp)
    then g.foldl (fun s c => s.modCore c (fun k => { k with arrived := mapSet false k.arrived scp false })) (s.clearSaved g scp)
    else s)

end Sys2Proof.Machine
end

