-- ==== Sys2Proof/Machine/Tasks.lean ====
section
/-!
DEFINITION. Machine/Tasks.lean: what the damper computes about tasks (R22, R229, R238, R239, R241, R242): operating points, predicted
power as exact fractions of a microwatt, and the point picked at a level.
-/
namespace Sys2Proof.Machine

/-! ## Fractions -/

/-- A whole number. -/
def Frac.of (n : Int) : Frac := ⟨n, 1⟩
/-- The fraction of two naturals; a denominator of 0 counts as 1. -/
def Frac.ratio (n d : Nat) : Frac := ⟨n, max 1 d⟩
/-- The same fraction in lowest terms. -/
def Frac.reduced (a : Frac) : Frac :=
  let g := max 1 (Nat.gcd a.num.natAbs a.den)
  ⟨a.num / g, a.den / g⟩
/-- Sum. -/
def Frac.add (a b : Frac) : Frac := ⟨a.num * b.den + b.num * a.den, a.den * b.den⟩
/-- Product. -/
def Frac.mul (a b : Frac) : Frac := ⟨a.num * b.num, a.den * b.den⟩
/-- Difference. -/
def Frac.sub (a b : Frac) : Frac := ⟨a.num * b.den - b.num * a.den, a.den * b.den⟩
/-- At most. -/
def Frac.le (a b : Frac) : Bool := decide (a.num * b.den ≤ b.num * a.den)
/-- The whole number at or below it. -/
def Frac.floor (a : Frac) : Int := a.num / (a.den : Int)
/-- Quotient of a by b > 0. -/
def Frac.div (a b : Frac) : Frac := ⟨a.num * b.den, a.den * (max 1 b.num.toNat)⟩
/-- Sum of a list. -/
def sumFrac (l : List Frac) : Frac := l.foldl Frac.add (.of 0)
/-- The lesser. -/
def Frac.min (a b : Frac) : Frac := if a.le b then a else b
/-- The greater. -/
def Frac.max (a b : Frac) : Frac := if a.le b then b else a

/-! ## Operating points (R239) -/

/-- Word `i` of a point. -/
def ptWord (p : List Nat) (i : Nat) : Nat := p.getD i 0
/-- The least rail level of a point: the greatest of MINM, MINV and MINS. -/
def ptMin (p : List Nat) : Nat := max (bits (ptWord p 0) 3 0) (max (bits (ptWord p 0) 7 4) (bits (ptWord p 0) 11 8))
/-- MINF. -/
def ptMinF (p : List Nat) : Nat := bits (ptWord p 0) 15 12
/-- NCELL. -/
def ptCells (p : List Nat) : Nat := bits (ptWord p 0) 26 16
/-- QK. -/
def ptQk (p : List Nat) : Nat := bits (ptWord p 0) 31 28
/-- EPI in µJ. -/
def ptEpi (p : List Nat) : Nat := bits (ptWord p 4) 31 0
/-- TPI in ns. -/
def ptTpi (p : List Nat) : Nat := bits (ptWord p 4) 63 32

/-- The point of a number; with OPT = 0 every field of it is 0. -/
def Team.pt (t : Team) (i : Nat) : List Nat := t.points.getD i []

/-- The numbers of a team's points: one when OPT = 0. -/
def Team.ptNumbers (t : Team) : List Nat := List.range (max 1 t.points.length)

/-- A change between two points is a variant switch: NCELL, FMT, QK or IMAGE changes (R240). -/
def variantPair (p q : List Nat) : Bool :=
  ptCells p != ptCells q || ptWord p 1 != ptWord q 1 || ptQk p != ptQk q || ptWord p 2 != ptWord q 2

/-- Word `i` of the descriptor. -/
def Team.d (t : Team) (i : Nat) : Nat := t.desc.getD i 0
/-- FMT of the point in force. -/
def Team.fmtPreset (t : Team) : Nat := if t.points.isEmpty then t.d 3 else ptWord (t.pt t.point) 1
/-- IMAGE of the point in force. -/
def Team.imageVa (t : Team) : Nat := if t.points.isEmpty then bits (t.d 1) 56 0 else bits (ptWord (t.pt t.point) 2) 56 0
/-- IMGLEN of the point in force. -/
def Team.imageLen (t : Team) : Nat := if t.points.isEmpty then bits (t.d 2) 15 0 else bits (ptWord (t.pt t.point) 3) 15 0
/-- QK of the point in force; 0 when OPT = 0 (R266). -/
def Team.qk (t : Team) : Nat := if t.points.isEmpty then 0 else ptQk (t.pt t.point)

/-- The team under a point: NCELL and ENTRY replace the descriptor's SIZE and ENTRY (R239). -/
def Team.atPoint (t : Team) (i : Nat) : Team :=
  if t.points.isEmpty then { t with size := bits (t.d 0) 18 8, entry := bits (t.d 2) 31 16 }
  else { t with point := i, size := ptCells (t.pt i), entry := bits (ptWord (t.pt i) 3) 31 16 }

/-! ## Prediction (R241) -/

/-- P(p, L, k) in µW: V(L) ÷ 0.60 V is (15 + L) ÷ 30, and f(L) ÷ 1.10 GHz is (7 + L) ÷ 22. A task without points counts its
settled energy over the last 1 ms (R239). -/
def Team.power (t : Team) (i l k : Nat) : Frac :=
  if t.points.isEmpty then .ratio t.settled 1000
  else .ratio (k * ptEpi (t.pt i) * (15 + l) ^ 2 * (7 + l) * 1000000000) (316800 * ptTpi (t.pt i))

/-- Idle power of the ungated dies at a level in µW (R241, R244). -/
def idleOf (dies l : Nat) : Frac := .of ((dies * (Config.idlePower l % 65536) * 1000000 : Nat))

/-- The team's estimated end at a point is at or before its deadline (R242); without a deadline every point is. -/
def Team.meets (t : Team) (now i l k : Nat) : Bool :=
  t.deadline == 0 ||
    let d : Int := t.doneDen
    let rate : Int := (7 + l) * k
    decide ((t.iters * d - t.done) * ptTpi (t.pt i) * 352 + now * d * rate ≤ t.deadline * d * rate)

/-- The first number of a list with the least rank. -/
def leastBy (f : Nat → Nat) : List Nat → Option Nat
  | [] => none
  | x :: l =>
    match leastBy f l with
    | none => some x
    | some y => some (if f y < f x then y else x)

/-- The points that a level allows. -/
def Team.eligible (t : Team) (l : Nat) : List Nat := t.ptNumbers.filter (fun i => decide (ptMin (t.pt i) ≤ l))

/-- Pick (R242). -/
def Team.pick (t : Team) (now l k : Nat) : Nat :=
  let e := t.eligible l
  match leastBy (fun i => ptEpi (t.pt i)) (e.filter (fun i => t.meets now i l k)) with
  | some i => i
  | none => (leastBy (fun i => ptTpi (t.pt i)) e).getD 0

/-- The eligible point of lowest power at a level; ties go to the lowest index (R242). -/
def Team.cheapest (t : Team) (l : Nat) : Nat :=
  (t.eligible l).foldl (fun b i => if (t.power b l 16).le (t.power i l 16) then b else i) ((t.eligible l).headD 0)

/-- The least level that some point of the team allows (R242). -/
def Team.floorLevel (t : Team) : Nat := (t.ptNumbers.map (fun i => ptMin (t.pt i))).foldl min 15

/-- The task is running: resident or waiting for cells, and not parked (R242). A launch waits for cells from the first dispatch
slot that found it ready and could not place it, a saved team from the one that found its waits ended, and a parked one from the
evaluation that resumed it. -/
def Team.running (t : Team) : Bool :=
  match t.state with
  | .waiting => t.asked != 0
  | .loading => true
  | .loaded => true
  | .resident => true
  | .leaving => t.dep == .slice || t.dep == .variant
  | .out => t.dep == .slice || t.asked != 0
  | _ => false

/-- What R242 settles on: level, fabric level, duty, MISS, the point of each team, the prediction without corr, and the ungated
dies that it counts. -/
structure Setting where
  lc    : Nat
  lf    : Nat
  duty  : Nat
  miss  : Bool
  picks : List (Nat × Nat)
  power : Frac
  dies  : Nat
  deriving DecidableEq, Repr

/-- Predicted power of tasks at their points. -/
def Setting.total (ts : List Team) (picks : List Nat) (dies l k : Nat) : Frac :=
  (idleOf dies l).add (sumFrac ((ts.zip picks).map (fun p => p.1.power p.2 l k)))

/-- A setting at a level, a duty and points. -/
def settingAt (ts : List Team) (picks : List Nat) (dies : List Nat → Nat) (l k : Nat) (miss : Bool) : Setting :=
  { lc := l, lf := (ts.zip picks).foldl (fun m p => max m (ptMinF (p.1.pt p.2))) l, duty := k, miss := miss,
    picks := (ts.zip picks).map (fun p => (p.1.id, p.2)), power := Setting.total ts picks (dies picks) l k,
    dies := dies picks }

/-- Levels from 15 down to `lo`, and duties from 15 down to 2. -/
def downFrom (hi lo : Nat) : List Nat := (List.range (hi + 1 - lo)).map (fun i => hi - i)

/-- R242 over the running tasks, with the number of ungated dies that their points bring: the highest level at duty 16 that meets
the goal, else the highest duty at the least level, else duty 2 with MISS. -/
def evaluate (ts : List Team) (now : Nat) (dies : List Nat → Nat) (goal corr : Frac) : Setting :=
  let lmin := (ts.map Team.floorLevel).foldl max 0
  let fits (l k : Nat) (picks : List Nat) : Bool := ((Setting.total ts picks (dies picks) l k).add corr).le goal
  match (downFrom 15 lmin).find? (fun l => fits l 16 (ts.map (fun t => t.pick now l 16))) with
  | some l => settingAt ts (ts.map (fun t => t.pick now l 16)) dies l 16 false
  | none =>
    let picks := ts.map (fun t => t.cheapest lmin)
    match (downFrom 15 2).find? (fun k => fits lmin k picks) with
    | some k => settingAt ts picks dies lmin k false
    | none => settingAt ts picks dies lmin 2 true

/-- T in µW. -/
def Power.targetMicro (p : Power) : Frac := .of ((p.target * 1000000 : Nat))

/-- B in µW: the greater of T × BANDP ÷ 1000 and BANDW of the curve in force; 30 W before any curve (R235, R242). -/
def Power.bandMicro (p : Power) : Nat :=
  match p.curve with
  | none => 30000000
  | some c => max (p.target * c.bandp * 1000) (c.bandw * 1000000)

/-- goal := T − B ÷ 2 (R242). -/
def Power.goal (p : Power) : Frac := p.targetMicro.sub (.ratio p.bandMicro 2)

/-- Dies whose idle power counts: ungated, and not in a gating ramp (R450). -/
def State.liveDies (s : State) : List Nat :=
  (List.range 8).filter (fun d => match s.power.ramp with
    | some (r, up) => if r == d then up else !bit s.ident.gated d
    | none => !bit s.ident.gated d)

/-- ERATE of a team's cells: an equal share of its allotment for each that is no donor, in pJ per 10 ns, rounded down (R255). -/
def Team.cellRate (t : Team) : Nat := t.allot / (100 * max 1 (t.size - t.donors.length)) % 2 ^ 32

/-- The running tasks. -/
def State.tasks (s : State) : List Team := s.sched.teams.filter Team.running

/-- The shares s0 and sr of R255. -/
def energyShares (avail p0 pr : Frac) : Frac × Frac :=
  let sixteenth : Frac := .ratio 1 16
  let all := p0.add pr
  if all.le avail then
    let x := if all.num = 0 then .of 2 else Frac.min (.of 2) (avail.div all)
    (x, x)
  else if p0.le avail then (.of 1, Frac.max sixteenth ((avail.sub p0).div pr))
  else (Frac.max sixteenth (avail.div p0), sixteenth)

/-- The allotment of a team at its placement, which stands until a tick sets it: R255 over the running tasks with it, at the
points and rails in force (log 41, DESIGN CHOICE). -/
def State.firstAllot (s : State) (t : Team) : Nat :=
  let at_ (u : Team) : Frac := u.power u.point s.power.goalLc s.power.duty
  let ts := s.tasks.filter (fun u => u.id != t.id) ++ [t]
  let sum (l : List Team) : Frac := sumFrac (l.map at_)
  let avail := (s.power.goal.sub s.power.corr).sub (idleOf s.liveDies.length s.power.goalLc)
  let sh := energyShares avail (sum (ts.filter (fun u => u.ecls == 0))) (sum (ts.filter (fun u => u.ecls != 0)))
  ((at_ t).mul (if t.ecls = 0 then sh.1 else sh.2)).floor.toNat

end Sys2Proof.Machine
end

