-- ==== Sys2Proof/Machine/Stops.lean ====
section
/-!
DEFINITION. Machine/Stops.lean: how a running cell leaves its program (R201, R204 to R226): fault stops, forced stops, yields with
their saves, migrations, and the ends of teams.
-/
namespace Sys2Proof.Machine

/-! ## Boundaries -/

/-- The core may be stopped at its present boundary: it runs, waits or holds. -/
def Core.stoppable (k : Core) : Bool := k.st == .run || k.st == .wait || k.st == .hold

/-- A request that came between RELEASE and the first cycle still waits for the first bundle execution (R376). -/
def State.begun (s : State) (c : Nat) : Bool := isStoker c || (s.core c).rcyc != 0

/-- The core stands before the first execution of a bundle with IB = 1, held or not, outside a handler (R220, R226). -/
def State.atIb (s : State) (c : Nat) : Bool :=
  let k := s.core c
  (k.st == .run || (k.st == .hold && !k.landing)) && k.rptLeft == 0 && !k.inHandler && s.begun c && headerOk (s.codeWord c k.pc) && headerIb (s.codeWord c k.pc)

/-! ## Stops -/

/-- STOP_LANDS: a fault that waits for the core's boundary stops it (R204, R205, R211). -/
def execStopLands (cid : Nat) (s : State) : Step :=
  .next (
    let k := s.core cid
    match k.late with
    | [] => s
    | x :: l => if k.stoppable then s.landStop cid (earliest x l) l.length false else s)

/-- FORCED_STOP: a forced stop lands, unless a fault lands with it: the bundle before which it lands fails its checks, and that fault is
reported (R204, R205, R213, R376). -/
def execForcedStop (cid : Nat) (s : State) : Step :=
  .next (
    let k := s.core cid
    match k.stopReq with
    | some d =>
      if k.stoppable && k.late.isEmpty && s.begun cid then
        match (if k.st == .wait || k.landing then none else s.failing cid) with
        | some (x, l) => s.stopBefore cid x l
        | none => s.landStop cid (forceCause d) 0 true
      else s
    | none => s)

/-- Cycles of an unbroken run of holds that force a stop (R201). -/
def holdLimit : Nat := 16777216

/-- HOLD_LIMIT: the cell is stopped with ST HOLD, and its team ends with that error (R201). -/
def execHoldLimit (cid : Nat) (s : State) : Step :=
  .next (
    let k := s.core cid
    if k.stoppable && decide (holdLimit ≤ k.holdCyc) then s.landStop cid (forceCause 1) 0 false else s)

/-- A record with more causes after it (R205). -/
def FaultRec.bump (r : FaultRec) (n : Nat) : FaultRec := { r with more := min (r.more + n) 0xFFFFFFFF }

/-- ASYNC_FAULT_REPORT: a fault reaches a cell that issues nothing. A halted cell's goes to the scheduler; a stopped cell's adds
to its record, or fills it and is presented when the cell resumes (R205, R215, R339). -/
def execAsyncFaultReport (cid : Nat) (s : State) : Step :=
  .next (
    let k := s.core cid
    match k.late with
    | [] => s
    | x :: l =>
      let r := s.record cid (earliest x l) l.length
      match k.st, k.rec_ with
      | .halted, _ =>
        let s := s.modCore cid (fun k => { k with late := [], rec_ := some r })
        match s.teamOf cid with
        | some t => if t.state == .ending && t.fault.isNone then s else s.modTeam t.id (fun t => t.report r)
        | none => s
      | .stopped, some q =>
        s.modCore cid (fun k => { k with
          late := [], rec_ := some (q.bump (l.length + 1)), dueMore := if k.due.isSome then k.dueMore + l.length + 1 else k.dueMore })
      | .stopped, none =>
        s.modCore cid (fun k => { k with
          late := [], rec_ := some { r with async := true }, due := some (earliest x l), dueMore := k.dueMore + l.length })
      | _, _ => s)

/-! ## Saving -/

/-- Every operation of the cell but its transfers has written its result (R221). -/
def Core.quiet (k : Core) : Bool := k.flights.all Flight.ofTransfer && k.queue.isEmpty

/-- The cell's transfers may be saved, its writes are at home and its reads have performed (R175, R218). -/
def State.drained (s : State) (c : Nat) : Bool :=
  s.slotsQuiet c && !s.writes.any (fun w => w.cid == c) && !s.reads.any (fun r => r.cid == c)

/-- A request to yield (R220): YREQ is set, and YSTAT.VALID cleared (R221). -/
def Core.askYield (k : Core) : Core := { k with yreq := true, ystat := k.ystat &&& ~~~(0x100000000 : Word) }

/-- The team is asked to leave its cells: every cell that is no donor and has not halted takes the request (R220, R247). -/
def State.askLeave (s : State) (id : Nat) (dep : Departure) : State :=
  match s.team id with
  | none => s
  | some t =>
    if t.state != .resident then s
    else
      let s := t.workers.foldl (fun s c =>
        if (s.core c).st == .halted then s else s.modCore c Core.askYield) s
      s.modTeam id (fun t => { t with state := .leaving, dep := dep, asked := s.now })

/-- What a team's cells hold is kept by LID (R49, R222, R247). -/
def State.captureTeam (s : State) (t : Team) : State :=
  s.modTeam t.id (fun t => { t with
    saved := t.cells.zipIdx.foldl (fun m p => mapSet none m p.2 (some (s.savedCell p.1 (s.core p.1).spcap))) t.saved })

/-- A core that its context has left: what it holds stays until a load clears it (R121). -/
def Core.vacate (k : Core) : Core :=
  { k with
    st := .free, waitk := 0, flights := [], queue := [], late := [], due := none, stopReq := none, yreq := false, migReq := none,
    landing := false, rec_ := none, waits := Waits.none, popReq := false, bindReq := none, prods := [], holdCyc := 0, waitCyc := 0,
    hand := { k.hand with held := [] } }

/-- One cell is freed. -/
def State.freeCell (s : State) (c : Nat) : State :=
  { s.modCore c Core.vacate with
    mat := s.mat.filter (fun m => m.owner != c)
    fences := s.fences.filter (fun f => f.cid != c)
    from_ := s.from_.filter (fun f => f.cid != c)
    xfers := s.xfers.filter (fun p => if p.2.busy then p.2.owner != c else p.1 / 8 != c || decide (8192 ≤ p.1))
    collects := s.collects.filter (fun m => m.owner != c) }

/-- The cells of a team are freed (R121). -/
def State.freeCells (s : State) (t : Team) : State := t.cells.foldl State.freeCell s

/-- The team has yielded: every cell that is no donor has halted or is saved, not all have halted, and none has anything under
way (R175, R222, R253). -/
def State.hasYielded (s : State) (t : Team) : Bool :=
  t.state == .leaving
    && t.workers.all (fun c => (s.core c).st == .halted || ((s.core c).st == .stopped && ((s.core c).due.isSome || (s.core c).rec_.all (fun r => r.cls == 0x0B))))
    && !t.workers.all (fun c => (s.core c).st == .halted) && t.cells.all s.drained && t.fault.isNone && !s.sched.migs.any (fun m => m.team == t.id)

/-- A team asked to leave for a slice, or for work that has aged, is saved and leaves once it has yielded (R222, R223). A team
asked for a variant switch leaves its images behind, and waits for cells under its new point (R240). -/
def State.leaveSlice (s : State) (id : Nat) : State :=
  match s.team id with
  | none => s
  | some t =>
    if !s.hasYielded t then s
    else match t.dep with
      | .slice => ((s.captureTeam t).freeCells t).modTeam id (fun t => { t with state := .out, aged := 0 })
      | .variant => (s.freeCells t).modTeam id (fun t => { t.atPoint t.next with state := .waiting, asked := s.now, saved := [] })
      | _ => s

/-! ## Yields (R220 to R222) -/

/-- The request would force an epilogue here (R220, R221). -/
def Core.forcesEpilogue (k : Core) : Bool :=
  let l := field k.ycfg 34 32
  l != 0 && l != 7 && decide (l ≤ k.loops.length)

/-- A yield is due at the bundle the cell stands before. -/
def State.yieldDue (s : State) (c : Nat) : Bool :=
  let k := s.core c
  s.atIb c && k.yreq && !bit k.ystat.toNat 33

/-- The core as the image of KIND 2 saves it (R221): its request gone, and after a forced epilogue its PC at YCFG.RESUME. -/
def Core.yielded (k : Core) : Core :=
  let epil := bit k.ystat.toNat 33
  { k with
    st := .stopped
    waitk := 0
    yreq := false
    landing := false
    holdCyc := 0
    rec_ := none
    pc := if epil then field k.ycfg 31 16 else k.pc
    ystat := if epil then (k.ystat &&& 0xFFFFFFFF) ||| 0x100000000 else k.ystat }

/-- The cell's yield is complete: its image of KIND 2 is saved, and the cell waits without issuing (R221, R222). -/
def State.saveYield (s : State) (c : Nat) : State :=
  let s := (s.modCore c Core.yielded).count c 0x1D 1
  match s.teamOf c with
  | none => s
  | some t =>
    (s.modTeam t.id (fun t => { t with
      saved := mapSet none t.saved (t.lidOf c) (some (s.savedCell c (s.core c).spcap)) })).leaveSlice t.id

/-- YIELD_LANDS: a plain yield lands before its IB bundle, and a yield that has landed saves once the cell is drained (R220,
R221). -/
def execYieldLands (cid : Nat) (s : State) : Step :=
  .next (
    let k := s.core cid
    if k.landing then (if k.st == .hold && k.quiet && s.drained cid then s.saveYield cid else s)
    else if s.yieldDue cid && !k.forcesEpilogue then s.modCore cid (fun k => { k with landing := true, st := .hold, waitk := 5 })
    else s)

/-- FORCED_EPILOGUE: ITER is recorded, the loops are popped, and the epilogue runs (R221). -/
def execForcedEpilogue (cid : Nat) (s : State) : Step :=
  .next (
    if s.yieldDue cid && (s.core cid).forcesEpilogue then
      s.modCore cid (fun k =>
        let l := field k.ycfg 34 32
        let e := (k.loops.reverse[l - 1]?).elim 0 LoopEntry.index
        { k with
          ystat := (k.ystat &&& 0x100000000) ||| word (e % 2 ^ 32) ||| 0x200000000
          loops := k.loops.drop (k.loops.length - (l - 1))
          pc := field k.ycfg 15 0 })
    else s)

/-- SLICE.YLIM in ns (R223). -/
def Sched.ylim (c : Sched) : Nat := 1000 * max 1 (bits c.slice 31 16)

/-- The cells of a team that have not saved are force-stopped (R222, R247). -/
def State.stopRest (s : State) (t : Team) : State :=
  t.workers.foldl (fun s c =>
    let k := s.core c
    if k.st == .halted || k.st == .stopped && !s.movingCell c then s else s.modCore c (fun k => { k with stopReq := some 3 })) s

/-- YIELD_LIMIT: SLICE.YLIM after the request, the cells that have not yielded are force-stopped; each then saves an image of
KIND 1 (R222). -/
def execYieldLimit (team : Nat) (s : State) : Step :=
  .next (match s.team team with
    | none => s
    | some t =>
      if t.state == .leaving && t.dep == .slice && decide (t.asked + s.sched.ylim ≤ s.now) then (s.stopRest t).leaveSlice team
      else s)

/-- PARK_YIELD_LIMIT: the same 50 µs after a park's request (R247), or a variant switch's (R240). -/
def execParkYieldLimit (team : Nat) (s : State) : Step :=
  .next (match s.team team with
    | none => s
    | some t =>
      if t.state == .leaving && (t.dep == .park || t.dep == .emergency || t.dep == .variant)
          && decide (t.asked + 50000 ≤ s.now) then s.stopRest t
      else s)

/-! ## The ends of teams (R202, R208, R215, R251) -/

/-- ERROR of a signal: class, detail, and the LID whose fault ended the team (R195). -/
def errorCode (cls detail : Nat) (lid : Option Nat) : Nat :=
  cls + detail * 2 ^ 8 + match lid with
    | none => 0
    | some l => l % 1024 * 2 ^ 16 + 2 ^ 26

/-- FLAGS of a signal (R195). -/
def flagStopped : Nat := 2
/-- FLAGS.RESUMED. -/
def flagResumed : Nat := 4
/-- FLAGS.MIGRATED. -/
def flagMigrated : Nat := 8
/-- FLAGS.ABANDONED. -/
def flagAbandoned : Nat := 16

/-- Flags added to a signal's. -/
def addFlags (a b : Nat) : Nat := (BitVec.ofNat 5 a ||| BitVec.ofNat 5 b).toNat

/-- The transfers, gathers and collectives of a team are killed as XKILL kills (R133, R208). -/
def State.killTeam (s : State) (t : Team) : State :=
  let mine (c : Nat) : Bool := t.cells.contains c
  let s : State := { s with xfers := s.xfers.map (fun p => if p.2.busy && mine p.2.owner then (p.1, { p.2 with killed := true }) else p) }
  (s.collects.filter (fun m => mine m.owner)).foldl (fun s m => s.endCollect m none) s

/-- The team's cells are force-stopped with a detail of ST, its transfers killed, and its end decided (R202, R208, R251). END is this moment,
for a team that was released and has not begun too (R195, log 79: DESIGN CHOICE). -/
def State.stopTeam (s : State) (t : Team) (detail error flags : Nat) : State :=
  let s := t.workers.foldl (fun s c =>
    if (s.core c).st == .halted then s else s.modCore c (fun k => { k with stopReq := some detail })) s
  (s.killTeam t).modTeam t.id (fun t => { t with
    state := .ending, error := error, flags := addFlags t.flags flags, ended := s.now })

/-- A write of a cell, or of its engines, is on its way home (R121, R154). -/
def State.writesOut (s : State) (c : Nat) : Bool := s.writes.any (fun w => w.cid == c || w.own == c)

/-- A team that is over has come to rest: its cells are stopped, or halted with their operations over; its transfers have ended, its accesses
have performed with every write at home, and no cell of it is moving (R121, R133, R175, R208, R226). -/
def State.atRest (s : State) (t : Team) : Bool :=
  t.workers.all (fun c => let k := s.core c; k.st == .stopped || (k.st == .halted && k.flights.isEmpty && k.queue.isEmpty))
    && !s.xfers.any (fun p => p.2.busy && t.cells.contains p.2.owner) && !s.collects.any (fun m => t.cells.contains m.owner)
    && t.cells.all (fun c => s.queueEmpty c && !s.writesOut c) && !s.sched.migs.any (fun m => m.team == t.id)

/-- The team's cells are freed and its launch is over; its signal is still to come (R196). -/
def State.closeCells (s : State) (t : Team) : State :=
  (s.freeCells t).modTeam t.id (fun t => { t with state := .ended, lastSeq := s.seq, saved := [] })

/-- The operation starts a transfer, a gather or a collective. -/
def startsTransfer (i : Instr) : Bool :=
  match i with
  | .xstart .. | .xgath .. | .xcoll .. => true
  | _ => false

/-- Every cell of a team that is no donor has halted, its transfers have completed, and no fault waits (R39, R215, R338). -/
def State.allHalted (s : State) (t : Team) : Bool :=
  (t.state == .resident || t.state == .leaving) && t.fault.isNone
    && !s.xfers.any (fun p => p.2.busy && t.cells.contains p.2.owner) && !s.collects.any (fun m => t.cells.contains m.owner)
    && !s.sched.migs.any (fun m => m.team == t.id)
    && t.workers.all (fun c => let k := s.core c; k.st == .halted && k.late.isEmpty && !k.queue.any (fun w => startsTransfer w.op))

/-- TEAM_END: a team ends once its cells have halted, which is its END, or by a stop, whose time is its END (R39, R195, R202, R215); its cells
are freed once it has come to rest. -/
def execTeamEnd (team : Nat) (s : State) : Step :=
  .next (match s.team team with
    | none => s
    | some t =>
      if s.allHalted t then s.modTeam team (fun t => { t with state := .ending, error := 0, ended := s.now })
      else if t.state == .ending && t.fault.isNone && s.atRest t then s.closeCells t
      else s)

/-- The dump area of a context: its address and key, where a dump is to be written (R219). -/
def State.dumpPlace (s : State) (asid : Nat) : Option (Nat × Option Nat) :=
  let f := s.sched.fdump
  if !bit f 0 then none
  else (s.ctxSlot asid).bind (fun n =>
    let pa := bits f 51 12 * 4096 + n * 0x500000
    if bit f 1 then (mapGet none s.sched.key (bits f 8 2)).map (fun k => (pa, some k)) else some (pa, none))

/-- DUMP_WRITE: the faulting cell's image and its scratchpad (R219). -/
def State.writeDump (s : State) (t : Team) : State :=
  let c := t.cells.getD t.faultLid 0
  match s.dumpPlace t.asid with
  | none => s
  | some (pa, key) => s.saveImage c pa 1 (s.core c).spcap key

/-- FAULT_TEAM_END: the scheduler takes a reported fault. It stops the other cells and kills the transfers; once all have come to
rest it writes the dump and ends the team (R208, R215, R219). -/
def execFaultTeamEnd (team : Nat) (s : State) : Step :=
  .next (match s.team team with
    | none => s
    | some t =>
      match t.fault with
      | none => s
      | some r =>
        if t.state == .resident || t.state == .leaving then
          let live := t.workers.any (fun c => (s.core c).st != .halted)
          s.stopTeam t 2 (errorCode r.cls r.detail (some t.faultLid)) (if live then flagStopped else 0)
        else if t.state == .ending && s.atRest t then
          (s.writeDump t).closeCells t
        else s)

/-! ## Migration (R225, R226, R449) -/

/-- A cell that no team holds, of an ungated die in no ramp, cleared and sampled since its die ungated, that no migration uses
(R121, R191, R225, R226, R254). -/
def State.cellIdle (s : State) (c : Nat) : Bool :=
  let d := dieOf c
  decide (c < 1024) && (s.teamOf c).isNone && bit s.ident.dieok d && !bit s.ident.gated d && !s.sched.clearing.any (fun q => dieOf q == d)
    && !s.power.ramp.any (fun r => r.1 == d) && s.power.sampled.contains c
    && !s.sched.migs.any (fun m => m.target == c || m.source == c) && !s.xfers.any (fun p => p.2.busy && p.2.eng == c) && !s.writesOut c

/-- The cell may move at all: no donor, and no slot of it bound (R225). -/
def State.movable (s : State) (t : Team) (c : Nat) : Bool := t.workers.contains c && field (s.core c).bind 11 0 == 0xFFF

/-- MIGRATION_LANDS: before an IB bundle the source freezes, with its request taken; its image and scratchpad then go to the
target (R226). The request waits while its target is not idle. -/
def execMigrationLands (cid : Nat) (s : State) : Step :=
  .next (match (s.core cid).migReq, s.teamOf cid with
    | some b, some t =>
      if s.atIb cid && s.movable t cid && s.cellIdle b && decide ((s.core cid).spcap ≤ (s.core b).spcap) then
        { (s.count cid 0x1F 1).modCore cid (fun k => { k with st := .stopped, waitk := 0, migReq := none }) with
          sched := { s.sched with migs := s.sched.migs ++ [⟨t.id, cid, b, s.now⟩] } }
      else s
    | _, _ => s)

/-- The least time of a move in fractions of a ns: image and scratchpad at 64 bytes per fabric cycle (R226). -/
def State.moveTime (s : State) (c : Nat) : Nat := (9216 + (s.core c).spcap / 64) * cyclePeriod s.power.lf

/-- A physical address of one cell's scratchpad, moved to another cell's. -/
def moveAddr (a b pa : Nat) : Nat := if regionOf pa == .scratch && spCell pa == a then spKey b ((pa - 0x40000000000) % 0x400000) else pa

/-- The target's core: the source's, in its place, with what belongs to the cell itself kept (R226). -/
def movedCore (ks kt : Core) (a b : Nat) : Core :=
  { restoredCore ks kt (rename a b) with
    st := .run
    duty := ks.duty
    duties := ks.duties
    migReq := none
    rec_ := none
    late := ks.snapCauses ++ ks.due.toList ++ ks.late
    ueSnap := false
    ceSnap := 0
    due := none
    rcyc := ks.rcyc
    stopReq := ks.stopReq
    ctxasid := ks.ctxasid
    ctxt := ks.ctxt
    lmbase := ks.lmbase
    imem := ks.imem
    ueImem := ks.ueImem
    ceImem := ks.ceImem
    rcache := ks.rcache
    rcidx := ks.rcidx
    ebal := ks.ebal
    erate := ks.erate
    ecost := ks.ecost
    charged := ks.charged }

/-- The scratchpad with its check bits copied to the target, whose own contents are cleared to its SPCAP (R121); one-bit errors are
corrected in the copy and counted (R226). -/
def State.copyPad (s : State) (a b : Nat) : State :=
  let n := (s.core a).spcap
  let s := (s.scrub (spKey a 0) n).count a 0x15 (s.core a).ceSnap
  let sp := s.spBytes a
  let ue := s.ueMem.filter (fun d => inRun (spKey a 0) n (8 * d))
  let s := (s.zeroRun (spKey b 0) (max n (s.core b).spcap)).setHomes (sp.map (fun p => (spKey b p.1, p.2)))
  { s with ueMem := s.ueMem ++ ue.map (fun d => moveAddr a b (8 * d) / 8) }

/-- The transfer slots after a move: those that are busy on the source's engine stay there for the target, what the idle ones hold goes to the
target, and what the target held of a former team is gone (R131, R226). -/
def State.movedSlots (s : State) (a b : Nat) : SMap Xfer :=
  let at_ (c : Nat) (p : Nat × Xfer) : Bool := decide (p.1 < 8192) && p.1 / 8 == c
  let idle := s.xfers.filter (fun p => at_ a p && !p.2.busy)
  let busy := (s.xfers.filter (fun p => !at_ b p && !(at_ a p && !p.2.busy))).map (fun p => (p.1, { p.2 with
    owner := rename a b p.2.owner, side := rename a b p.2.side,
    acc := p.2.acc.map (fun x => { x with src := x.src.map (moveAddr a b) }) }))
  idle.foldl (fun m p => mapSet Xfer.idle m (8 * b + p.1 % 8) p.2) busy

/-- Every access and transfer that names the source names the target (R226, steps 3 and 4; R449). -/
def State.redirect (s : State) (a b : Nat) : State :=
  { s with
    writes := s.writes.map (fun w => { w with cid := rename a b w.cid, bytes := w.bytes.map (fun p => (moveAddr a b p.1, p.2)) })
    reads := s.reads.map (fun r => { r with addr := moveAddr a b r.addr })
    fences := s.fences.map (fun f => { f with cid := rename a b f.cid })
    from_ := s.from_.map (fun f => { f with cid := rename a b f.cid })
    mat := s.mat.map (fun m => { m with owner := rename a b m.owner, eng := rename a b m.eng })
    xfers := s.movedSlots a b
    collects := s.collects.map (fun m => { m with owner := rename a b m.owner, side := rename a b m.side }) }

/-- The move ends: the target holds the context, the LID map names it, and the source keeps only bytes (R226). -/
def State.moveCell (s : State) (m : Migration) : State :=
  let a := m.source
  let b := m.target
  let s := s.copyPad a b
  let ka := s.core a
  let s := (s.modCore b (fun kt => movedCore ka kt a b)).redirect a b
  let s := s.modCore a Core.vacate
  let s := match s.team m.team with
    | none => s
    | some t => { s with sched := { s.sched with lidmap := mapSet 0 s.sched.lidmap (t.lmbase + t.lidOf a) b } }
  let s := s.modTeam m.team (fun t => { t with
    cells := t.cells.map (rename a b)
    homes := t.homes.map (fun h => (h.1, rename a b h.2)) ++ [(a, b)]
    flags := addFlags t.flags flagMigrated
    ended := if t.state == .ending then s.now else t.ended })
  { s with sched := { s.sched with
    migs := s.sched.migs.filter (fun n => n.source != a), retry := s.sched.retry.filter (· != a) } }

/-- MIGRATION_COMPLETE (R226, R449): the copy of a source ends, its own stores and reads having performed (R175). -/
def execMigrationComplete (cid : Nat) (s : State) : Step :=
  .next (match s.sched.migs.find? (fun m => m.source == cid) with
    | none => s
    | some m =>
      if decide (m.since * nsUnit + s.moveTime cid ≤ s.time) && !s.writes.any (fun w => w.cid == cid && !w.ofEngine)
          && !s.reads.any (fun r => r.cid == cid) then s.moveCell m
      else s)

end Sys2Proof.Machine
end

