-- ==== Sys2Proof/Machine/Command.lean ====
section
/-!
DEFINITION. Machine/Command.lean: what stokers do to cells and keys through the management window: CCMD and the system register
images of the control blocks (R179), and the key slots (R120).
-/
namespace Sys2Proof.Machine

/-! ## CCMD (R179) -/

/-- A request can reach the cell: its team is released, and the cell has not halted and is no donor (R179, R339, R376). -/
def State.takesRequest (s : State) (c : Nat) : Bool :=
  let st := (s.core c).st
  (match s.teamOf c with
  | some t => (t.state == .resident || t.state == .leaving || t.state == .ending) && !t.donorCells.contains c
  | none => false) && st != .halted && st != .donor

/-- CCMD_FSTOP: a forced stop is requested; a detail above 3 acts as FORCE (R179, R204). -/
def execCcmdFstop (cid v : Nat) (s : State) : Step :=
  .next (
    let d := bits v 15 8
    if s.takesRequest cid && ((s.core cid).st != .stopped || s.movingCell cid) then
      s.modCore cid (fun k => { k with stopReq := some (if d ≤ 3 then d else 0) })
    else s)

/-- CCMD_YSET (R220, R221). -/
def execCcmdYset (cid : Nat) (s : State) : Step := .next (s.modCore cid Core.askYield)

/-- CCMD_YCLR. -/
def execCcmdYclr (cid : Nat) (s : State) : Step := .next (s.modCore cid (fun k => { k with yreq := false }))

/-- CCMD_MSET: the migration request, with its target; it lands by R226, and never on a donor or a cell with a bound slot
(R225). -/
def execCcmdMset (cid v : Nat) (s : State) : Step :=
  .next (s.modCore cid (fun k => { k with migReq := some (bits v 25 16) }))

/-- CCMD_MCLR. -/
def execCcmdMclr (cid : Nat) (s : State) : Step := .next (s.modCore cid (fun k => { k with migReq := none }))

/-! ## SRIMG (R179) -/

/-- The run state that an image of SEQSTAT gives a core: before the release only halted or not, in a stopped cell as its code
says. -/
def stateOf (k : Core) (code : Nat) : RunState :=
  if k.st == .stopped then
    match code with
    | 0 => .run
    | 1 => .wait
    | 2 => .hold
    | 3 => .donor
    | 4 => .halted
    | _ => .stopped
  else if code = 4 then .halted else .free

/-- A loop stack of a depth: the entries in use that are there, and zero ones above (R31). -/
def loopsTo (l : List LoopEntry) (depth : Nat) : List LoopEntry :=
  ((l.reverse ++ List.replicate depth (⟨0, 0, 0, 0⟩ : LoopEntry)).take depth).reverse

/-- Entry i`n` of the loop stack changed; entries at or above DEPTH hold nothing. -/
def Core.modLoop (k : Core) (n : Nat) (f : LoopEntry → LoopEntry) : Core :=
  { k with loops := (k.loops.reverse.zipIdx.map (fun p => if p.2 = n then f p.1 else p.1)).reverse }

/-- The outstanding producers of 16 tokens from `t` on, as a TOKCNT word counts them. -/
def countedProds (old : List Producer) (t : Nat) (v : Word) : List Producer :=
  old.filter (fun p => decide (p.tok < t) || decide (t + 16 ≤ p.tok))
    ++ (List.range 16).flatMap (fun i => List.replicate (field v (4 * i + 3) (4 * i)) ⟨t + i, 0⟩)

/-- A bucket's rate changed: its balance is cut to the new capacity (R451). -/
def Core.setRate (k : Core) (rate : Nat) : Core := { k with erate := rate, ebal := min k.ebal (1000 * (rate : Int)) }

/-- System register `n` of a core set as the load phase presets it: RO and W1C fields as given, reserved bits not. -/
def Core.setImage (k : Core) (n : Nat) (v : Word) : Core :=
  if 0x012 ≤ n ∧ n ≤ 0x017 then k.modLoop (n - 0x012) (fun e => { e with index := field v 31 0, count := field v 63 32 })
  else if 0x018 ≤ n ∧ n ≤ 0x01D then k.modLoop (n - 0x018) (fun e => { e with start := field v 15 0, stop := field v 31 16 })
  else if 0x042 ≤ n ∧ n ≤ 0x045 then { k with sctab := mapSet 0x3F803F803F803F80 k.sctab (n - 0x042) v }
  else if 0x068 ≤ n ∧ n ≤ 0x06F then { k with hand := { k.hand with frec := mapSet 0 k.hand.frec (n - 0x068) v } }
  else if 0x070 ≤ n ∧ n ≤ 0x077 then { k with evsel := mapSet 0 k.evsel (n - 0x070) (v &&& 0x3FF) }
  else if 0x078 ≤ n ∧ n ≤ 0x07F then { k with evcnt := mapSet 0 k.evcnt (n - 0x078) (v &&& 0xFFFFFFFFFFFF) }
  else if 0x082 ≤ n ∧ n ≤ 0x086 then { k with ecost := mapSet 0 k.ecost (n - 0x082) (field v 31 0) }
  else match n with
    | 0x010 => { k with pc := field v 15 0 }
    | 0x011 => { k with
        st := stateOf k (field v 2 0), waitk := field v 7 4, loops := loopsTo k.loops (min 6 (field v 10 8)),
        yreq := bit v.toNat 11, rptLeft := field v 19 12 }
    | 0x020 => { k with team := v &&& 0x3FFFFFFFF }
    | 0x021 => { k with lidq := v &&& 0x3FF }
    | 0x022 => { k with predst := v &&& 0x3FFFFFFFF }
    | 0x023 => { k with wswap := v &&& 0xFFFFFFFF }
    | 0x030 => { k with slack := v &&& 0xFFF }
    | 0x031 => { k with skew := v &&& 0x3F3F3F }
    | 0x032 => { k with bind := v &&& 0xFFF }
    | 0x033 => { k with outcnt := mapSetAll 0 [] ((List.range 4).map (fun i => (i, field v (8 * i + 5) (8 * i)))) }
    | 0x040 => { k with fmt := v &&& fmtMask }
    | 0x041 => { k with vstat := v &&& 0x7F }
    | 0x046 => { k with swz := v &&& 0x1FFF }
    | 0x047 => { k with unf0 := v &&& imageMask 0x047 }
    | 0x048 => { k with unf1 := v &&& imageMask 0x048 }
    | 0x049 => { k with apx := v &&& 0x1F3FFF }
    | 0x04A => { k with apxcnt := v &&& 0xFFFFFFFF }
    | 0x050 => { k with tagidx := v &&& 0x3FF }
    | 0x052 => { k with rcidx := v &&& 0xFF }
    | 0x058 => { k with prods := countedProds k.prods 0 v }
    | 0x059 => { k with prods := countedProds k.prods 16 v }
    | 0x05A => { k with tokerr := v &&& 0xFFFFFFFE }
    | 0x060 => { k with hand := { k.hand with hvec := v &&& 0x3FFFF } }
    | 0x061 => { k with hand := { k.hand with epc := v &&& 0x8000000000FFFFFF } }
    | 0x062 => { k with ycfg := v &&& 0x7FFFFFFFF }
    | 0x063 => { k with ystat := v &&& 0x3FFFFFFFF }
    | 0x080 => { k with ebal := v.toInt }
    | 0x081 => k.setRate (field v 31 0)
    | _ => k

/-- The registers that take a stoker's write at any time: ERATE, ECOST0 to ECOST4 and PREDST (R179). -/
def anyTime (n : Nat) : Bool := decide (0x081 ≤ n) && decide (n ≤ 0x086) || n == 0x022

/-- The cell takes register images: no team holds it, its load phase runs, or it is stopped (R179). -/
def State.takesImage (s : State) (c : Nat) : Bool :=
  match s.teamOf c with
  | none => true
  | some t => t.state == .loading || t.state == .loaded || (s.core c).st == .stopped

/-- The stage counters and BUSY bits of a cell's slots as XSTAGE gives them (R133, R179). A slot made busy holds a transfer without
moves, which its engine finds over; one made idle drops its transfer (log 56: DESIGN CHOICE). -/
def State.setStages (s : State) (c : Nat) (v : Word) : State :=
  (List.range 8).foldl (fun s i =>
    s.modXfer (s.slotKey c i) (fun x => { x with
      stage := field v (7 * i + 6) (7 * i), busy := bit v.toNat (56 + i), started := x.busy && x.started || bit v.toNat (56 + i)
      owner := if x.busy then x.owner else c, eng := if x.busy then x.eng else c, side := if x.busy then x.side else c })) s

/-- SRIMG_WRITE (R179). -/
def execSrimgWrite (cid reg v : Nat) (s : State) : Step :=
  .next (
    if cid < 1024 ∧ 0x010 ≤ reg ∧ reg ≤ 0x086 ∧ (anyTime reg || s.takesImage cid) then
      if reg = 0x05B then s.setStages cid (word v) else s.modCore cid (fun k => k.setImage reg (word v))
    else s)

/-! ## Key slots (R120) -/

/-- KEYDAT_WRITE: 64 bits of key are staged. -/
def execKeydatWrite (i v : Nat) (s : State) : Step :=
  .next { s with sched := { s.sched with keydat := mapSet 0 s.sched.keydat (i % 8) (word v) } }

/-- A KEYCTL action begins to wait: bits 6:0 its slot, bits 9:8 its operation. -/
def State.askKey (s : State) (v op : Nat) : State :=
  { s with sched := { s.sched with keyctl := some (v % 128 + op * 256) } }

/-- KEYCTL_LOAD. -/
def execKeyctlLoad (v : Nat) (s : State) : Step := .next (s.askKey v 1)

/-- KEYCTL_EMPTY. -/
def execKeyctlEmpty (v : Nat) (s : State) : Step := .next (s.askKey v 2)

/-- A transfer in flight uses a key slot: a record that it holds names it, or a stoker saves or restores under it. -/
def State.keyInUse (s : State) (k : Nat) : Bool :=
  s.xfers.any (fun p => p.2.busy && p.2.started && (recKey p.2.srec == some k || recKey p.2.drec == some k))
    || (List.range 6).any (fun n =>
      match (s.core (1024 + n)).waits.op with
      | some (.ctxs _ _) => bit (s.core (1024 + n)).ctxA.toNat 19 && field (s.core (1024 + n)).ctxA 26 20 == k
      | some (.ctxr _ _) => bit (s.core (1024 + n)).ctxA.toNat 19 && field (s.core (1024 + n)).ctxA 26 20 == k
      | _ => false)

/-- The staged key of 512 bits. -/
def Sched.stagedKey (c : Sched) : Nat :=
  (List.range 8).foldl (fun x i => x + (mapGet 0 c.keydat i).toNat * 2 ^ (64 * i)) 0

/-- KEY_SLOT_UPDATE: the action runs once no transfer in flight uses its slot. -/
def execKeySlotUpdate (s : State) : Step :=
  .next (match s.sched.keyctl with
    | none => s
    | some v =>
      let slot := v % 128
      if s.keyInUse slot then s
      else
        let key := if v / 256 = 1 then some s.sched.stagedKey else none
        { s with sched := { s.sched with
          key := mapSet none s.sched.key slot key, keydat := [], keyctl := none, keyfull := key.isSome } })

end Sys2Proof.Machine
end

