-- ==== Sys2Proof/Machine/Launch.lean ====
section
/-!
DEFINITION. Machine/Launch.lean: launches (R51, R187 to R194, R236, R239, R240): what the scheduler reads and checks, placement, the
load phase, release, and the placing of a saved team (R49, R222, R249).
-/
namespace Sys2Proof.Machine

/-! ## Firmware's reads of device memory -/

/-- A translation made by firmware, through the tables alone (R103). -/
def State.firmTransl (s : State) (asid va : Nat) : Trap ⊕ Transl :=
  match s.ctxSlot asid with
  | none => .inl (walkTrap 0x00 5 va)
  | some n =>
    match (s.findRange (bits (s.cx n 2).toNat 51 12 * 4096) asid va (field (s.cx n 2) 58 52) 0 0).1 with
    | some t => t
    | none => s.walkFrom asid va 4 (bits (s.cx n 1).toNat 51 12 * 4096)

/-- A run of bytes cut at 4 KiB boundaries: start and length of each part; an empty run has none (log 60: DESIGN CHOICE). -/
def pageParts (va n : Nat) : List (Nat × Nat) :=
  (List.range (if n = 0 then 0 else (va % 4096 + n + 4095) / 4096)).map (fun i =>
    let a := max va ((va / 4096 + i) * 4096)
    (a, min (va + n) ((va / 4096 + i + 1) * 4096) - a))

/-- The physical start and length of each part of a run, or the first trap that it meets (R103 to R107). -/
def State.firmRun (s : State) (asid va n : Nat) (write : Bool) : Trap ⊕ List (Nat × Nat) :=
  allOk ((pageParts va n).map (fun p =>
    match s.firmTransl asid p.1 with
    | .inl t => .inl t
    | .inr t =>
      match s.translCheck t p.1 p.2 write false with
      | some e => .inl e
      | none => .inr (t.phys p.1, p.2)))

/-- What a run's translation refuses; an empty run refuses nothing. -/
def State.runTrap (s : State) (asid va n : Nat) (write : Bool) : Option Trap :=
  match s.firmRun asid va n write with
  | .inl t => some t
  | .inr _ => none

/-- The bytes of a run of device memory at home; an uncorrectable error fails it (R95). -/
def State.firmBytes (s : State) (asid va n : Nat) : Trap ⊕ List Nat :=
  match s.firmRun asid va n false with
  | .inl t => .inl t
  | .inr l =>
    if l.any (fun p => s.ueIn p.1 p.2) then .inl (trapAt 5 0x02 va)
    else .inr (l.flatMap (fun p => (List.range p.2).map (fun i => (s.home (p.1 + i)).toNat)))

/-- Bytes as little-endian numbers of `w` bytes. -/
def wordsOf (w : Nat) (l : List Nat) : List Nat := (List.range (l.length / w)).map (fun i => bytesNat ((l.drop (w * i)).take w))

/-- The doublewords of a run of device memory. -/
def State.firmWords (s : State) (asid va n : Nat) : Trap ⊕ List Nat :=
  match s.firmBytes asid va (8 * n) with
  | .inl t => .inl t
  | .inr l => .inr (wordsOf 8 l)

/-! ## The queue table (R185) -/

/-- Address of a queue's entry. -/
def State.queueAt (s : State) (q : Nat) : Nat := s.sched.qtbase + 32 * q
/-- Word `i` of a queue's entry. -/
def State.queueWord (s : State) (q i : Nat) : Nat := s.homeNat (s.queueAt q + 8 * i) 8
/-- Word 2 of a queue's entry changed. -/
def State.modQueue (s : State) (q : Nat) (f : Nat → Nat) : State := s.storePlain (s.queueAt q + 16) 8 (f (s.queueWord q 2))
/-- PRIO of a queue. -/
def State.queuePrio (s : State) (q : Nat) : Nat := bits (s.queueWord q 0) 58 56
/-- The ASID of a queue's context slot. -/
def State.queueAsid (s : State) (q : Nat) : Nat := field (s.cx (bits (s.queueWord q 1) 5 0) 0) 15 0
/-- SIGF is set. -/
def State.setSigf (s : State) (q : Nat) : State := s.modQueue q (fun w => setBits w 35 35 1)
/-- BADPKT is set. -/
def State.setBadpkt (s : State) (q : Nat) : State := s.modQueue q (fun w => setBits w 36 36 1)

/-! ## The descriptor's checks (R189, R239) -/

/-- DIEMASK, 0 meaning every die. -/
def Team.dieMask (t : Team) : Nat := if bits (t.d 0) 36 29 = 0 then 255 else bits (t.d 0) 36 29
/-- PLACE. -/
def Team.place (t : Team) : Nat := bits (t.d 0) 28 26
/-- NBIND. -/
def Team.nbind (t : Team) : Nat := bits (t.d 0) 40 37
/-- Binding-table entry `e`, 16 bits. -/
def Team.bindEntry (t : Team) (e : Nat) : Nat := bits (t.d (10 + e / 4)) (16 * (e % 4) + 15) (16 * (e % 4))

/-- The sizes under which the team may run: NCELL of every point, or SIZE. -/
def Team.sizes (t : Team) : List Nat := if t.points.isEmpty then [bits (t.d 0) 18 8] else t.points.map ptCells

/-- The images of the team: address and length in words, for every point or for the descriptor. -/
def Team.imagesOf (t : Team) : List (Nat × Nat) :=
  if t.points.isEmpty then [(bits (t.d 1) 56 0, bits (t.d 2) 15 0)]
  else t.points.map (fun p => (bits (ptWord p 2) 56 0, bits (ptWord p 3) 15 0))

/-- The first check of R189: every address translates with its rights. -/
def State.addressCheck (s : State) (t : Team) : Option Trap :=
  let most := t.sizes.foldl max 0
  firstTrap ((t.imagesOf.map (fun p => s.runTrap t.asid p.1 (4 * p.2) false)) ++
    [if bits (t.d 6) 56 0 = 0 then none
        else firstTrap [s.runTrap t.asid (bits (t.d 6) 56 0) 32 false, s.runTrap t.asid (bits (t.d 6) 56 0) 32 true],
      s.runTrap t.asid (bits (t.d 7) 56 0) (2 * bits (t.d 8) 15 0) false,
      if t.place = 1 then s.runTrap t.asid (bits (t.d 9) 56 0) (2 * most) false else none])

/-- The fields that hold whatever OPT is. -/
def Team.fieldsOk (t : Team) : Bool :=
  bits (t.d 0) 7 0 == 1 && bits (t.d 0) 63 44 == 0 && decide (t.place ≤ 3) && decide (t.nbind ≤ 8)
    && decide (1 ≤ bits (t.d 0) 25 19) && decide (bits (t.d 0) 25 19 ≤ 64)
    && bits (t.d 1) 63 57 == 0 && bits (t.d 2) 63 44 == 0 && bits (t.d 4) 63 33 == 0
    && [5, 6, 7, 9].all (fun i => bits (t.d i) 63 57 == 0) && t.d 6 % 32 == 0 && t.d 7 % 2 == 0 && bits (t.d 8) 63 16 == 0
    && (List.range 8).all (fun e => bits (t.bindEntry e) 15 10 == 0)

/-- An image and its entry are legal. -/
def imageOk (va len entry : Nat) : Bool :=
  va % 4 == 0 && bits va 63 57 == 0 && decide (1 ≤ len) && decide (len ≤ 49152) && decide (entry < len)

/-- One point is legal (R239). -/
def pointOk (pwlay : Nat) (p : List Nat) : Bool :=
  !bit (ptWord p 0) 27 && bits (ptWord p 0) 63 32 == 0 && imageOk (ptWord p 2) (bits (ptWord p 3) 15 0) (bits (ptWord p 3) 31 16)
    && bits (ptWord p 3) 63 32 == pwlay && decide (1 ≤ ptTpi p) && [5, 6, 7].all (fun i => ptWord p i == 0)

/-- Sizes are in range and hold every stage, and the binding table's LIDs are distinct, below the size, and not 0. -/
def Team.sizesOk (t : Team) : Bool :=
  let b := (List.range t.nbind).map (fun e => bits (t.bindEntry e) 9 0)
  t.sizes.all (fun n => decide (1 ≤ n) && decide (n ≤ 1024) && decide (bits (t.d 0) 25 19 ≤ n) && b.all (fun l => decide (l < n)))
    && b.all (· != 0) && b.eraseDups.length == b.length

/-- Cells of a die, of a cluster. -/
def cellsOfDie (d : Nat) : List Nat := (List.range 128).map (128 * d + ·)
/-- Cells of a cluster. -/
def cellsOfCluster (q : Nat) : List Nat := (List.range 8).map (8 * q + ·)

/-- A die may serve the team: it is in DIEMASK, and passed its test. -/
def State.dieServes (s : State) (t : Team) (d : Nat) : Bool := bit t.dieMask d && bit s.ident.dieok d

/-- The placement of a size can be met by dies whose DIEOK bits are 1 (R189, R190). -/
def State.placeable (s : State) (t : Team) (n : Nat) : Bool :=
  let dies := (List.range 8).filter (s.dieServes t)
  match t.place with
  | 1 =>
    let l := t.pins.take n
    l.length == n && l.eraseDups.length == n && l.all (fun c => decide (c < 1024) && s.dieServes t (dieOf c))
  | 2 => decide (n ≤ 8) && !dies.isEmpty
  | 3 => decide (n ≤ 128) && !dies.isEmpty
  | _ => decide (n ≤ 128 * dies.length)

/-- BD, detail DESC. -/
def trapDesc : Trap := trapOf 8 0x0B

/-- The trap that a reading met. -/
def readTrap (r : Trap ⊕ List Nat) : Option Trap := r.elim some (fun _ => none)

/-- What a reading gave; nothing where it met a trap. -/
def readList (r : Trap ⊕ List Nat) : List Nat := r.elim (fun _ => []) id

/-- The checks of R189 on a descriptor and its lists that have been read, in their order. `tableOk` is what R239 says of the table. A list
that could not be read fails the check of what it lists, with its own trap. -/
def State.descCheck (s : State) (t : Team) (tableOk : Bool) (recs pins : Trap ⊕ List Nat) : Option Trap :=
  firstTrap [s.addressCheck t,
    if t.fieldsOk && tableOk && t.sizesOk
        && (!t.points.isEmpty || imageOk (t.d 1) (bits (t.d 2) 15 0) (bits (t.d 2) 31 16)) then none else some trapDesc,
    firstTrap (readTrap recs :: (readList recs).map (s.recordForm t.asid)),
    readTrap pins,
    if t.sizes.all (s.placeable t) then none else some (trapOf 8 0x0C)]

/-! ## Reading a launch (R187, R188, R236, R239) -/

/-- A launch before its descriptor has been read. -/
def Team.new (id q no : Nat) (graph : Option Nat) (asid value prio : Nat) : Team where
  id := id
  queue := q
  pktNo := no
  graph := graph
  asid := asid
  value := value
  desc := []
  pins := []
  recs := []
  sigAddr := 0
  size := 0
  nstage := 1
  donors := []
  lmbase := 0
  cells := []
  homes := []
  entry := 0
  hasPred := false
  pred := none
  state := .waiting
  dep := .none
  started := 0
  ended := 0
  lastSeq := 0
  error := 0
  flags := 0
  saved := []
  fault := none
  faultLid := 0
  placed := 0
  loadTime := 0
  asked := 0
  aged := 0
  prio := prio
  ecls := 0
  points := []
  point := 0
  deadline := 0
  iters := 0
  done := 0
  doneDen := 1
  allot := 0
  settled := 0
  spent := 0
  next := 0
  parked := 0
  hamper := 0
  reloadWait := false

/-- An operating-point table: whether R239 holds of it, and its points. -/
def State.readTable (s : State) (asid va : Nat) : Trap ⊕ (Bool × List (List Nat)) :=
  match s.firmWords asid va 2 with
  | .inl t => .inl t
  | .inr h =>
    let n := bits (h.getD 0 0) 3 0
    let pw := bits (h.getD 0 0) 63 32
    match s.firmWords asid (va + 16) (8 * n) with
    | .inl t => .inl t
    | .inr w =>
      let ps := (List.range n).map (fun i => (w.drop (8 * i)).take 8)
      .inr (bits (h.getD 0 0) 31 4 == 0 && h.getD 1 0 == 0 && decide (1 ≤ n) && decide (n ≤ 8) && ps.all (pointOk pw), ps)

/-- A list of 16-bit numbers in device memory, or the trap that reading it meets (R95, R103). -/
def State.firmHalves (s : State) (asid va n : Nat) : Trap ⊕ List Nat :=
  match s.firmBytes asid va (2 * n) with
  | .inl e => .inl e
  | .inr l => .inr (wordsOf 2 l)

/-- LRLIST of a team (R188). -/
def State.recList (s : State) (t : Team) : Trap ⊕ List Nat := s.firmHalves t.asid (bits (t.d 7) 56 0) (bits (t.d 8) 15 0)

/-- PINLIST of a team, where it is pinned (R188). -/
def State.pinList (s : State) (t : Team) : Trap ⊕ List Nat :=
  if t.place = 1 then s.firmHalves t.asid (bits (t.d 9) 56 0) (t.sizes.foldl max 0) else .inr []

/-- The relaunch of a variant is checked again before any cell is allocated (R189, R240, R252; log 60: DESIGN CHOICE of when). -/
def State.relaunchTrap (s : State) (t : Team) : Option Trap :=
  if t.dep == .variant then s.descCheck t true (s.recList t) (s.pinList t) else none

/-- The team of a launch with its descriptor read, and the trap that ends it, if any (R188, R189). -/
def State.readLaunch (s : State) (t : Team) (descVa : Nat) : Team × Option Trap :=
  match s.firmWords t.asid descVa 20 with
  | .inl e => (t, some e)
  | .inr d =>
    let t := { t with desc := d, ecls := bits (d.getD 0 0) 43 42, nstage := bits (d.getD 0 0) 25 19,
                      hasPred := t.graph.isNone && bit (d.getD 0 0) 41 }
    let t := { t with sigAddr := bits (t.d 6) 56 0, donors := (List.range t.nbind).map (fun e => bits (t.bindEntry e) 9 0) }
    let opt := bits (t.d 5) 56 0
    match (if opt = 0 then .inr (true, []) else s.readTable t.asid opt : Trap ⊕ (Bool × List (List Nat))) with
    | .inl e => (t, some e)
    | .inr (ok, ps) =>
      let t := { t with points := ps }
      let t := { t with pins := readList (s.pinList t), recs := readList (s.recList t) }
      (t.atPoint 0, s.descCheck t ok (s.recList t) (s.pinList t))

/-- A team joins the scheduler's list. -/
def State.addTeam (s : State) (t : Team) : State := { s with sched := { s.sched with teams := s.sched.teams ++ [t] } }

/-- A launch that fails before its first release: START and END are now, and ABANDONED (R194). One whose error is a variant's
relaunch ends with PK VARIANT in place of it, STOPPED and RESUMED; so does a saved team's placing, with its own error. -/
def Team.abandon (t : Team) (now error : Nat) : Team :=
  if t.dep == .variant then
    { t with state := .ended, ended := now, error := errorCode 0x0D 1 none, flags := addFlags t.flags (flagStopped + flagResumed) }
  else if t.started = 0 then { t with state := .ended, started := now, ended := now, error := error, flags := flagAbandoned }
  else { t with state := .ended, ended := now, error := error, flags := addFlags t.flags (flagStopped + flagResumed) }

/-- The launch fails with a trap. -/
def Team.abandonTrap (t : Team) (now : Nat) (e : Trap) : Team := t.abandon now (errorCode e.cls e.detail none)

/-- A launch is consumed (R188, R189): its descriptor is read once and checked. -/
def State.newLaunch (s : State) (t : Team) (descVa : Nat) : State :=
  let r := s.readLaunch t descVa
  let t := match r.2 with
    | none => r.1
    | some e => r.1.abandonTrap s.now e
  { s.addTeam t with sched := { (s.addTeam t).sched with nextId := t.id + 1 } }

/-! ## Placement (R190, R191, R254) -/

/-- The cell may be taken for a team now: idle, and not the target of a migration request (R191, R225; log 34: DESIGN CHOICE). -/
def State.cellFree (s : State) (c : Nat) : Bool := s.cellIdle c && !s.cores.any (fun p => p.2.migReq == some c)

/-- A list sorted by rank, the earlier first on a tie. -/
def insertBy (f : Nat → Nat) (x : Nat) : List Nat → List Nat
  | [] => [x]
  | y :: l => if f x < f y then x :: y :: l else y :: insertBy f x l

/-- Insertion sort by rank. -/
def sortBy (f : Nat → Nat) (l : List Nat) : List Nat := l.foldl (fun m x => insertBy f x m) []

/-- `n` of the cells of a list, as the firmware prefers them (log 8), in CID order. -/
def takeCells (id n : Nat) (l : List Nat) : Option (List Nat) :=
  if n ≤ l.length then some (sortBy (fun c => c) ((sortBy (Config.cellPreference id) l).take n)) else none

/-- The first choice of a list of groups, by the firmware's preference, whose free cells suffice. -/
def chooseGroup (id n : Nat) (free : Nat → List Nat) (groups : List Nat) : Option (List Nat) :=
  (sortBy (Config.cellPreference id) groups).findSome? (fun g => takeCells id n (free g))

/-- The cells that a team of `n` takes among those that a test admits (R190). -/
def State.chooseFrom (s : State) (t : Team) (n : Nat) (ok : Nat → Bool) : Option (List Nat) :=
  let may (c : Nat) : Bool := s.dieServes t (dieOf c) && ok c
  match t.place with
  | 1 => if (t.pins.take n).all may && (t.pins.take n).length == n then some (t.pins.take n) else none
  | 2 => chooseGroup t.id n (fun q => (cellsOfCluster q).filter may) (List.range 128)
  | 3 => chooseGroup t.id n (fun d => (cellsOfDie d).filter may) (List.range 8)
  | _ => takeCells t.id n ((List.range 1024).filter may)

/-- The cells that a team takes now (R182, R190). -/
def State.choose (s : State) (t : Team) : Option (List Nat) := s.chooseFrom t t.size s.cellFree

/-- The cell will be free once its die's ungating ramp or its clear ends, with a first sample (R121, R225, R254). -/
def State.coming (s : State) (c : Nat) : Bool :=
  (s.teamOf c).isNone && bit s.ident.dieok (dieOf c)
    && (s.power.ramp == some (dieOf c, true)
      || (!bit s.ident.gated (dieOf c) && (s.power.ramp.all (fun r => r.1 != dieOf c))
        && (s.sched.clearing.contains c || !s.power.sampled.contains c)))

/-- The gated dies that a placement must wait for: the latest gated ones that make it possible, none where they do not help
(R254, R450). -/
def State.diesFor (s : State) (t : Team) (n : Nat) : List Nat :=
  let gated := s.power.gatedBy.filter (s.dieServes t)
  let with_ (m : Nat) (c : Nat) : Bool := s.cellFree c || s.coming c || ((gated.take m).contains (dieOf c))
  match (List.range (gated.length + 1)).find? (fun m => (s.chooseFrom t n (with_ m)).isSome) with
  | some m => if t.place = 0 then gated.take m else (gated.take m).drop (m - 1)
  | none => []

/-- The lowest base in the LID map store whose run of `n` entries no team holds (R179). -/
def State.freeMap (s : State) (n : Nat) : Nat :=
  let held := (s.sched.teams.filter Team.holds).map (fun t => (t.lmbase, t.size))
  (sortBy (fun x => x) (0 :: held.map (fun p => p.1 + p.2))).find? (fun b =>
    decide (b + n ≤ 65536) && held.all (fun p => !overlaps b n p.1 p.2)) |>.getD 0

/-- The LID map of a team's cells is written (R40, R179). -/
def State.writeMap (s : State) (base : Nat) (cells : List Nat) : State :=
  { s with sched := { s.sched with lidmap := mapSetAll 0 s.sched.lidmap (cells.zipIdx.map (fun p => (base + p.2, p.1))) } }

/-- The cells that the team left keep naming it where it now stands (R226, R249). -/
def newHomes (old : List (Nat × Nat)) (was is_ : List Nat) : List (Nat × Nat) :=
  let moved := (was.zip is_).filter (fun p => p.1 != p.2)
  let at_ (c : Nat) : Nat := ((moved.find? (fun p => p.1 == c)).map Prod.snd).getD c
  old.map (fun h => (h.1, at_ h.2)) ++ moved

/-! ## The load phase (R121, R192) -/

/-- A cell cleared for another context: scratchpad and tag table (R121). -/
def State.clearCell (s : State) (c : Nat) : State :=
  (s.zeroRun (spKey c 0) (s.core c).spcap).modCore c (fun k => { k with tags := [], ueTags := [], ceTags := [] })

/-- TEAM of LID `l` (R40, R188). -/
def Team.teamWord (t : Team) (l : Nat) : Word :=
  pack [(l, 0), (l * t.nstage / (max 1 t.size), 10), (t.size, 16), (t.nstage, 27)]

/-- The record cache of a team (R396). -/
def State.cacheOf (s : State) (t : Team) : SMap CachedRecord :=
  mapSetAll ⟨0, 0, 0, false⟩ [] ((t.recs.take 256).zipIdx.map (fun p =>
    let r := (s.layoutRecord t.asid p.1).getD []
    (p.2, ⟨p.1, word (recWord r 2), word (recWord r 3), true⟩)))

/-- WSWAP of a descriptor (R188). -/
def Team.thresh (t : Team) : Nat := if bit (t.d 4) 32 then 0x10000 else bits (t.d 4) 31 0

/-- The core of LID `l` under the presets of its load phase: R28's state with those of R192 and R266. -/
def Core.preset (k : Core) (t : Team) (l : Nat) (pred : Word) : Core :=
  { Core.reset with
    spcap := k.spcap
    celltemp := k.celltemp
    tags := k.tags
    ueTags := k.ueTags
    ceTags := k.ceTags
    ecost := k.ecost
    erate := k.erate
    pc := t.entry
    fmt := word t.fmtPreset &&& fmtMask
    slack := word (bits (t.d 2) 43 32)
    wswap := word t.thresh
    s := mapSetAll 0 [] ((List.range 8).map (fun i => (1 + i, word (t.d (12 + i)))))
    team := t.teamWord l
    predst := pred
    apx := apxOfKnob t.qk
    ctxasid := word t.asid
    ctxt := t.asid
    lmbase := t.lmbase }

/-- The load phase of one cell begins: it is cleared and preset (R121, R192). Images that stokers write before it ends stand (R179). -/
def State.presetCell (s : State) (t : Team) (l c : Nat) : State :=
  let k := s.core c
  let s := if k.ctxt != 0 && k.ctxt != t.asid then s.clearCell c else s
  let s := { s with xfers := s.xfers.filter (fun p => p.1 / 8 != c || decide (8192 ≤ p.1)) }
  s.modCore c (fun k => { k.preset t l (s.predWord t) with erate := t.cellRate })

/-- The load phase of one cell ends: its instruction memory and its records are there (R122, R192). -/
def State.loadCell_ (s : State) (t : Team) (c : Nat) (imem : SMap Lane) : State :=
  s.modCore c (fun k => { k with imem := imem, ueImem := [], ceImem := [], rcache := s.cacheOf t })

/-- A team takes its cells in one step, and its load phase starts (R191, R192). -/
def State.allocate (s : State) (t : Team) (cells : List Nat) : State :=
  let base := s.freeMap t.size
  let t := { t with
    state := .loading, lmbase := base, homes := if t.saved.isEmpty then [] else newHomes t.homes t.cells cells,
    cells := cells, placed := s.now, asked := 0, allot := if t.allot = 0 then s.firstAllot t else t.allot }
  cells.zipIdx.foldl (fun s p => s.presetCell t p.2 p.1) ((s.writeMap base cells).modTeam t.id (fun _ => t))

/-- The instruction image of a team, or the trap that reading it meets. -/
def State.readImage (s : State) (t : Team) : Trap ⊕ SMap Lane :=
  match s.firmBytes t.asid t.imageVa (4 * t.imageLen) with
  | .inl e => .inl e
  | .inr l => .inr (mapSetAll 0 [] ((wordsOf 4 l).zipIdx.map (fun p => (p.2, BitVec.ofNat 32 p.1))))

/-- The cell that now stands where one of a saved team stood. -/
def Team.movedTo (t : Team) (c : Nat) : Nat :=
  ((t.saved.find? (fun p => p.2.any (fun v => v.cid == c))).map (fun p => t.cells.getD p.1 c)).getD c

/-- A team's saved cells restored over its load phase (R331, R249). -/
def State.restoreTeam (s : State) (t : Team) : State :=
  let s := t.cells.zipIdx.foldl (fun s p =>
    match mapGet none t.saved p.2 with
    | none => s
    | some v => s.restoreCell v t.movedTo p.1 true) s
  s.modTeam t.id (fun t => { t with flags := addFlags t.flags flagResumed })

/-- A launch in its load phase fails: its cells are freed (R194). -/
def State.abandonLoad (s : State) (t : Team) (e : Trap) : State := (s.freeCells t).modTeam t.id (fun t => t.abandonTrap s.now e)

/-- LOAD_PHASE_DONE: every cell of the team is loaded, and restored where the team was saved; the team may be released (R192,
R194). -/
def execLoadPhaseDone (team : Nat) (s : State) : Step :=
  .next (match s.team team with
    | none => s
    | some t =>
      if t.state != .loading then s
      else match s.readImage t with
        | .inl e => s.abandonLoad t e
        | .inr im =>
          let s := t.cells.foldl (fun s c => s.loadCell_ t c im) s
          let s := if t.saved.isEmpty then s else s.restoreTeam t
          s.modTeam team (fun t => { t with
            state := .loaded, flags := if t.dep == .variant then addFlags t.flags flagResumed else t.flags }))

/-- CELL_CLEAR_DONE: the clear of a newly ungated die's cell ends; it carries no context and is free (R121). -/
def execCellClearDone (cid : Nat) (s : State) : Step :=
  .next (if !s.sched.clearing.contains cid then s
    else
      let s := (s.clearCell cid).modCore cid (fun k => { Core.reset with
        spcap := k.spcap, celltemp := k.celltemp, ecost := k.ecost, erate := k.erate })
      { s with sched := { s.sched with clearing := s.sched.clearing.filter (· != cid) } })

end Sys2Proof.Machine
end

