-- ==== Sys2Proof/Machine/Scheduler.lean ====
section
/-!
DEFINITION. Machine/Scheduler.lean: queues and the scheduler's minor frame (R180 to R187, R195 to R203), graphs (R236, R237), swaps and
slices (R49, R54, R222, R223).
-/
namespace Sys2Proof.Machine

/-! ## Queues -/

/-- The stoker that holds a role and runs (R19, R178). -/
def State.roleStoker (s : State) (role : Nat) : Option Nat :=
  (List.range 6).find? (fun n => s.roleOf n == role && !s.firm.dead.contains n)

/-- The role is served now: by a stoker, and not in the adopt frame of a hand-over (R276). -/
def State.acting (s : State) (role : Nat) : Bool :=
  (s.roleStoker role).isSome && !s.firm.fwsub.any (fun h => h.phase == 4 && h.role == role)

/-- The scheduler serves queues: READY is 1 and its role is served (R26, R178). -/
def State.serves (s : State) : Bool := s.ident.ready && s.acting 1

/-- QDB_WRITE: the tail is kept, and the doorbell summary bit is set (R184). -/
def execQdbWrite (q v : Nat) (s : State) : Step :=
  .next (if q < 4096 then
      { s with sched := { s.sched with qdb := mapSet 0 s.sched.qdb q (v % 2 ^ 32), bells := mapSet false s.sched.bells q true } }
    else s)

/-- The command is the one that QCTL holds: its queue and one of its operations (R183). -/
def State.commanded (s : State) (q : Nat) (ops : List Nat) : Bool :=
  match s.sched.qctl with
  | some v => v % 4096 == q && ops.contains (bits v 14 12)
  | none => false

/-- A command served with a code (R183). -/
def State.served (s : State) (code : Nat) : State :=
  { s with sched := { s.sched with qctl := none, qdone := true, qcode := code } }

/-- What enable answers for a queue (R185). -/
def State.enableCode (s : State) (q : Nat) : Nat :=
  let w0 := s.queueWord q 0
  let w1 := s.queueWord q 1
  let lnp := bits w0 55 52
  let base := bits w0 51 0
  if bits w0 63 59 != 0 || bits w1 63 6 != 0 || decide (lnp < 4) || decide (15 < lnp) || base % 64 != 0 || regionOf base != .hbm then 1
  else if !bit (s.cx (bits w1 5 0) 0).toNat 16 then 3
  else if s.queueState q = 1 ∨ s.queueState q = 2 then 2
  else 0

/-- QCTL_ENABLE (R184, R185): the doorbell kept for the queue is served from the next poll slot on. Enabling sets the queue's bit of the
doorbell summary again, so DBSUM and QPOLL show it although no doorbell was written since (log 61: DESIGN CHOICE). -/
def State.qctlEnable (s : State) (q : Nat) : State :=
  let code := s.enableCode q
  if code = 0 then
    let s := s.modQueue q (fun w => setBits w 34 32 1)
    { s with sched := { s.sched with
      bells := mapSet false s.sched.bells q true, last := mapSet none s.sched.last q none } }.served 0
  else s.served code

/-- QCTL_ENABLE. -/
def execQctlEnable (q : Nat) (s : State) : Step := .next (if s.serves && s.commanded q [1] then s.qctlEnable q else s)

/-- QCTL_CLEAR_STICKY: SIGF, BADPKT and OVR (R185). -/
def State.qctlClear (s : State) (q : Nat) : State := (s.modQueue q (fun w => setBits w 37 35 0)).served 0

/-- QCTL_CLEAR_STICKY. -/
def execQctlClearSticky (q : Nat) (s : State) : Step := .next (if s.serves && s.commanded q [3] then s.qctlClear q else s)

/-- QCTL_NO_ACTION (R183). -/
def execQctlNoAction (q : Nat) (s : State) : Step := .next (if s.serves && s.commanded q [0, 4, 5, 6, 7] then s.served 0 else s)

/-- ERROR of a destroyed queue's launches. -/
def errorQd : Nat := errorCode 0x0A 0 none

/-- The fate of one launch of a destroyed queue (R202). -/
def State.destroyTeam (s : State) (t : Team) : State :=
  let gone (flags : Nat) (fresh : Bool) (s : State) : State :=
    s.modTeam t.id (fun t => { t with
      state := .ended, error := errorQd, flags := addFlags t.flags flags, ended := s.now, lastSeq := s.seq, saved := [],
      started := if fresh then s.now else t.started })
  match t.state with
  | .waiting => if t.started = 0 then gone flagAbandoned true s else gone (flagStopped + flagResumed) false s
  | .loading =>
    if t.started = 0 then gone flagAbandoned true (s.freeCells t) else gone (flagStopped + flagResumed) false (s.freeCells t)
  | .loaded =>
    if t.started = 0 then gone flagAbandoned true (s.freeCells t) else gone (flagStopped + flagResumed) false (s.freeCells t)
  | .out => gone (flagStopped + flagResumed) false (s.dropHamper t)
  | .resident => s.stopTeam t 2 errorQd flagStopped
  | .leaving => s.stopTeam t 2 errorQd flagStopped
  | _ => s

/-- The node of a graph that has not been dispatched becomes a launch that is over (R202, R237). -/
def State.endNode (s : State) (g : Graph) (i error : Nat) : State :=
  let n := g.nodes.getD i []
  let t := (s.readLaunch (Team.new s.sched.nextId g.queue i (some g.id) g.asid g.value (s.queuePrio g.queue)) (bits (n.getD 0 0) 56 0)).1
  let t := { t with state := .ended, started := s.now, ended := s.now, error := error, flags := flagAbandoned }
  let s := s.addTeam t
  { s with sched := { s.sched with
    nextId := t.id + 1
    graphs := s.sched.graphs.map (fun h => if h.id == g.id then { h with teams := h.teams.set i (some t.id) } else h) } }

/-- Some node of a graph is destroyed with its queue: it is not over yet (R202, R203). -/
def State.graphHit (s : State) (g : Graph) : Bool :=
  g.teams.any (fun o => match o.bind s.team with
    | some t => !(t.state == .ended || t.state == .closed)
    | none => true)

/-- A graph of a destroyed queue: its undispatched nodes are dropped (R202, R203). -/
def State.destroyGraph (s : State) (g : Graph) : State :=
  let s := (List.range g.nodes.length).foldl (fun (s : State) i =>
    match s.sched.graphs.find? (fun h => h.id == g.id) with
    | some h => if (h.teams.getD i none).isNone then s.endNode h i errorQd else s
    | none => s) s
  { s with sched := { s.sched with graphs := s.sched.graphs.map (fun h => if h.id == g.id then { h with destroyed := true } else h) } }

/-- QCTL_DESTROY (R202): every unfinished packet meets its fate; QRES.DONE comes with the end of the destroy. -/
def State.qctlDestroy (s : State) (q : Nat) : State :=
  if s.queueState q != 1 then s.served 2
  else
    let s := s.modQueue q (fun w => setBits w 34 32 2)
    let hit := s.sched.graphs.filter (fun g => g.queue == q && !g.closed && s.graphHit g)
    let s := (s.sched.teams.filter (fun t => t.queue == q)).foldl State.destroyTeam s
    let s := hit.foldl State.destroyGraph s
    { s with sched := { s.sched with polls := s.sched.polls.filter (· != q), qctl := none, destroying := s.sched.destroying ++ [q] } }

/-- QCTL_DESTROY. -/
def execQctlDestroy (q : Nat) (s : State) : Step := .next (if s.serves && s.commanded q [2] then s.qctlDestroy q else s)

/-- Every signal of the queue's packets has been written. -/
def State.allClosed (s : State) (q : Nat) : Bool :=
  s.sched.teams.all (fun t => t.queue != q || t.state == .closed) && s.sched.graphs.all (fun g => g.queue != q || g.closed)

/-- QRES still waits for the end of this queue's destroy: no command came after it (R183, R202). -/
def Sched.awaits (c : Sched) (q : Nat) : Bool := c.qctl.isNone && !c.qdone && c.destroying.getLast? == some q

/-- QUEUE_DESTROY_FINISH: STATE 3, HEAD at the tail, and QRES.DONE unless a later command has replaced this one (R26, R183, R202, R203). -/
def execQueueDestroyFinish (q : Nat) (s : State) : Step :=
  .next (if s.serves && s.sched.destroying.contains q && s.allClosed q then
      let s := s.modQueue q (fun w => setBits (setBits w 34 32 3) 31 0 (mapGet 0 s.sched.qdb q))
      let s := if s.sched.awaits q then s.served 0 else s
      { s with sched := { s.sched with destroying := s.sched.destroying.filter (· != q) } }
    else s)

/-- COMMAND_SLOT (R180, R183). -/
def State.commandSlot (s : State) : State :=
  match s.sched.qctl with
  | none => s
  | some v =>
    let q := v % 4096
    match bits v 14 12 with
    | 1 => s.qctlEnable q
    | 2 => s.qctlDestroy q
    | 3 => s.qctlClear q
    | _ => s.served 0

/-! ## Packets (R186, R187, R236) -/

/-- A graph record's header and nodes are legal (R236). -/
def graphOk (h : List Nat) (nodes : List (List Nat)) : Bool :=
  bits (h.getD 0 0) 7 0 == 1 && bits (h.getD 0 0) 63 15 == 0 && decide (1 ≤ nodes.length) && decide (nodes.length ≤ 64)
    && bits (h.getD 1 0) 63 57 == 0 && h.getD 1 0 % 32 == 0 && (h.drop 2).all (· == 0)
    && nodes.zipIdx.all (fun p => bits (p.1.getD 0 0) 63 59 == 0 && p.1.getD 1 0 / 2 ^ p.2 == 0 && bits (p.1.getD 3 0) 63 32 == 0)

/-- A GRAPH packet is consumed as one unit; a record that cannot be read or is not legal makes it invalid (R187, R236). -/
def State.consumeGraph (s : State) (q desc value : Nat) : State :=
  let asid := s.queueAsid q
  match s.firmWords asid desc 8 with
  | .inl _ => s.setBadpkt q
  | .inr h =>
    let n := bits (h.getD 0 0) 14 8
    match s.firmWords asid (desc + 64) (4 * n) with
    | .inl _ => s.setBadpkt q
    | .inr w =>
      let nodes := (List.range n).map (fun i => (w.drop (4 * i)).take 4)
      if !graphOk h nodes then s.setBadpkt q
      else { s with sched := { s.sched with
        nextId := s.sched.nextId + 1
        graphs := s.sched.graphs ++ [⟨s.sched.nextId, q, value, asid, bits (h.getD 1 0) 56 0, nodes, List.replicate n none, false, false⟩] } }

/-- One packet consumed (R186 to R188): HEAD passes it whatever becomes of it. -/
def State.consumePacket (s : State) (q n : Nat) : State :=
  let w0 := s.queueWord q 0
  let pa := bits w0 51 0 + 64 * (n % 2 ^ bits w0 55 52)
  let bad := (List.range 64).any (fun i => s.isHole (pa + i)) || s.ueIn pa 64
  let w (i : Nat) : Nat := s.homeNat (pa + 8 * i) 8
  let s := s.modQueue q (fun x => setBits x 31 0 (n + 1))
  if bad || w 0 / 256 != 0 || decide (2 < w 0) || bits (w 1) 63 57 != 0 || w 1 % 64 != 0 || [3, 4, 5, 6, 7].any (fun i => w i != 0) then
    s.setBadpkt q
  else match w 0 with
    | 0 => s
    | 1 =>
      let t := Team.new s.sched.nextId q n none (s.queueAsid q) (w 2) (s.queuePrio q)
      let t := { t with pred := mapGet none s.sched.last q }
      let s := s.newLaunch t (w 1)
      { s with sched := { s.sched with last := mapSet none s.sched.last q (some t.id) } }
    | _ => s.consumeGraph q (w 1) (w 2)

/-- The new packets of a queue consumed, as many as the table holds (R186). -/
def State.pollQueue (s : State) (q : Nat) : State :=
  let head := bits (s.queueWord q 2) 31 0
  let d := ringDiff (mapGet 0 s.sched.qdb q) head
  let cap := 2 ^ bits (s.queueWord q 0) 55 52
  let s := if cap < d then s.modQueue q (fun w => setBits w 37 37 1) else s
  (List.range (min d cap)).foldl (fun s i => s.consumePacket q ((head + i) % 2 ^ 32)) s

/-- The items of work that a slot has time for in this minor frame, at least one (R180, log 59). -/
def State.slotItems (s : State) (slot : Nat) : Nat := 1 + Config.slotWork slot (s.now / 1000)

/-- A slot with more work than its time counts one event on every die (R180, R227; log 59: DESIGN CHOICE of the dies). -/
def State.overrun (s : State) (slot work : Nat) : State :=
  if s.slotItems slot < work then (List.range 8).foldl (fun s d => s.countDie d 0x20 1) s else s

/-- POLL_SLOT: the doorbells of 256 queues are read and cleared, and the active ones served; those that the slot has no time for are served
in later ones (R180, R186). -/
def State.pollSlot (s : State) (k : Nat) : State :=
  let mine (q : Nat) : Bool := q / 256 == k
  let rung := s.sched.polls ++ ((s.sched.bells.filter (fun p => p.2 && mine p.1)).map Prod.fst).filter (fun q => !s.sched.polls.contains q)
  let s := { s with sched := { s.sched with
    bells := s.sched.bells.filter (fun p => !mine p.1), polls := rung.drop (s.slotItems 1) } }
  ((rung.take (s.slotItems 1)).foldl (fun s q => if s.queueState q = 1 then s.pollQueue q else s) s).overrun 1 rung.length

/-! ## Dispatch (R182, R190, R237, R246) -/

/-- A launch has been released once, or has failed. -/
def Team.passed (t : Team) : Bool :=
  t.started != 0 || match t.state with
    | .waiting => false
    | .loading => false
    | .loaded => false
    | _ => true

/-- Every node of a graph has been released or has failed. -/
def State.graphPassed (s : State) (g : Graph) : Bool :=
  g.teams.all (fun o => match o.bind s.team with
    | some t => t.passed
    | none => false)

/-- Every packet of a queue before number `id` has been released or has failed (R182). -/
def State.inTurn (s : State) (q id : Nat) : Bool :=
  s.sched.teams.all (fun t => t.queue != q || t.graph.isSome || decide (id ≤ t.id) || t.passed)
    && s.sched.graphs.all (fun g => g.queue != q || decide (id ≤ g.id) || s.graphPassed g)

/-- A launch is over. -/
def Team.isOver (t : Team) : Bool := t.state == .ended || t.state == .closed

/-- Every cell of a team that is no donor has issued HANDOFF or has halted (R50), in its cells or in what was saved of them. -/
def State.handedOff (s : State) (t : Team) : Bool :=
  let done (k : Core) : Bool := k.handoff || k.st == .halted
  match t.state with
  | .loaded | .resident | .leaving | .ending => t.workers.all (fun c => done (s.core c))
  | .loading | .out => (List.range t.size).all (fun l => t.donors.contains l || (mapGet none t.saved l).any (fun v => done v.core))
  | _ => false

/-- The predecessor condition of a launch holds (R50). -/
def State.predReady (s : State) (t : Team) : Bool :=
  if !t.hasPred then true
  else match t.pred.bind s.team with
    | none => true
    | some p => p.isOver || s.handedOff p

/-- The nodes of a graph that may go on: dispatched as launches, or abandoned with the error of a failed predecessor (R237). -/
def State.graphNode (s : State) (gid i : Nat) : State :=
  match s.sched.graphs.find? (fun g => g.id == gid) with
  | none => s
  | some g =>
    if (g.teams.getD i none).isSome || !s.inTurn g.queue g.id then s
    else
      let n := g.nodes.getD i []
      let preds := (List.range i).filter (fun j => bit (n.getD 1 0) j)
      let ts := preds.map (fun j => (g.teams.getD j none).bind s.team)
      if !ts.all (fun o => o.any Team.isOver) then s
      else match ts.findSome? (fun o => o.bind (fun t => if t.error = 0 then none else some t.error)) with
        | some e => s.endNode g i e
        | none =>
          let id := s.sched.nextId
          let t := Team.new id g.queue i (some g.id) g.asid g.value (s.queuePrio g.queue)
          let s := s.newLaunch { t with deadline := n.getD 2 0, iters := bits (n.getD 3 0) 31 0 } (bits (n.getD 0 0) 56 0)
          let s := s.modTeam id (fun t => { t with ecls := bits (n.getD 0 0) 58 57 })
          { s with sched := { s.sched with
            graphs := s.sched.graphs.map (fun h => if h.id == gid then { h with teams := h.teams.set i (some id) } else h) } }

/-- GRAPH_NODE_DISPATCH over every node. -/
def State.graphNodes (s : State) : State :=
  (s.sched.graphs.filter (fun g => !g.closed && !g.destroyed)).foldl (fun s g =>
    (List.range g.nodes.length).foldl (fun s i => s.graphNode g.id i) s) s

/-- The gated dies that a team's placement at a point would ungate (R450). -/
def State.needFor (s : State) (t : Team) (i : Nat) : Nat := (s.diesFor t (t.atPoint i).size).length

/-- R242 with one task added, its placement's dies counted as ungated (R246, R450). -/
def State.weighAdded (s : State) (t : Team) : Setting :=
  evaluate (s.tasks.filter (fun u => u.id != t.id) ++ [t]) s.now
    (fun picks => s.liveDies.length + s.needFor t (picks.getLastD 0)) s.power.goal s.power.corr

/-- A launch may be released while a grade is in force only where R242, with it added, meets the goal without MISS at no lower
level (R246). A team released before is running already (R242). -/
def State.gradeAllows (s : State) (t : Team) : Bool :=
  let p := s.power
  if p.grade = 0 || t.started != 0 then true
  else
    let r := s.weighAdded t
    !r.miss && decide (p.goalLc ≤ r.lc)

/-- A ring header's pointer difference in the saved scratchpad of a cell of the team. -/
def Team.savedRing (t : Team) (c off : Nat) : Nat :=
  let sp := ((t.saved.findSome? (fun p => p.2.filter (fun v => v.cid == c))).map SavedCell.sp).getD []
  let at_ (o : Nat) : Nat := bytesNat ((List.range 4).map (fun i => (mapGet 0 sp (off + o + i)).toNat))
  ringDiff (at_ 12) (at_ 16)

/-- The waits of a saved cell can end (R49): tested on what was saved, a ring in the scratchpad of the cell whose engine serves it (R374). -/
def Team.waitCanEnd (t : Team) (v : SavedCell) : Bool :=
  let k := v.core
  (match k.waits.op with
  | some (.wait ldl stl cpl tll) =>
    decide (k.counter .ld ≤ ldl.toNat) && decide (k.counter .st ≤ stl.toNat) && decide (k.counter .cp ≤ cpl.toNat)
      && decide (k.counter .tl ≤ tll.toNat)
  | some .waitpred => !bit k.predst.toNat 33 || bit k.predst.toNat 32
  | some (.bar scp) => !mapGet false k.arrived scp.toNat
  | _ => true)
  && (match k.waits.ring with
  | some (.rawait _ h j) => decide (j.toNat < t.savedRing (bits k.waits.ringArg 31 22) (64 * h.toNat))
  | _ => true)

/-- A saved team may be placed again: after a slice at once, after a swap when the waits of a cell of it can end, after a park
once an evaluation has resumed it (R49, R54, R246). -/
def Team.mayResume (t : Team) : Bool :=
  t.state == .out && match t.dep with
    | .slice => true
    | .park => t.asked != 0
    | .emergency => t.asked != 0
    | .swap => t.saved.any (fun p => p.2.any (fun v => v.core.st != .halted && v.core.st != .donor && t.waitCanEnd v))
    | _ => false

/-- A launch may be placed: it waits in its turn, and its predecessor condition holds (R50, R182). -/
def State.ready (s : State) (t : Team) : Bool :=
  t.state == .waiting && s.predReady t && match t.graph with
    | some _ => true
    | none => s.inTurn t.queue t.id

/-- Major frames after which a saved team has aged: launches of its priority come after it, and the cells it needs are kept for it (R54). -/
def agedFrames : Nat := 4

/-- Order of the dispatch slot: PRIO, then saved teams that have aged, then launches, then the other saved teams; within each by
queue and number (R54, R182, R223). -/
def Team.rank (t : Team) : Nat :=
  (((7 - t.prio) * 3 + (if t.state == .out then (if agedFrames ≤ t.aged then 0 else 2) else 1)) * 4096 + t.queue) * 2 ^ 32 + t.id

/-- Some sample stays at or above THSAVE.SAVE (R262). -/
def State.tooHot (s : State) : Bool :=
  s.power.saving && s.power.temps.any (fun p => decide (4 * s.power.thsave ≤ p.2))

/-- One ready launch or saved team takes its cells if all are free and none is kept for a team that has aged; otherwise it waits, and may
make a gated die needed (R54, R182, R254, R262). -/
def State.tryPlace (s : State) (kept : List Nat) (id : Nat) : State :=
  match s.team id with
  | none => s
  | some t =>
    if s.tooHot || (t.state == .waiting && !s.gradeAllows t) then s
    else match s.relaunchTrap t, s.chooseFrom t t.size (fun c => s.cellFree c && !kept.contains c) with
      | some e, _ => s.modTeam id (fun t => t.abandonTrap s.now e)
      | none, some l => s.allocate t l
      | none, none =>
        let s := s.modTeam id (fun t => { t with asked := if t.asked = 0 then s.now else t.asked })
        { s with power := { s.power with needed := (s.power.needed ++ s.diesFor t t.size).eraseDups } }

/-- The cell is free, or a team of at most the given priority holds it that can be asked to yield, or yields already (R54, R223). -/
def State.yields (s : State) (prioOk : Nat → Bool) (c : Nat) : Bool :=
  s.cellFree c || (s.teamOf c).any (fun r => (r.state == .resident || r.state == .leaving) && prioOk r.prio)

/-- The cells kept for a saved team that has aged and still waits (R54). -/
def State.keptFor (s : State) (id : Nat) : List Nat :=
  match s.team id with
  | none => []
  | some t =>
    if t.state == .out && decide (agedFrames ≤ t.aged) then (s.chooseFrom t t.size (s.yields (fun p => decide (p ≤ t.prio)))).getD [] else []

/-- The ready launches and saved teams of `turn` placed in their order; an aged one keeps its cells from those after it, tried now or not (R54,
R182). -/
def State.placeAll (turn : List Nat) : List Nat → List Nat → State → State
  | [], _, s => s
  | id :: l, kept, s =>
    let s := if turn.contains id then s.tryPlace kept id else s
    State.placeAll turn l (kept ++ s.keptFor id) s

/-- The loaded teams are released; a launch, while a grade is in force, only under its condition (R180, R193, R246, R262). -/
def State.releaseLoaded (s : State) : State :=
  if s.tooHot then s
  else (s.sched.teams.filter (fun t => t.state == .loaded)).foldl (fun s t => if s.gradeAllows t then s.releaseTeam t.id else s) s

/-- DISPATCH_SLOT (R182): a team that the slot has no time for is tried in the next one, and a round goes on until each has been tried (R180). -/
def State.dispatchSlot (s : State) : State :=
  let s := s.graphNodes
  let s := (s.sched.teams.filter (fun t => t.state == .leaving)).foldl (fun s t => s.leaveSlice t.id) s
  let ids := (s.sched.teams.filter (fun t => s.ready t || t.mayResume))
  let order := (sortBy (fun id => ((ids.find? (fun t => t.id == id)).map Team.rank).getD 0) (ids.map Team.id))
  let left := order.filter (fun id => !s.sched.tried.contains id)
  let turn := left.take (s.slotItems 2)
  let s := { s with sched := { s.sched with tried := if turn.length = left.length then [] else s.sched.tried ++ turn } }
  ((State.placeAll turn order [] s).overrun 2 left.length).releaseLoaded

/-! ## Completion (R51, R195 to R197, R237) -/

/-- The team's writes are at home (R174, R196). -/
def State.writesHome (s : State) (t : Team) : Bool :=
  !s.writes.any (fun w => t.cells.contains w.cid && decide (w.seq ≤ t.lastSeq))

/-- A signal written under a context; one that translation or rights refuse sets SIGF (R196, R197). -/
def State.putSignal (s : State) (q asid va : Nat) (words : List Nat) : State :=
  if va = 0 then s
  else match s.firmRun asid va 32 true with
    | .inl _ => s.setSigf q
    | .inr l => s.writeSignal ((l.headD (0, 0)).1) words

/-- The four words of a signal (R195). -/
def signalWords (value start end_ error flags : Nat) : List Nat :=
  [value % 2 ^ 64, start % 2 ^ 64, end_ % 2 ^ 64, error % 2 ^ 32 + (addFlags flags 1) * 2 ^ 32]

/-- PREDST of the cells that wait on a launch: DONE, with its error (R51). -/
def State.tellSuccessors (s : State) (id error : Nat) : State :=
  let v : Word := pack [(error, 0), (1, 32), (1, 33)]
  (s.sched.teams.filter (fun t => t.hasPred && t.pred == some id)).foldl (fun s t =>
    let s := if t.holds then t.cells.foldl (fun s c => s.modCore c (fun k => { k with predst := v })) s else s
    s.modTeam t.id (fun t => { t with
      saved := t.saved.map (fun p => (p.1, p.2.map (fun x => { x with core := { x.core with predst := v } }))) })) s

/-- A launch's signal is written, and its successor learns of its end (R51, R196). -/
def State.closeTeam (s : State) (t : Team) : State :=
  let s := s.putSignal t.queue t.asid t.sigAddr (signalWords t.value t.started t.ended t.error t.flags)
  (s.modTeam t.id (fun t => { t with state := .closed })).tellSuccessors t.id t.error

/-- GRAPH_SIGNAL: written once every node has ended (R203, R237). -/
def State.closeGraph (s : State) (g : Graph) : State :=
  let ts := g.teams.filterMap (fun o => o.bind s.team)
  if g.closed || ts.length != g.nodes.length || !ts.all (fun t => t.state == .closed) then s
  else
    let released := ts.filter (fun t => (BitVec.ofNat 5 t.flags &&& BitVec.ofNat 5 flagAbandoned) == 0)
    let starts := (if released.isEmpty then ts else released).map Team.started
    let error := if g.destroyed then errorQd else ((ts.find? (fun t => t.error != 0)).map Team.error).getD 0
    let s := s.putSignal g.queue g.asid g.sig (signalWords g.value (starts.foldl min (starts.headD 0))
      ((ts.map Team.ended).foldl max 0) error (ts.foldl (fun f t => addFlags f t.flags) 0))
    { s with sched := { s.sched with graphs := s.sched.graphs.map (fun h => if h.id == g.id then { h with closed := true } else h) } }

/-- COMPLETION_SLOT (R196): a team that the slot has no time for has its signal written in the next one (R180). -/
def State.completionSlot (s : State) : State :=
  let over_ := s.sched.teams.filter (fun t => t.state == .ended && s.writesHome t)
  let s := ((over_.take (s.slotItems 3)).foldl State.closeTeam s).overrun 3 over_.length
  s.sched.graphs.foldl State.closeGraph s

/-! ## Migration triggers (R224, R225) -/

/-- The least of a list of cells by temperature, the lower CID on a tie. -/
def coolest (temp : Nat → Nat) (l : List Nat) : Option Nat := leastBy temp l

/-- A target for a migrating cell: free, on a die in the team's DIEMASK, with enough scratchpad, and sampled at least 10 °C below
TH (R225). -/
def State.migrationTarget (s : State) (t : Team) (c : Nat) : Option Nat :=
  let th := 4 * bits s.sched.thmig 7 0
  coolest (fun b => mapGet 0 s.power.temps b) ((List.range 1024).filter (fun b =>
    s.cellFree b && bit t.dieMask (dieOf b) && decide ((s.core c).spcap ≤ (s.core b).spcap) && s.power.sampled.contains b
      && decide (mapGet 0 s.power.temps b + 40 ≤ th)))

/-- The sample of a held cell is at or above TH, with migration enabled (R225). -/
def State.migrates (s : State) (c : Nat) : Bool :=
  bit s.sched.thmig 8 && decide (4 * bits s.sched.thmig 7 0 ≤ mapGet 0 s.power.temps c)

/-- MIGRATION_TRIGGER: a cell at or above TH takes a migration request; one that finds no target counts an event and is tried again at the
next major frame; one that is a donor or has a slot bound never moves, and counts an event for each such sample (R225). -/
def State.triggerMigration (s : State) (c : Nat) (sample : Bool) : State :=
  match s.teamOf c with
  | none => s
  | some t =>
    if !s.migrates c then s
    else if !s.movable t c then (if sample then s.count c 0x1F 1 else s)
    else if t.state == .ending || (s.core c).st == .halted || (s.core c).migReq.isSome || s.movingCell c then s
    else if sample && s.sched.retry.contains c then s
    else match s.migrationTarget t c with
      | some b => { s.modCore c (fun k => { k with migReq := some b }) with
          sched := { s.sched with retry := s.sched.retry.filter (· != c) } }
      | none => { s.count c 0x1F 1 with sched := { s.sched with retry := s.sched.retry.filter (· != c) ++ [c] } }

/-- MIGRATION_RETRY at a major frame (R225): the cells that found no target, while they stay at or above TH. -/
def State.retryMigrations (s : State) : State :=
  let l := s.sched.retry
  l.foldl (fun (s : State) c => s.triggerMigration c false) { s with sched := { s.sched with
    retry := l.filter (fun c => decide (4 * bits s.sched.thmig 7 0 ≤ mapGet 0 s.power.temps c) && (s.teamOf c).isSome) } }

/-! ## The minor frame (R180) -/

/-- Minor frame in its major frame. -/
def State.minorOf (s : State) : Nat := s.now / 1000 % 16

/-- Number of the present major frame. -/
def State.frame (s : State) : Nat := s.now / 16000

/-- A hand-over block of a role written to one of its buffers, header last (R277). -/
def State.writeBlock (s : State) (role kind layout buffer : Nat) : State :=
  let n := Config.blockLen layout s.frame % 32705
  let body := (List.range n).map (fun i => (Config.blockBody layout s.frame i).toNat)
  let head : List Piece := [(0, 4, 0x4B4C4248), (4, 2, layout), (6, 1, role), (7, 1, kind), (8, 8, s.frame), (16, 4, 64 + n)]
  let pa := mgmtBase + 0x200000 + role * 0x20000 + buffer * 0x8000
  s.writeRun pa (64 + n) (head.flatMap pieceBytes ++ (sha256 body).zipIdx.map (fun p => (32 + p.2, BitVec.ofNat 8 p.1))
    ++ body.zipIdx.map (fun p => (64 + p.2, BitVec.ofNat 8 p.1))) none

/-- The image of a role that is now authoritative. -/
def State.roleImage (s : State) (role : Nat) : Image := mapGet Image.none s.firm.images role

/-- One role's exchange: its checkpoint block, in a trial a second one in the old layout, then its heartbeat (R273, R276). -/
def State.exchangeRole (s : State) (r : Nat) : State :=
  if !s.acting r then s
  else
    let s := s.writeBlock r 2 (s.roleImage r).layout (s.frame % 2)
    let s := match s.firm.fwsub with
      | some h => if h.phase == 5 && h.role == r then s.writeBlock r 3 h.old.layout (2 + s.frame % 2) else s
      | none => s
    { s with firm := { s.firm with beat := mapSet false s.firm.beat r true } }

/-- EXCHANGE_SLOT: each role stoker that runs writes its block and its heartbeat (R273). -/
def State.exchangeSlot (s : State) : State := (List.range 3).foldl State.exchangeRole s

/-- Saved teams that may resume age by one major frame (R54). -/
def State.ageTeams (s : State) : State :=
  { s with sched := { s.sched with
    teams := s.sched.teams.map (fun t => if t.mayResume then { t with aged := t.aged + 1 } else t) } }

/-- The scheduler's slots of a minor frame, while its role is served (R26, R180). -/
def State.schedule (s : State) : State :=
  if !s.serves then s
  else
    let s := if s.minorOf = 0 then s.retryMigrations.ageTeams else s
    let s := { s with power := { s.power with needed := [] } }
    ((s.commandSlot.pollSlot s.minorOf).dispatchSlot).completionSlot

/-- MINOR_FRAME (R180): the scheduler's slots, and in minor frame 15 the exchange slot of every role. -/
def execMinorFrame (s : State) : Step :=
  .next (
    let s := s.schedule
    if s.minorOf = 15 && s.ident.booted then s.exchangeSlot else s)

/-! ## Swaps and slices (R49, R222, R223) -/

/-- Every cell of a team that is no donor and has not halted has waited THRESH cycles (R49). -/
def State.swapDue (s : State) (t : Team) : Bool :=
  let live := t.workers.filter (fun c => (s.core c).st != .halted)
  t.state == .resident && t.fault.isNone && !live.isEmpty
    && live.all (fun c =>
      let k := s.core c
      let n := field k.wswap 31 0
      k.st == .wait && n != 0 && decide (max 1024 n ≤ k.waitCyc) && k.late.isEmpty && k.stopReq.isNone)

/-- SWAP_OUT: with its engines drained, the team is saved and its cells are freed (R49, R218). -/
def execSwapOut (team : Nat) (s : State) : Step :=
  .next (match s.team team with
    | none => s
    | some t =>
      if s.swapDue t && t.cells.all (fun c => s.drained c && (s.core c).quiet) && !s.sched.migs.any (fun m => m.team == team) then
        let s := t.workers.foldl (fun s c => s.count c 0x1E 1) s
        ((s.captureTeam t).freeCells t).modTeam team (fun t => { t with state := .out, dep := .swap, aged := 0, asked := 0 })
      else s)

/-- SLICE.LEN in ns; values below 16 act as 16 (R223). -/
def Sched.sliceLen (c : Sched) : Nat := 1000 * max 16 (bits c.slice 15 0)

/-- Another launch waits for cells that a resident team holds: one of equal priority for a slice, or a saved team of no lower
priority (R54, R223); its cells and those of teams that leave theirs already would hold it. -/
def State.wanted (s : State) (t : Team) : Bool :=
  s.sched.teams.any (fun u =>
    let waits := s.ready u && u.asked != 0 && u.prio == t.prio
    let saved := u.mayResume && u.asked != 0 && decide (t.prio ≤ u.prio)
    (waits || saved) && t.cells.any (fun c => s.dieServes u (dieOf c) && (u.place != 1 || (u.pins.take u.size).contains c))
      && (s.choose u).isNone
      && (s.chooseFrom u u.size (s.yields (fun p => if waits then p == u.prio else decide (p ≤ u.prio)))).isSome)

/-- SLICE_EXPIRY: a team resident for its minimum, whose cells others want, is asked to yield (R223). -/
def execSliceExpiry (team : Nat) (s : State) : Step :=
  .next (match s.team team with
    | none => s
    | some t =>
      if t.state == .resident && !s.beforeFirst t && decide (t.placed + t.loadTime + max s.sched.sliceLen (2 * t.loadTime) ≤ s.now)
          && s.wanted t then s.askLeave team .slice
      else s)

end Sys2Proof.Machine
end

