-- ==== Sys2Proof/Machine/Power.lean ====
section
/-!
DEFINITION. Machine/Power.lean: rails (R22, R229), energy buckets (R255 to R258), timing errors (R272), droops (R259, R260), and the
gating of dies (R254).
-/
namespace Sys2Proof.Machine

/-! ## Rails (R22, R229, R258) -/

/-- One level towards a goal. -/
def toward (x goal : Nat) : Nat := if x < goal then x + 1 else if goal < x then x - 1 else x

/-- ECOST0 to ECOST4 of every cell at the rail vector in force: the stoker writes them at every change of rail vector (R258). -/
def State.writeCosts (s : State) : State :=
  let costs : SMap Nat := mapSetAll 0 [] ((List.range 5).map (fun i => (i, Config.energyCost s.power.lc s.power.lf i % 2 ^ 32)))
  (List.range 1024).foldl (fun s c => s.modCore c (fun k => { k with ecost := costs })) s

/-- RAIL_LEVEL_STEP: the rails move one level towards their goals, the fabric never below the others (R229). -/
def execRailLevelStep (s : State) : Step :=
  .next (
    let p := s.power
    let lc := toward p.lc p.goalLc
    let lf := max (toward p.lf p.goalLf) lc
    if lc = p.lc ∧ lf = p.lf then s
    else { s with power := { p with lc := lc, lf := lf } }.writeCosts)

/-! ## Buckets (R255 to R257, R451) -/

/-- A refill: the balance rises by ERATE, never past 1,000 refills (R255). -/
def Core.refill (k : Core) : Core := { k with ebal := min (1000 * (k.erate : Int)) (k.ebal + (k.erate : Int)) }

/-- BUCKET_REFILL: every bucket takes a refill (R255). -/
def execBucketRefill (s : State) : Step :=
  .next { s with cores := mapAll Core.reset s.cores (fun c k => if isStoker c then k else k.refill) }

/-- BUCKET_SETTLE: the charges of the period give way to what the sensor hub measured (R257, R227). -/
def execBucketSettle (cid : Nat) (s : State) : Step :=
  .next (if 1024 ≤ cid then s
    else
      let e := Config.measuredEnergy cid (s.now / 10000)
      let t := s.modCore cid (fun k => { k with ebal := k.ebal + (k.charged : Int) - (e : Int), charged := 0 })
      let t := t.count cid 0x1B (e / 1000)
      match s.teamOf cid with
      | some u => t.modTeam u.id (fun u => { u with spent := u.spent + e })
      | none => t)

/-! ## Timing errors (R272) -/

/-- A K-step is still to be written: its products form, or wait for their write. -/
def MatOp.inProgress (m : MatOp) : Bool :=
  m.begun && m.held == 0 && m.onArray && ((m.forming && decide (m.clock < m.len)) || !m.left.isEmpty)

/-- The step in progress is formed again: it and the steps after it come `n` schedule cycles later. One not begun begins so much later. -/
def MatOp.again (m : MatOp) (n : Nat) : MatOp :=
  if !m.begun || (m.forming && decide (m.clock < m.len)) then { m with len := m.len + n }
  else { m with left := m.left.map (fun p => (p.1, p.2 + n)) }

/-- The same of an operation accepted behind one of which a step is formed again: whatever it has begun on the array comes later too, and what it has
not begun begins later (R272, R352). -/
def MatOp.behind (m : MatOp) (n : Nat) : MatOp :=
  if !m.begun then { m with len := m.len + n }
  else if m.onArray then
    { m with len := if m.forming then m.len + n else m.len, clock := if m.forming && m.clock == m.len then m.clock + n else m.clock,
             left := m.left.map (fun p => (p.1, p.2 + n)) }
  else m

/-- The operations of an engine after a replay that hit the one numbered `seq` of cell `c`. -/
def replayed (c seq e n : Nat) : Bool → List MatOp → List MatOp
  | _, [] => []
  | hit, m :: l =>
    if m.seq == seq && m.owner == c then m.again n :: replayed c seq e n true l
    else (if hit && m.eng == e && m.held == 0 then m.behind n else m) :: replayed c seq e n hit l

/-- TIMING_ERROR_REPLAY: the K-step in progress on the cell's engine is formed again four cycles later. Up to the slack of the MAT
slot the cell issues on; the rest of the four cycles freezes it (R36, R272). -/
def execTimingErrorReplay (cid : Nat) (s : State) : Step :=
  .next (match s.mat.find? (fun m => m.eng == cid && m.inProgress) with
    | none => s
    | some m =>
      let k := s.core m.owner
      let n := min 4 (k.slackOf 4 - k.matLate)
      let s := { s with mat := replayed m.owner m.seq cid n false s.mat }
      let s := s.modCore m.owner (fun k => { k with matLate := k.matLate + n, replay := k.replay + (4 - n) })
      let s := s.count m.owner 0x18 1
      { s with power := { s.power with
        replays := mapSet 0 s.power.replays (dieOf cid) (mapGet 0 s.power.replays (dieOf cid) + 1) } })

/-! ## Droops (R259, R260) -/

/-- CRC-16 with polynomial 0x1021 over `n` bits of one byte that has been added to the register's high byte. -/
def crc16Bits : Nat → Nat → Nat
  | 0, x => x
  | n + 1, x => crc16Bits n (if 32768 ≤ x then (2 * x % 65536) ^^^ 0x1021 else 2 * x)

/-- CRC-16, initial value 0xFFFF, without reflection (R259). -/
def crc16 (l : List Nat) : Nat := l.foldl (fun x b => crc16Bits 8 (x ^^^ (256 * b))) 0xFFFF

/-- Bytes of nibbles, the older one of each pair in bits 7:4. -/
def nibbleBytes : List Nat → List Nat
  | a :: b :: l => (16 * a + b) :: nibbleBytes l
  | _ => []

/-- The signature of a die's window of 16 nibbles that ended `ago` cycles before (R259). -/
def Power.signature (p : Power) (d ago : Nat) : Nat :=
  let l := (mapGet [] p.nibbles d).drop ago
  crc16 (nibbleBytes ((l ++ List.replicate (16 - l.length) 0).take 16).reverse)

/-- The place of the entry that a new pair takes in a full table: the lowest HITS, the oldest install on a tie. -/
def victim (l : List Droop) : Nat := (leastBy (fun i => ((l.map (fun d => d.hits * 2 ^ 64 + d.age)).getD i 0)) (List.range l.length)).getD 0

/-- A pair installed in the table of 64 entries (R259). Of the invalid entries a new pair takes the lowest (log 63: DESIGN CHOICE). -/
def installDroop (l : List Droop) (die sig : Nat) : List Droop :=
  let age := (l.map Droop.age).foldl max 0 + 1
  if l.any (fun d => d.die == die && d.sig == sig) then
    l.map (fun d => if d.die == die && d.sig == sig then { d with hits := min 255 (d.hits + 1) } else d)
  else if l.length < 64 then l ++ [⟨die, sig, 1, age⟩]
  else l.set (victim l) ⟨die, sig, 1, age⟩

/-- DROOP_EVENT: the pair of the die and its signature of 32 cycles before is installed (R259). -/
def execDroopEvent (die : Nat) (s : State) : Step :=
  .next (if 8 ≤ die then s
    else { s with power := { s.power with droops := installDroop s.power.droops die (s.power.signature die 32) } })

/-- DROOPCTL.DUTY as it acts (R260). -/
def Power.droopDuty (p : Power) : Nat :=
  let d := bits p.droopctl 5 1
  if 2 ≤ d ∧ d ≤ 15 then d else 12

/-- DROOPCTL.LEN as it acts (R260). -/
def Power.droopLen (p : Power) : Nat := max 1 (bits p.droopctl 15 6)

/-- The die's signature matches a valid entry of it, and pre-throttles are enabled (R259, R260). -/
def Power.droopMatch (p : Power) (die : Nat) : Bool :=
  bit p.droopctl 0 && p.droops.any (fun d => d.die == die && d.sig == p.signature die 0)

/-- DROOP_SIGNATURE_MATCH: a pre-throttle of the die starts, or starts again (R259). A match that restarts a running one counts as a
start (log 63: DESIGN CHOICE). -/
def execDroopSignatureMatch (die : Nat) (s : State) : Step :=
  .next (if decide (die < 8) && s.power.droopMatch die then
      { s.countDie die 0x1A 1 with power := { s.power with pre := mapSet 0 s.power.pre die (s.power.droopLen + 1) } }
    else s)

/-- PRETHROTTLE_END: the cycles of the die's pre-throttle have passed (R260). -/
def execPrethrottleEnd (die : Nat) (s : State) : Step :=
  .next (if mapGet 0 s.power.pre die = 1 then { s with power := { s.power with pre := mapSet 0 s.power.pre die 0 } } else s)

/-- A K-step was in progress in the cycle that ends: the cycle was one of its product cycles (R259, R352). -/
def MatOp.stepActive (m : MatOp) : Bool :=
  m.begun && m.held == 0 && m.onArray
    && ((m.forming && decide (0 < m.clock) && decide (m.clock < m.len)) || m.left.any (fun p => p.2 == 4 && p.1 + 1 == m.step))

/-- The cell had a MAT operation issuing or a K-step in progress in the cycle that ends (R259). -/
def State.matActive (s : State) (c : Nat) : Bool := s.mat.any (fun m => m.eng == c && m.stepActive) || s.matNow.contains c

/-- The nibble that a die forms in this cycle (R259). -/
def State.nibble (s : State) (d : Nat) : Nat :=
  min 15 ((((s.cores.filter (fun p => dieOf p.1 == d && decide (p.1 < 1024))).countP (fun p => s.matActive p.1))) / 8)

/-- The nibbles of a cycle are formed, and the pre-throttles run on by one cycle (R259, R260). -/
def State.tickDroop (s : State) : State :=
  { s with matNow := [], power := { s.power with
    nibbles := mapSetAll [] s.power.nibbles ((List.range 8).map (fun d => (d, (s.nibble d :: mapGet [] s.power.nibbles d).take 48)))
    pre := s.power.pre.map (fun p => (p.1, max 1 (p.2 - 1))) } }

/-- The duty of a cell in its next window: the least of what the damper, arrival slowing and its die's pre-throttle allow (R261). -/
def State.kminOf (s : State) (c : Nat) : Nat :=
  let damper := match s.teamOf c with
    | some t => if t.running then s.power.duty else 16
    | none => 16
  let droop := if mapGet 0 s.power.pre (dieOf c) ≤ 1 then 16 else s.power.droopDuty
  min damper (min (s.core c).duty droop)

/-- A new window of 16 cycles begins (R261). -/
def State.newWindow (s : State) : State :=
  { s with power := { s.power with
    kmin := mapSetAll 16 [] ((s.cores.filter (fun p => decide (p.1 < 1024))).map (fun p => (p.1, s.kminOf p.1))) } }

/-! ## Gating (R254) -/

/-- A die that a resume or launch waits for, and that does not gate meanwhile: with the dies to come and the gated ones, the team
could take its cells (R254). -/
def State.awaited (s : State) (d : Nat) : Bool :=
  s.sched.teams.any (fun t => t.asked != 0 && ((t.state == .waiting && s.gradeAllows t) || t.mayResume) && s.dieServes t d
    && (s.chooseFrom t t.size (fun c => s.cellFree c || s.coming c || s.power.gatedBy.contains (dieOf c))).isSome)

/-- The die is empty: no cell of it is allocated, and no load phase, clear or migration touches it (R254). -/
def State.emptied (s : State) (d : Nat) : Bool :=
  !s.sched.teams.any (fun t => t.holds && t.cells.any (fun c => dieOf c == d)) && !s.sched.clearing.any (fun c => dieOf c == d)
    && !s.sched.migs.any (fun m => dieOf m.source == d || dieOf m.target == d)
    && !s.cores.any (fun p => p.2.migReq.any (fun b => dieOf b == d)) && !s.xfers.any (fun p => p.2.busy && dieOf p.2.eng == d)

/-- The die may gate now: ungated, empty, and a grade is in force or an emergency save gates it (R254, R262). -/
def State.gates (s : State) (d : Nat) : Bool :=
  (s.power.grade != 0 || s.power.hot.contains d) && bit s.ident.dieok d && !bit s.ident.gated d && s.emptied d
    && (s.power.hot.contains d || !s.awaited d)

/-- The die at a place of GATEORDER. -/
def Power.gatePlace (p : Power) (i : Nat) : Nat := bits p.gateOrder (3 * i + 2) (3 * i)

/-- The die that gates next. -/
def State.nextGate (s : State) : Option Nat :=
  if s.power.ramp.isSome then none else ((List.range 8).map s.power.gatePlace).find? s.gates

/-- DIE_GATING_RAMP: the first emptied die in the order of GATEORDER begins its ramp (R254). -/
def execDieGatingRamp (die : Nat) (s : State) : Step :=
  .next (if s.nextGate = some die then
      { s with power := { s.power with ramp := some (die, false), rampAt := s.now, gatedBy := die :: s.power.gatedBy } }
    else s)

/-- The die that ungates next: of those needed, the latest gated (R254). -/
def State.nextUngate (s : State) : Option Nat :=
  if s.power.ramp.isSome then none else s.power.gatedBy.find? (fun d => s.power.needed.contains d && !s.power.hot.contains d)

/-- DIE_UNGATING_RAMP: a die that a resume or launch needs begins its ramp (R254). -/
def execDieUngatingRamp (die : Nat) (s : State) : Step :=
  .next (if s.nextUngate = some die then
      { s with power := { s.power with
        ramp := some (die, true), rampAt := s.now, gatedBy := s.power.gatedBy.filter (· != die), needed := s.power.needed.filter (· != die) } }
    else s)

/-- The least time of a ramp in ns (R254). -/
def rampTime : Nat := 150000

/-- DIE_RAMP_END, 150 µs after the ramp began at the earliest: DEVSTAT.GATED follows the ramp and event 0x21 counts it; the cells of an
ungated die are cleared before any load, and have no sample yet (R121, R225, R254). -/
def execDieRampEnd (die : Nat) (s : State) : Step :=
  .next (match s.power.ramp with
    | none => s
    | some (d, up) =>
      if d != die || decide (s.now < s.power.rampAt + rampTime) then s
      else
        let s := s.countDie d 0x21 1
        { s with
          power := { s.power with ramp := none, sampled := s.power.sampled.filter (fun c => dieOf c != d) }
          ident := { s.ident with gated := setBits s.ident.gated d d (flag (!up)) }
          sched := { s.sched with clearing := if up then s.sched.clearing ++ cellsOfDie d else s.sched.clearing } })

end Sys2Proof.Machine
end

