-- ==== Sys2Proof/Machine/Park.lean ====
section
/-!
DEFINITION. Machine/Park.lean: hampers (R247 to R250), parks, and sheds (R251 to R253).
-/
namespace Sys2Proof.Machine

/-! ## Hampers (R248) -/

/-- The first park-tier address after the trip journal (R248, R263). -/
def hamperBase : Nat := 0x20000010000

/-- Bytes of one cell's part of a hamper, in whole 4 KiB. -/
def partSize (splen : Nat) : Nat := (imageSize + splen + 4095) / 4096 * 4096

/-- The saved cells of a team, in LID order. -/
def Team.savedCells (t : Team) : List SavedCell := t.saved.filterMap Prod.snd

/-- LEN of a team's hamper: the header's 4 KiB, then the parts. -/
def Team.hamperLen (t : Team) : Nat := (t.savedCells.map (fun v => partSize v.splen)).foldl (· + ·) 4096

/-- An address at or above another, in whole units. -/
def roundUp (x unit : Nat) : Nat := (x + unit - 1) / unit * unit

/-- The lowest park-tier run of a length and alignment that no hamper and no deep park uses (log 40). -/
def State.parkRun (s : State) (len unit : Nat) : Nat :=
  let used := (s.sched.teams.filter (fun t => t.hamper != 0)).map (fun t => (t.hamper, t.hamperLen)) ++ s.sched.deep
  ((sortBy (fun x => x) (roundUp hamperBase unit :: used.map (fun p => roundUp (p.1 + p.2) unit))).find? (fun a =>
    used.all (fun p => !overlaps a len p.1 p.2))).getD (roundUp hamperBase unit)

/-- The key of slot 127 (R248). -/
def State.hamperKey (s : State) : Option Nat := mapGet none s.sched.key 127

/-- The header of a hamper but its DIGEST. -/
def State.hamperPieces (s : State) (t : Team) (kind : Nat) : List Piece :=
  [(0, 4, 0x48504D52), (4, 2, 1), (6, 1, kind), (7, 1, t.point), (8, 2, t.size), (10, 2, t.asid), (12, 2, t.queue), (16, 8, t.hamperLen),
    (24, 8, s.now)]

/-- Bytes `from_` to `to_ - 1` at a physical address, under a key where one is given. -/
def State.bytesUnder (s : State) (pa : Nat) (key : Option Nat) (from_ to_ : Nat) : List Nat :=
  (List.range (to_ - from_)).map (fun i => s.imageNat pa key (from_ + i) 1)

/-- The hamper of a team written: the parts, then the header (R248). -/
def State.writeHamper (s : State) (t : Team) (pa kind : Nat) : State :=
  let key := s.hamperKey
  let s := s.writeRun pa 4096 [] key
  let s := (t.savedCells.foldl (fun (r : State × Nat) v =>
    (r.1.writeSaved v r.2 (if v.core.rec_.isSome then 1 else 2) key, r.2 + partSize v.splen)) (s, pa + 4096)).1
  let digest := sha256 (s.bytesUnder pa key 64 t.hamperLen)
  s.writeRun pa 64 ((s.hamperPieces t kind).flatMap pieceBytes ++ digest.zipIdx.map (fun p => (32 + p.2, BitVec.ofNat 8 p.1))) key

/-- A hamper is valid: MAGIC, VER and DIGEST are correct, and no uncorrectable error lies in it (R248, R249). -/
def State.hamperValid (s : State) (pa : Nat) : Bool :=
  let key := s.hamperKey
  let rd := s.imageNat pa key
  pa != 0 && rd 0 4 == 0x48504D52 && rd 4 2 == 1 && !s.ueMem.any (fun d => inRun pa (rd 16 8) (8 * d))
    && sha256 (s.bytesUnder pa key 64 (rd 16 8)) == s.bytesUnder pa key 32 64

/-! ## Parks (R247, R253, R262) -/

/-- A team that has cells in a load phase gives them up: what was saved of it stays saved, a launch waits again. -/
def State.unload (s : State) (t : Team) (dep : Departure) : State :=
  (s.freeCells t).modTeam t.id (fun t =>
    if t.saved.isEmpty then { t with state := .waiting, asked := 0 } else { t with state := .out, dep := dep, asked := 0, parked := s.now })

/-- A park of a team begins (R247): a resident team is asked to yield, one that is already leaving takes the park's limit, and one
without cells gives up its place in the wait for them. -/
def State.parkTeam (s : State) (id : Nat) (dep : Departure) : State :=
  match s.team id with
  | none => s
  | some t =>
    match t.state with
    | .resident => (s.askLeave id dep).modTeam id (fun t => { t with parked := s.now })
    | .leaving =>
      if t.dep == .park || t.dep == .emergency then
        s.modTeam id (fun t => { t with dep := if dep == .emergency then .emergency else t.dep })
      else s.modTeam id (fun t => { t with dep := dep, asked := s.now, parked := s.now })
    | .waiting => s.modTeam id (fun t => { t with asked := 0 })
    | .loading => s.unload t dep
    | .loaded => s.unload t dep
    | .out => if t.dep == .park || t.dep == .emergency then s.modTeam id (fun t => { t with asked := 0 })
      else s.modTeam id (fun t => { t with dep := dep, asked := 0, parked := s.now })
    | _ => s

/-- The hamper of a parked team is due: it has yielded, or left its cells before. -/
def State.hamperDue (s : State) (t : Team) : Bool :=
  (t.dep == .park || t.dep == .emergency) && (s.hasYielded t || (t.state == .out && t.hamper == 0))

/-- ERROR of a team whose emergency hamper cannot be written (R262). -/
def errorSave : Nat := errorCode 0x0C 0 none

/-- The hamper of a team with what it saves, at the place chosen for it. -/
def State.storeHamper (s : State) (t : Team) : State :=
  let s := if t.state == .leaving then s.captureTeam t else s
  match s.team t.id with
  | none => s
  | some u =>
    let pa := s.parkRun u.hamperLen 4096
    let free (s : State) : State := if t.state == .leaving then s.freeCells t else s
    if t.dep == .emergency && s.isHole (pa + u.hamperLen - 1) then
      (free s).modTeam t.id (fun t => { t with
        state := .ended, error := errorSave, flags := addFlags t.flags flagStopped, ended := s.now, lastSeq := s.seq, saved := [] })
    else
      (free (s.writeHamper u pa (if t.dep == .emergency then 2 else 1))).modTeam t.id (fun t => { t with
        state := .out, hamper := pa, asked := 0, aged := 0 })

/-- HAMPER_WRITE: the images and scratchpads of a parked team go to its hamper, and its cells are freed (R247, R248). -/
def execHamperWrite (team : Nat) (s : State) : Step :=
  .next (match s.team team with
    | none => s
    | some t => if s.hamperDue t then s.storeHamper t else s)

/-! ## Sheds (R251 to R253) -/

/-- ERROR of a shed team: resident or parked (R252). -/
def errorShed (parked : Bool) : Nat := errorCode 0x0E (flag parked) none

/-- A team without cells is over by a shed. -/
def State.endShed (s : State) (t : Team) (parked : Bool) : State :=
  (s.dropHamper t).modTeam t.id (fun t => { t with
    state := .ended, error := errorShed parked, ended := s.now, lastSeq := s.seq, saved := []
    started := if t.started = 0 then s.now else t.started
    flags := addFlags t.flags (flagStopped + if t.started = 0 then flagAbandoned else 0) })

/-- A shed of a team (R251, R253). -/
def State.shedTeam (s : State) (id : Nat) : State :=
  match s.team id with
  | none => s
  | some t =>
    let parked := t.dep == .park || t.dep == .emergency
    match t.state with
    | .resident => s.stopTeam t 0 (errorShed false) flagStopped
    | .leaving => s.stopTeam t 0 (errorShed parked) flagStopped
    | .waiting => s.endShed t false
    | .loading => (s.freeCells t).endShed t parked
    | .loaded => (s.freeCells t).endShed t parked
    | .out => s.endShed t parked
    | _ => s

/-! ## Deep parks (R250) -/

/-- The address of the entry that a walk ends at, with its level (R105). -/
def State.leafAt (s : State) (va : Nat) : Nat → Nat → Option (Nat × Nat)
  | level, table =>
    let idx := bits va (20 + 9 * level) (12 + 9 * level)
    let e := s.homeNat (table + 8 * idx) 8
    if !bit e 0 then none
    else if bit e 1 then some (table + 8 * idx, level)
    else match level with
      | 0 => none
      | l + 1 => s.leafAt va l (bits e 51 12 * 4096)

/-- The entry of the range table that a virtual address uses (R104). -/
def State.rangeAt (s : State) (n asid va : Nat) : Option Nat :=
  let base := bits (s.cx n 2).toNat 51 12 * 4096
  ((List.range (field (s.cx n 2) 58 52)).find? (fun i => (s.findRange base asid va 1 i 0).1.any Sum.isRight)).map (fun i => base + 32 * i)

/-- The physical address of a mapped page or range replaced, in every entry that is written of it (R104, R106). -/
def State.remap (s : State) (asid va : Nat) (t : Transl) (pa : Nat) : State :=
  match s.ctxSlot asid with
  | none => s
  | some n =>
    if t.lvl = 7 then
      match s.rangeAt n asid va with
      | some e => s.storePlain (e + 16) 8 (setBits (s.homeNat (e + 16) 8) 51 12 (pa / 4096))
      | none => s
    else match s.leafAt va 4 (bits (s.cx n 1).toNat 51 12 * 4096) with
      | none => s
      | some (e, _) =>
        let x := s.homeNat e 8
        let k := pageLeaves (bits x 6 4)
        (List.range k).foldl (fun s i => s.storePlain (e / (8 * k) * (8 * k) + 8 * i) 8 (setBits x 51 12 (pa / 4096))) s

/-- The whole blocks of a run of `n` bytes at a virtual address that a layout record covers, as offsets (R117). -/
def coveredPart (va n : Nat) (r : List Nat) : Nat × Nat :=
  ((max va (recWord r 0) - va) / 16 * 16, (min (va + n) (recWord r 0 + recWord r 1) - va + 15) / 16 * 16)

/-- A part of a moved run written under the key of its record: the stored bytes depend on the address (R117). -/
def State.rekey (s : State) (from_ to_ n va : Nat) (r : List Nat) : State :=
  match s.keyOf r with
  | none => s
  | some key =>
    let p := coveredPart va n r
    s.writeRun (to_ + p.1) (p.2 - p.1) ((s.bytesUnder from_ (some key) p.1 p.2).zipIdx.map (fun q => (q.2, BitVec.ofNat 8 q.1))) (some key)

/-- The HBM4 frames that a virtual address of a context lies in move to the park tier: what a record's key hides is hidden under it there,
every other byte and every uncorrectable error moves as it is (R250). -/
def State.sinkFrame (s : State) (asid va : Nat) (rs : List (List Nat)) : State :=
  match s.firmTransl asid va with
  | .inl _ => s
  | .inr t =>
    let n := t.last - t.base + 1
    if regionOf t.pa != .hbm then s
    else
      let pa := s.parkRun n (if t.lvl = 7 then 4096 else n)
      let l := (s.bytesUnder t.pa none 0 n).zipIdx.map (fun p => (p.2, BitVec.ofNat 8 p.1))
      let s := (rs.foldl (fun (s : State) r => s.rekey t.pa pa n t.base r) (s.writeRun pa n l none)).remap asid va t pa
      { s with
        ueMem := s.ueMem ++ (s.ueMem.filter (fun d => inRun t.pa n (8 * d))).map (fun d => d - t.pa / 8 + pa / 8)
        sched := { s.sched with deep := s.sched.deep ++ [(pa, n)] }
        tcache := s.tcache.map (fun p => (p.1, p.2.filter (fun u => !(u.asid == asid && decide (u.base ≤ t.last) && decide (t.base ≤ u.last))))) }

/-- DEEP_PARK: the HBM4 frames that a parked team's layout records reach go to the park tier and are remapped (R250). -/
def execDeepPark (team : Nat) (s : State) : Step :=
  .next (match s.team team with
    | none => s
    | some t =>
      if t.state == .out && (t.dep == .park || t.dep == .emergency) && t.hamper != 0 then
        let rs := t.recs.filterMap (s.layoutRecord t.asid)
        rs.foldl (fun s r =>
          let first := recWord r 0 / 4096
          let last := (recWord r 0 + recWord r 1 + 4095) / 4096
          (List.range (last - first)).foldl (fun (s : State) p => s.sinkFrame t.asid (4096 * (first + p)) rs) s) s
      else s)

end Sys2Proof.Machine
end

