-- ==== Sys2Proof/Machine/Curtail.lean ====
section
/-!
DEFINITION. Machine/Curtail.lean: curves (R230 to R235), the grades that meet a fall of target (R245, R246), resumes and variant
switches (R240, R249), and the damper's evaluations and tick (R241 to R244, R255, R271, R450).
-/
namespace Sys2Proof.Machine

/-! ## Removals (R245, R246, R450) -/

/-- A list of teams sorted by an order, the earlier first on a tie. -/
def insertTeam (before : Team → Team → Bool) (x : Team) : List Team → List Team
  | [] => [x]
  | y :: l => if before x y then x :: y :: l else y :: insertTeam before x l

/-- Teams in the order of their removal at a level and duty: lowest PRIO, highest predicted power, latest release (R246). A team that
is parked draws nothing, and one not released yet counts as the latest. -/
def removalBefore (l k : Nat) (a b : Team) : Bool :=
  let draw (t : Team) : Frac := if t.running then t.power t.point l k else .of 0
  let late (t : Team) : Nat := if t.started = 0 then 2 ^ 64 else t.started
  if a.prio != b.prio then decide (a.prio < b.prio)
  else if !(draw a).le (draw b) then true
  else if !(draw b).le (draw a) then false
  else decide (late b < late a)

/-- The tasks of a class in the order of their removal. -/
def State.removable (s : State) (ts : List Team) (cls : Nat) : List Team :=
  (ts.filter (fun t => t.ecls == cls)).foldl (fun m t => insertTeam (removalBefore s.power.goalLc s.power.duty) t m) []

/-- The team is parked, or its park is under way. -/
def Team.isParked (t : Team) : Bool :=
  (t.dep == .park || t.dep == .emergency) && (t.state == .out || t.state == .leaving)

/-- What a grade does to one task. -/
structure Removal where
  id   : Nat
  shed : Bool
  deriving DecidableEq, Repr

/-- What grade park may remove, in order. -/
def State.parkList (s : State) : List Removal :=
  ((s.removable s.tasks 2) ++ (s.removable s.tasks 1)).map (fun t => ⟨t.id, false⟩)

/-- What grade shed may remove, in order: class 2 also while parked (R238). -/
def State.shedList (s : State) : List Removal :=
  let two := s.sched.teams.filter (fun t => t.running || t.isParked)
  ((s.removable s.tasks 3) ++ (s.removable two 2)).map (fun t => ⟨t.id, true⟩) ++ (s.removable s.tasks 1).map (fun t => ⟨t.id, false⟩)

/-- The ungated dies once removals have left some without an allocated cell (R450). -/
def State.diesWithout (s : State) (gone : List Removal) : Nat :=
  (s.liveDies.filter (fun d =>
    let l := s.sched.teams.filter (fun t => t.holds && t.cells.any (fun c => dieOf c == d))
    l.isEmpty || !l.all (fun t => gone.any (fun r => r.id == t.id)))).length

/-- The tasks that removals leave. -/
def State.tasksWithout (s : State) (gone : List Removal) : List Team := s.tasks.filter (fun t => !gone.any (fun r => r.id == t.id))

/-- R242 meets the goal without MISS once some tasks are removed. -/
def State.slowMeets (s : State) (gone : List Removal) : Bool :=
  !(evaluate (s.tasksWithout gone) s.now (fun _ => s.diesWithout gone) s.power.goal s.power.corr).miss

/-- The goal is met at the level and duty in force once some tasks are removed (R245). -/
def State.heldMeets (s : State) (gone : List Removal) : Bool :=
  let ts := s.tasksWithout gone
  let p := s.power
  let picks := ts.map (fun t => t.pick s.now p.goalLc p.duty)
  ((Setting.total ts picks (s.diesWithout gone) p.goalLc p.duty).add p.corr).le p.goal

/-- The shortest beginning of a list of removals that passes a test; the whole list where none does. -/
def shortest (test : List Removal → Bool) (l : List Removal) : List Removal :=
  match (List.range (l.length + 1)).find? (fun n => test (l.take n)) with
  | some n => l.take n
  | none => l

/-- MINGRADE of the curve in force. -/
def Power.minGrade (p : Power) : Nat := p.curve.elim 0 Curve.minGrade

/-- The lowest grade whose action meets the goal; shed where none does (R245). -/
def State.sufficient (s : State) : Nat :=
  if s.slowMeets [] then 1
  else if (List.range (s.parkList.length + 1)).any (fun n => s.slowMeets (s.parkList.take n)) then 2
  else 3

/-- The grade that meets a fall, and what it removes (R245). -/
def State.response (s : State) : Nat × List Removal :=
  let suff := s.sufficient
  let g := max s.power.minGrade suff
  let test := if suff < g then s.heldMeets else s.slowMeets
  (g, match g with
    | 2 => shortest test s.parkList
    | 3 => shortest test s.shedList
    | _ => [])

/-- GRADE_RESPONSE: the grade is set, and its removals begin, one after the other (R245, R246, R450). -/
def State.respond (s : State) : State :=
  let r := s.response
  r.2.foldl (fun s x => if x.shed then s.shedTeam x.id else s.parkTeam x.id .park)
    { s with power := { s.power with grade := r.1 } }

/-! ## Resumes (R246, R249, R450) -/

/-- Parked teams that may resume, next first: classes 0 and 1 before the others, highest PRIO, earliest park. After a hard trip a team
waits for its key slots (R263). -/
def State.parkedTeams (s : State) : List Team :=
  let keysIn (t : Team) : Bool := !t.reloadWait || t.recs.all (fun i =>
    ((s.layoutRecord t.asid i).bind recKey).all (fun k => (mapGet none s.sched.key k).isSome))
  (s.sched.teams.filter (fun t => t.state == .out && t.isParked && t.hamper != 0 && t.asked == 0 && keysIn t)).foldl
    (fun m t => insertTeam (fun a b =>
      let c (t : Team) : Nat := if t.ecls ≤ 1 then 0 else 1
      if c a != c b then decide (c a < c b) else if a.prio != b.prio then decide (b.prio < a.prio) else decide (a.parked < b.parked)) t m) []

/-- The next parked team resumes at a point: its hamper is checked, and it waits for cells with its images, or as a variant switch
where the point is another (R249). -/
def State.resumeTeam (s : State) (t : Team) (i : Nat) : State :=
  if !s.hamperValid t.hamper then
    s.modTeam t.id (fun t => { t with
      state := .ended, error := errorCode 0x0D 0 none, flags := addFlags t.flags (flagStopped + flagResumed), ended := s.now
      lastSeq := s.seq, saved := [], hamper := 0 })
  else if i = t.point then s.modTeam t.id (fun t => { t with asked := s.now, reloadWait := false })
  else (s.dropHamper t).modTeam t.id (fun t => { t.atPoint i with
    state := .waiting, dep := .variant, asked := s.now, saved := [], reloadWait := false })

/-- The decision on the next parked task: it resumes if R242 with it meets the goal without MISS at no lower level (R246). -/
def State.decideResume (s : State) : State × Option Nat :=
  match s.parkedTeams with
  | [] => (s, none)
  | t :: _ =>
    if s.power.saving then (s, none)
    else
      let r := s.weighAdded t
      if r.miss || decide (r.lc < s.power.goalLc) then (s, none)
      else (s.resumeTeam t (((r.picks.find? (fun p => p.1 == t.id)).map Prod.snd).getD 0), some t.id)

/-! ## Evaluations (R240, R242, R255, R450) -/

/-- A running task takes the point chosen for it: a change of NCELL, FMT, QK or IMAGE is a variant switch, and any other change takes effect
at a control tick (R240). -/
def State.repoint (s : State) (tick : Bool) (t : Team) (i : Nat) : State :=
  let switch := variantPair (t.pt t.point) (t.pt i)
  let keep : State := if tick then s.modTeam t.id (fun t => { t with point := i }) else s
  match t.state with
  | .leaving =>
    if t.dep == .variant then s.modTeam t.id (fun t => { t with next := i })
    else if switch then s else keep
  | .waiting => if switch || tick then s.modTeam t.id (fun t => t.atPoint i) else s
  | .out =>
    if i = t.point || !(switch || t.isParked) then keep
    else (s.dropHamper t).modTeam t.id (fun t => { t.atPoint i with
      state := .waiting, dep := .variant, asked := s.now, saved := [] })
  | .resident =>
    if switch then (s.askLeave t.id .variant).modTeam t.id (fun t => { t with next := i })
    else keep
  | _ => if switch then s else keep

/-- A task's allotment, and ERATE of its cells, which it brings at once (R255, R258, R451). -/
def State.setAllot (s : State) (id allot : Nat) : State :=
  let s := s.modTeam id (fun t => { t with allot := allot })
  match s.team id with
  | none => s
  | some t => if t.holds then t.workers.foldl (fun s c => s.modCore c (fun k => k.setRate t.cellRate)) s else s

/-- ENERGY_ALLOTMENT (R255) at a setting. -/
def State.allotEnergy (s : State) (r : Setting) : State :=
  let avail := (s.power.goal.sub s.power.corr).sub (idleOf r.dies r.lc)
  let l := r.picks.filterMap (fun p => (s.team p.1).map (fun t => (t, t.power p.2 r.lc r.duty)))
  let p0 := sumFrac ((l.filter (fun p => p.1.ecls == 0)).map Prod.snd)
  let pr := sumFrac ((l.filter (fun p => p.1.ecls != 0)).map Prod.snd)
  let sh := energyShares avail p0 pr
  l.foldl (fun s p => s.setAllot p.1.id ((p.2.mul (if p.1.ecls = 0 then sh.1 else sh.2)).floor.toNat)) s

/-- Apply of R242: level, fabric level, duty, MISS and the points. -/
def State.applySetting (s : State) (tick : Bool) (r : Setting) : State :=
  let s : State := { s with power := { s.power with goalLc := r.lc, goalLf := r.lf, duty := r.duty, miss := r.miss, band := s.power.bandMicro / 1000000 } }
  r.picks.foldl (fun s p => match s.team p.1 with
    | some t => s.repoint tick t p.2
    | none => s) s

/-- One evaluation of R242 and R255 over `base` ungated dies, at a control tick or at a change of target: the next resume is decided first, its placement's dies counted
(R450). -/
def State.evaluation (s : State) (tick : Bool) (base : Nat) : State × Setting :=
  let d := s.decideResume
  let s := d.1
  let added := d.2.bind s.team
  let ts := match added with
    | some t => s.tasks.filter (fun u => u.id != t.id) ++ (if t.running then [t] else [])
    | none => s.tasks
  let need (picks : List Nat) : Nat := match added with
    | some t => if t.running then s.needFor t (picks.getLastD 0) else 0
    | none => 0
  let r := evaluate ts s.now (fun picks => base + need picks) s.power.goal s.power.corr
  (((s.applySetting tick r).allotEnergy r), r)

/-- A change of target at t0 (R245, R450): a fall is met with a grade, a rise ends the grade in force, and an evaluation follows. -/
def State.changeTarget (s : State) (w : Nat) : State :=
  let old := s.power.target
  let s : State := { s with power := { s.power with target := w } }
  if w < old then ((s.respond).evaluation false (s.diesWithout s.response.2)).1
  else
    let s : State := { s with power := { s.power with grade := if old < w then 0 else s.power.grade } }
    (s.evaluation false s.liveDies.length).1

/-! ## Curves (R230 to R235) -/

/-- Points of a curve whose TIME the present UTC has reached (R231). -/
def Curve.reached (c : Curve) (utc : Int) : Nat := c.points.countP (fun p => decide ((p.1 : Int) ≤ utc))

/-- The target of a curve with `n` of its points reached (R231, R235). -/
def Curve.targetAt (c : Curve) (n : Nat) : Nat :=
  if n = 0 then c.prior else min 6000 ((c.points[n - 1]?).elim 0 Prod.snd)

/-- The target follows the present UTC, with an evaluation where a point's TIME has been reached or crossed (R231). -/
def State.followCurve (s : State) : State :=
  match s.power.curve with
  | none => s
  | some c =>
    let n := c.reached s.utc
    if n = s.power.passed then s
    else ({ s with power := { s.power with passed := n } } : State).changeTarget (c.targetAt n)

/-- A point's TIME has been reached, or crossed, and the target does not follow it yet (R231). -/
def State.pointDue (s : State) : Bool := s.power.curve.any (fun c => c.reached s.utc != s.power.passed)

/-- The NOTBEFORE of a pending curve has been reached (R235). -/
def State.takeoverDue (s : State) : Bool := s.power.pending.any (fun c => decide ((c.notBefore : Int) ≤ s.utc))

/-- CURVE_POINT: the present UTC reaches a point's TIME (R231, R245). -/
def execCurvePoint (s : State) : Step := .next s.followCurve

/-- UTCOFS_WRITE: every TIME moves, and the target may change at the write (R231). -/
def execUtcofsWrite (v : Nat) (s : State) : Step :=
  .next ({ s with power := { s.power with utcofs := (word v).toInt } } : State).followCurve

/-- CURVE_TAKEOVER: a pending curve takes over at its NOTBEFORE, with its band and MINGRADE (R235). -/
def execCurveTakeover (s : State) : Step :=
  .next (match s.power.pending with
    | none => s
    | some c =>
      if s.utc < (c.notBefore : Int) then s
      else
        let c := { c with prior := s.power.target }
        let n := c.reached s.utc
        ({ s with power := { s.power with curve := some c, pending := none, passed := n } } : State).changeTarget (c.targetAt n))

/-- CURVE_EXPIRE: past NOTAFTER the last point's target stays in force; CURVESTAT.EXPIRED reads 1 from the present UTC (R235). -/
def execCurveExpire (s : State) : Step := .next (if s.curveExpired then s.followCurve else s)

/-- CURVE_SUBMIT: the write of CURVESUB starts verification, or sets DROP while BUSY (R232). -/
def execCurveSubmit (v : Nat) (s : State) : Step :=
  .next (match s.power.curveSub with
    | some _ => { s with power := { s.power with cdrop := true } }
    | none => { s with power := { s.power with curveSub := some (bits v 51 6 * 64), cdone := false } })

/-- Bytes of HBM4 that firmware reads whole: none where they lie elsewhere, in a hole, or meet an uncorrectable error (R233, R276). -/
def State.hbmBytes (s : State) (pa n : Nat) : Option (List Nat) :=
  let l := (List.range n).map (pa + ·)
  if l.all (fun a => regionOf a == .hbm && !s.isHole a) && !s.ueMem.any (fun d => inRun pa n (8 * d)) then
    some (l.map (fun a => (s.home a).toNat))
  else none

/-- Field of `n` bytes at an offset of a record. -/
def fieldAt (r : List Nat) (o n : Nat) : Nat := bytesNat (bytesOf r o n)

/-- The points in use of a curve record. -/
def recordPoints (r : List Nat) : List (Nat × Nat) :=
  (List.range (fieldAt r 6 1)).map (fun k => (fieldAt r (64 + 16 * k) 8, fieldAt r (72 + 16 * k) 4))

/-- A list of numbers strictly increases. -/
def rising : List Nat → Bool
  | a :: b :: l => decide (a < b) && rising (b :: l)
  | _ => true

/-- A run of a record is all zeros. -/
def zeroAt (r : List Nat) (o n : Nat) : Bool := (bytesOf r o n).all (· == 0)

/-- Check 1 of R233. -/
def recordOk (r : List Nat) : Bool :=
  let kind := fieldAt r 5 1
  let n := fieldAt r 6 1
  let ps := recordPoints r
  fieldAt r 0 4 == 0x4B525443 && fieldAt r 4 1 == 1 && decide (1 ≤ kind) && decide (kind ≤ 3) && decide (fieldAt r 7 1 ≤ 3)
    && decide (15 ≤ fieldAt r 40 2) && decide (fieldAt r 40 2 ≤ 200) && decide (30 ≤ fieldAt r 42 2) && decide (fieldAt r 42 2 ≤ 1000)
    && decide (fieldAt r 44 1 ≤ 7) && zeroAt r 46 18
    && (if kind = 1 then
        decide (1 ≤ n) && decide (n ≤ 64) && fieldAt r 45 1 == 0 && zeroAt r (64 + 16 * n) (1024 - 16 * n)
          && (List.range n).all (fun k => zeroAt r (76 + 16 * k) 4) && rising (ps.map Prod.fst)
          && decide (fieldAt r 24 8 ≤ (ps.headD (0, 0)).1) && decide ((ps.getLastD (0, 0)).1 < fieldAt r 32 8)
      else n == 0 && decide (fieldAt r 45 1 ≤ 7) && (if kind = 2 then zeroAt r 120 968 else zeroAt r 64 1024))

/-- The anchor slots installed. -/
def Power.installed (p : Power) : List Nat := (List.range 8).filter (fun i => (mapGet none p.anchors i).isSome)

/-- Checks 2 and 3 of R233; a KIND 2 record skips them while no slot is installed (R234). -/
def Power.anchorResult (p : Power) (r : List Nat) : Nat :=
  if fieldAt r 5 1 = 2 ∧ p.installed.isEmpty then 0
  else match mapGet none p.anchors (fieldAt r 44 1) with
    | none => 6
    | some (f, key) =>
      if f != fieldAt r 8 8 then 6
      else if lmsVerify (key.map BitVec.toNat) (bytesOf r 0 1088) (bytesOf r 1088 2508) then 0 else 1

/-- RESULT of a record (R233). -/
def State.recordResult (s : State) (r : List Nat) : Nat :=
  let p := s.power
  if !recordOk r then 5
  else match p.anchorResult r with
    | 0 =>
      if fieldAt r 16 8 ≤ p.cseq then 2
      else if (fieldAt r 32 8 : Int) ≤ s.utc then 3
      else if fieldAt r 5 1 = 1 && (recordPoints r).any (fun q => decide (q.2 < 600)) then 4
      else if fieldAt r 5 1 = 3 && p.installed == [fieldAt r 45 1] then 6
      else 0
    | n => n

/-- An accepted record takes effect: a pending curve, an anchor installed, or one removed (R233 to R235). -/
def Power.accept (p : Power) (r : List Nat) : Power :=
  let p := { p with cseq := fieldAt r 16 8 }
  let tslot := fieldAt r 45 1
  match fieldAt r 5 1 with
  | 1 => { p with pending := some ⟨fieldAt r 8 8, fieldAt r 24 8, fieldAt r 32 8, fieldAt r 40 2, fieldAt r 42 2, fieldAt r 7 1, 0, recordPoints r⟩ }
  | 2 => { p with anchors := mapSet none p.anchors tslot (some (fieldAt r 8 8, (bytesOf r 64 56).map (BitVec.ofNat 8))) }
  | _ => { p with anchors := mapSet none p.anchors tslot none }

/-- CURVE_VERIFY: the management stoker checks the submitted record and sets RESULT and DONE (R233, R276). -/
def execCurveVerify (s : State) : Step :=
  .next (match s.power.curveSub with
    | none => s
    | some a =>
      let done (n : Nat) (p : Power) : Power := { p with curveSub := none, cdone := true, cresult := n }
      if !s.acting 0 then s
      else match s.hbmBytes a 3596 with
      | none => { s with power := done 7 s.power }
      | some r =>
        let n := s.recordResult r
        { s with power := done n (if n = 0 then s.power.accept r else s.power) })

/-! ## The tick (R241, R242, R271) -/

/-- t.done rises by what 1 ms gives at the point and the rail vector in force, exactly (R242); a task whose cells do not run stands still. -/
def Team.progress (t : Team) (lc : Nat) : Team :=
  if !t.points.isEmpty then
    let d := 22 * max 1 (ptTpi (t.pt t.point))
    let n := t.done * d + 1000000 * (7 + lc) * t.doneDen
    let g := max 1 (Nat.gcd n (t.doneDen * d))
    { t with done := n / g, doneDen := t.doneDen * d / g }
  else t

/-- The team's cells run: it is resident, or leaves and some cell of it has neither stopped nor halted yet (R242, R271). -/
def State.cellsRun (s : State) (t : Team) : Bool :=
  t.state == .resident || (t.state == .leaving && t.workers.any (fun c => (s.core c).st != .stopped && (s.core c).st != .halted))

/-- What the ms that ends has brought the tasks at the rail vector in force in it, taken once (R242): a change of target at the same instant
comes after it (log 39). -/
def State.endMs (s : State) : State :=
  if s.power.told then s
  else { s with
    power := { s.power with told := true }
    sched := { s.sched with teams := s.sched.teams.map (fun t => if s.cellsRun t then t.progress s.power.lc else t) } }

/-- The voltage of the matrix rail in mV: V(Lc) less 10 mV for each step of A (R229, R271). -/
def Power.matrixRail (p : Power) : Nat := 300 + 20 * p.lc - 10 * p.allow

/-- OVERSCALE_ALLOWANCE: A follows the least APX.OVS by one step a tick, and is lowered after excessive replays (R271). -/
def State.overscale (s : State) : State :=
  let p := s.power
  let ovs := (s.sched.teams.filter (fun t => t.state == .resident || t.state == .leaving)).flatMap (fun t => t.workers.map (fun c => field (s.core c).apx 13 11))
  let goal := if ovs.isEmpty then 0 else ovs.foldl min 7
  let p := if p.replays.any (fun q => decide (1024 < q.2)) then { p with allow := p.allow - 1, allowCap := p.allow - 1, allowHold := 100 }
    else
      let a := toward p.allow goal
      { p with allow := if p.allowHold = 0 then a else min a p.allowCap, allowHold := p.allowHold - 1 }
  { s with power := { p with replays := [] } }

/-- DAMPER_TICK: `p` is Pm in µW. corr and the tasks' progress are taken, a missed goal is decided again, R242 and R255 are evaluated,
and A moves (R241, R242, R243, R255, R271, R450). -/
def execDamperTick (p : Nat) (s : State) : Step :=
  .next (
    let s := s.endMs
    let s : State := { s with
      power := { s.power with corr := (Frac.of p).sub s.power.pred, pmeas := (p + 500000) / 1000000 % 2 ^ 13, told := false }
      sched := { s.sched with teams := s.sched.teams.map (fun t => { t with settled := t.spent, spent := 0 }) } }
    let again := s.power.miss && s.power.curve.isSome
    let base := if again then s.diesWithout s.response.2 else s.liveDies.length
    let e := (if again then s.respond else s).evaluation true base
    { e.1.overscale with power := { e.1.overscale.power with pred := e.2.power.reduced } })

end Sys2Proof.Machine
end

