-- ==== Sys2Proof/Machine/Firmware.lean ====
section
/-!
DEFINITION. Machine/Firmware.lean: heartbeats and role moves (R273), hand-overs (R274 to R279), event records (R280), measurement
(R281) and quotes (R282, R283).
-/
namespace Sys2Proof.Machine

/-! ## Records and measurement -/

/-- A role's measurement is extended with an image, and the log takes an entry (R281). -/
def State.measure (s : State) (role : Nat) (img : Image) : State :=
  let m := (mapGet (List.replicate 32 (0 : Byte)) s.firm.meas role).map BitVec.toNat
  let d := img.digest.map BitVec.toNat
  let entry := [role, 0, 0, 0] ++ natBytes img.version 4 ++ natBytes img.svn 4 ++ List.replicate 4 0 ++ natBytes s.now 8
    ++ List.replicate 8 0 ++ d
  { s with firm := { s.firm with
    meas := mapSet [] s.firm.meas role ((sha256 (m ++ d)).map (BitVec.ofNat 8))
    log := if s.firm.log.length < 1024 then s.firm.log ++ [entry.map (BitVec.ofNat 8)] else s.firm.log } }

/-- The context slots in use. -/
def State.usedSlots (s : State) : List Nat := (List.range 64).filter (fun n => bit (s.cx n 0).toNat 16)

/-- One event record goes to its slot of the ring; a write that fails leaves it as it stood (R280). -/
def State.postEvent (s : State) (kind role oldv newv : Nat) (dig : List Byte) (slot : Nat) : State :=
  let pa := bits s.firm.evring 51 12 * 4096 + 32 * (s.firm.evcount % 128)
  let bad := (List.range 32).any (fun i => s.isHole (pa + i)) || s.ueIn pa 32
  let l : List Piece := [(0, 1, kind), (1, 1, role), (2, 2, field (s.cx slot 0) 15 0), (4, 4, s.ident.measgen), (8, 4, oldv), (12, 4, newv),
    (16, 8, s.now), (24, 8, ofLowBytes ((dig.take 8).map BitVec.toNat))]
  let t := if bad then s else s.writeRun pa 32 (l.flatMap pieceBytes) none
  { t with firm := { t.firm with evcount := (t.firm.evcount + 1) % 2 ^ 32, evfail := t.firm.evfail || bad } }

/-- EVENT_RECORD_POST: one record for every context slot in use, while EN is 1 (R280). -/
def State.postEvents (s : State) (kind role oldv newv : Nat) (dig : List Byte) : State :=
  if bit s.firm.evring 0 then s.usedSlots.foldl (fun s n => s.postEvent kind role oldv newv dig n) s else s

/-- The measurement generation rises by 1 (R280). -/
def State.bumpGen (s : State) : State := { s with ident := { s.ident with measgen := (s.ident.measgen + 1) % 2 ^ 32 } }

/-! ## Roles -/

/-- A role passes to a stoker, with its image; the words that the management image keeps follow (R19, R179, R276). -/
def State.takeRole (s : State) (role stk : Nat) (img : Image) : State :=
  let s : State := { s with firm := { s.firm with
    role := mapSet 3 ((s.firm.role.map (fun p => if p.2 = role then (p.1, 3) else p)).filter (fun p => p.2 != 3)) stk role
    images := mapSet Image.none s.firm.images role img
    missed := mapSet 0 s.firm.missed role 0
    fresh := role :: s.firm.fresh } }
  let ready := s.ident.ready || (s.ident.booted && !s.ident.bootfail && (List.range 3).all (fun r => (s.roleStoker r).isSome))
  { s with ident := { s.ident with
    ready := ready
    mgmt := if role = 0 then stk else s.ident.mgmt
    fwver := if role = 0 then img.version else s.ident.fwver } }

/-- A stoker's local memory takes the body of an image, from its first byte on (R25, R273, R276; log 72: DESIGN CHOICE). -/
def State.loadImage (s : State) (stk : Nat) (img : Image) : State :=
  s.setHomes (img.body.zipIdx.map (fun p => (localKey (1024 + stk) p.2, p.1)))

/-- A stoker that hardware stops runs nothing more until power-on (R178, R273, R278). -/
def State.stopStoker (s : State) (n : Nat) : State :=
  { s.modCore (1024 + n) (fun k => { k with st := .stopped }) with
    firm := { s.firm with dead := if s.firm.dead.contains n then s.firm.dead else s.firm.dead ++ [n] } }

/-- The stokers of the standby pool: those that hold no role, run, and take no part in a hand-over, fall-back or role move (R273,
R276, R278). -/
def State.standbys (s : State) : List Nat :=
  (List.range 6).filter (fun n => s.roleOf n == 3 && !s.firm.dead.contains n
    && !s.firm.fwsub.any (fun h => decide (2 ≤ h.phase) && (h.newStk == n || h.oldStk == n))
    && !s.firm.fallback.any (fun h => h.oldStk == n) && !s.firm.moving.any (fun p => p.2 == some n))

/-! ## Hand-overs (R274 to R278) -/

/-- FW_SUBMIT: the write of FWSUB starts a hand-over, or sets DROP while BUSY (R275). -/
def execFwSubmit (v : Nat) (s : State) : Step :=
  .next (if s.firm.fbusy then { s with firm := { s.firm with fdrop := true } }
    else if v % 4 = 3 then s
    else { s with firm := { s.firm with
      fbusy := true, frole := v % 4, fhb := 0
      fwsub := some ⟨v % 4, bits v 51 6 * 64, 1, 0, 0, 0, Image.none, Image.none, 0⟩ } })

/-- The hand-over ends with a RESULT (R275, R276). -/
def State.endHandover (s : State) (result : Nat) : State :=
  { s with firm := { s.firm with fwsub := none, fbusy := false, fresult := result } }

/-- The fields of an image's header are legal for a role (R274). -/
def imageHeaderOk (h : List Nat) (role : Nat) : Bool :=
  let len := fieldAt h 20 4
  fieldAt h 0 4 == 0x4D495453 && fieldAt h 4 1 == role && zeroAt h 5 1 && zeroAt h 10 2 && decide (4 ≤ len) && decide (len ≤ 196608)
    && len % 4 == 0 && zeroAt h 24 40

/-- The vendor key (R274). -/
def vendorKeyBytes : List Nat := (List.range 56).map (fun i => (Config.vendorKey i).toNat)

/-- The checks of the stage phase: a RESULT, or the image (R276). -/
def State.stageCheck (s : State) (role addr : Nat) : Nat ⊕ Image :=
  match s.hbmBytes addr 64 with
  | none => .inl 8
  | some h =>
    if !imageHeaderOk h role then .inl 2
    else
      let n := 64 + fieldAt h 20 4
      match s.hbmBytes addr (n + 2508) with
      | none => .inl 8
      | some l =>
        if !lmsVerify vendorKeyBytes (bytesOf l 0 n) (bytesOf l n 2508) then .inl 1
        else if fieldAt h 16 4 < mapGet 0 s.firm.svnmin role then .inl 3
        else .inr ⟨fieldAt h 6 2, fieldAt h 8 2, fieldAt h 12 4, fieldAt h 16 4, (sha256 (bytesOf l 0 n)).map (BitVec.ofNat 8), addr,
            (bytesOf l 64 (n - 64)).map (BitVec.ofNat 8)⟩

/-- HANDOVER_STAGE: the image is copied into the lowest-numbered standby stoker, checked and measured (R276, R281). Of several failures
that hold at once it reports the first of NOSTANDBY, READ of the header, FIELD, READ of the body, BADSIG, SVN and LOGFULL (log 75: DESIGN
CHOICE). A role that no stoker serves has no old stoker: OLDSTK reads 0, and `oldStk` is 6 (log 43: DESIGN CHOICE). -/
def execHandoverStage (s : State) : Step :=
  .next (match s.firm.fwsub with
    | none => s
    | some h =>
      if h.phase != 1 then s
      else match s.standbys.head? with
        | none => s.endHandover 4
        | some n =>
          let old := (s.roleStoker h.role).getD 6
          let s : State := { s with firm := { s.firm with fnew := n, fold := old % 6 } }
          match s.stageCheck h.role h.addr with
          | .inl e => s.endHandover e
          | .inr img =>
            if 1024 < s.firm.log.length + 2 then s.endHandover 7
            else
              let s := (s.loadImage n img).measure h.role img
              { s with firm := { s.firm with
                fwsub := some { h with phase := 3, newStk := n, oldStk := old, image := img, old := s.roleImage h.role, frame := s.frame } } })

/-- HANDOVER_QUIESCE: the old image ends major frame N and writes its quiesce block (R276, R277). -/
def execHandoverQuiesce (s : State) : Step :=
  .next (match s.firm.fwsub with
    | none => s
    | some h =>
      if h.phase != 3 then s
      else
        let s := s.writeBlock h.role 1 h.old.layout (s.frame % 2)
        { s with firm := { s.firm with fwsub := some { h with phase := 4, frame := s.frame } } })

/-- A hand-over block is valid: MAGIC, ROLE and DIGEST are correct (R277). -/
def State.blockValid (s : State) (role buffer : Nat) : Bool :=
  let pa := mgmtBase + 0x200000 + role * 0x20000 + buffer * 0x8000
  let n := s.homeNat (pa + 16) 4
  s.homeNat pa 4 == 0x4B4C4248 && s.homeNat (pa + 6) 1 == role && decide (64 ≤ n) && decide (n ≤ 32768)
    && sha256 (s.bytesUnder pa none 64 n) == s.bytesUnder pa none 32 64

/-- The layout of the valid block of a pair with the highest FRAME (R277). -/
def State.latestLayout (s : State) (role pair : Nat) : Option Nat :=
  let pa (b : Nat) : Nat := mgmtBase + 0x200000 + role * 0x20000 + b * 0x8000
  let l := [2 * pair, 2 * pair + 1].filter (s.blockValid role)
  (leastBy (fun b => 2 ^ 64 - s.homeNat (pa b + 8) 8) l).map (fun b => s.homeNat (pa b + 4) 2)

/-- HANDOVER_ADOPT: the new image adopts the block and becomes authoritative, or the hand-over fails with LAYOUT and the old image
resumes (R276, R280, R281). -/
def execHandoverAdopt (s : State) : Step :=
  .next (match s.firm.fwsub with
    | none => s
    | some h =>
      if h.phase != 4 then s
      else if !(s.latestLayout h.role 0).any (fun l => decide (h.image.oldlay ≤ l) && decide (l ≤ h.image.layout)) then
        ({ s with firm := { s.firm with fresh := h.role :: s.firm.fresh } }.measure h.role h.old).endHandover 5
      else
        let s := (s.takeRole h.role h.newStk h.image).bumpGen
        let s := s.postEvents 1 h.role h.old.version h.image.version h.image.digest
        { s with firm := { s.firm with fwsub := some { h with phase := 5, hbs := 0 }, fhb := 0 } })

/-- The retire phase: the old stoker, if there is one, and every other standby load the new image and stand by (R276, log 43). -/
def State.retire (s : State) (h : Handover) : State :=
  ((h.oldStk :: s.standbys).filter (· < 6)).foldl (fun s n => s.loadImage n h.image) (s.modCore (1024 + h.oldStk) (fun k => { k with st := .free }))

/-- HANDOVER_CONFIRM: after 4,096 consecutive trial heartbeats SVNMIN rises, and the old stoker stands by with the new image (R276). -/
def execHandoverConfirm (s : State) : Step :=
  .next (match s.firm.fwsub with
    | none => s
    | some h =>
      if h.phase != 5 || decide (h.hbs < 4096) then s
      else
        (({ s with firm := { s.firm with
          svnmin := mapSet 0 s.firm.svnmin h.role (max (mapGet 0 s.firm.svnmin h.role) h.image.svn) } } : State).retire h).endHandover 0)

/-- FALL_BACK: the old stoker adopts its old-layout block and is authoritative again; a role that had none is unserved again (R278, R280,
R281, log 43). -/
def execFallBack (s : State) : Step :=
  .next (match s.firm.fallback with
    | none => s
    | some h =>
      let s := ((s.takeRole h.role h.oldStk h.old).bumpGen).measure h.role h.old
      let s := s.postEvents 2 h.role h.image.version h.old.version h.old.digest
      ({ s with firm := { s.firm with fallback := none } } : State).endHandover 6)

/-! ## Heartbeats and role moves (R273) -/

/-- Two heartbeats in a row are missed: in a trial the new stoker is stopped and a fall-back begins, else the role moves to the
lowest-numbered standby stoker, and is unserved where there is none, or where the role has no image that passed its check (R25, R273, R278). -/
def State.missedTwice (s : State) (r : Nat) : State :=
  match s.firm.fwsub.filter (fun h => h.phase == 5 && h.role == r) with
  | some h => { s.stopStoker h.newStk with firm := { (s.stopStoker h.newStk).firm with fallback := some h } }
  | none =>
    let s := ((List.range 6).filter (fun n => s.roleOf n == r)).foldl State.stopStoker s
    match (if s.roleImage r == Image.none then none else s.standbys.head?) with
    | some n => (({ s with firm := { s.firm with moving := mapSet none s.firm.moving r (some n) } } : State).loadImage n (s.roleImage r))
    | none => { s with ident := { s.ident with ready := false } }

/-- The monitor's check of one role (R273, R276). In the frame at whose end a role changes hands, neither stoker writes its heartbeat, and
none is missed. -/
def State.checkRole (s : State) (r : Nat) : State :=
  let trial (h : Handover) : Bool := h.phase == 5 && h.role == r
  if s.firm.fwsub.any (fun h => h.phase == 4 && h.role == r) || (mapGet none s.firm.moving r).isSome || s.firm.fallback.any (fun h => h.role == r)
      || s.firm.fresh.contains r then s
  else if mapGet false s.firm.beat r then
    let f : Firm := { s.firm with missed := mapSet 0 s.firm.missed r 0 }
    { s with firm := match f.fwsub with
      | some h => if trial h then { f with fwsub := some { h with hbs := min 4096 (h.hbs + 1) }, fhb := min 4096 (h.hbs + 1) } else f
      | none => f }
  else
    let n := mapGet 0 s.firm.missed r + 1
    let f : Firm := { s.firm with missed := mapSet 0 s.firm.missed r n }
    let f := match f.fwsub with
      | some h => if trial h then { f with fwsub := some { h with hbs := 0 }, fhb := 0 } else f
      | none => f
    let s : State := { s with firm := f }
    if n = 2 then s.missedTwice r else s

/-- HEARTBEAT_CHECK: at the end of a major frame the monitor checks every role (R273). -/
def execHeartbeatCheck (s : State) : Step :=
  .next (if !s.ident.booted || s.ident.bootfail then s
    else
      let s := (List.range 3).foldl State.checkRole s
      { s with firm := { s.firm with beat := [], fresh := [] } })

/-- ROLE_MOVE_TAKEOVER: the standby stokers of the role moves under way adopt their blocks and become authoritative (R273, R280). -/
def execRoleMoveTakeover (s : State) : Step :=
  .next (s.firm.moving.foldl (fun s p => match p.2 with
    | none => s
    | some n =>
      let img := s.roleImage p.1
      let s := (s.takeRole p.1 n img).postEvents 3 p.1 img.version img.version img.digest
      { s with firm := { s.firm with moving := mapSet none s.firm.moving p.1 none } }) s)

/-! ## Quotes (R282, R283) -/

/-- QUOTE_SUBMIT: the write of QUOTESUB asks for a quote, or sets DROP while BUSY (R282). -/
def execQuoteSubmit (v : Nat) (s : State) : Step :=
  .next (match s.firm.quote with
    | some _ => { s with firm := { s.firm with qdrop := true } }
    | none => { s with firm := { s.firm with quote := some (bits v 51 12 * 4096), qdone := false } })

/-- The 72 bytes of a role in a quote (R283). -/
def State.quoteRole (s : State) (r : Nat) : List Nat :=
  let img := s.roleImage r
  let pad (l : List Byte) : List Nat := ((l.map BitVec.toNat) ++ List.replicate (32 - l.length) 0).take 32
  pad (mapGet [] s.firm.meas r) ++ pad img.digest ++ natBytes img.version 4 ++ natBytes img.svn 4

/-- Bytes 0 to 287 of a quote (R283). -/
def State.quoteBody (s : State) (pa index : Nat) : List Nat :=
  natBytes 0x51544F51 4 ++ natBytes 1 2 ++ [0, 0] ++ natBytes Config.serial.toNat 8 ++ natBytes s.now 8 ++ natBytes index 8
    ++ natBytes s.ident.measgen 4 ++ List.replicate 4 0 ++ s.bytesUnder pa none 0 32
    ++ s.quoteRole 0 ++ s.quoteRole 1 ++ s.quoteRole 2

/-- Signatures that the device identity key gives in all (R282). -/
def quoteTotal : Nat := 1048576

/-- QUOTE_DONE: the management stoker spends the index and writes the signed quote over the buffer, or the request is refused (R276, R282,
R283). Bytes of the buffer that lie in a hole stay unwritten (log 76: DESIGN CHOICE). -/
def execQuoteDone (s : State) : Step :=
  .next (match s.firm.quote with
    | none => s
    | some pa =>
      if !s.acting 0 then s
      else if s.firm.sigLeft = 0 then { s with firm := { s.firm with quote := none, qdone := true, qexh := true } }
      else
        let index := quoteTotal - s.firm.sigLeft
        let body := s.quoteBody pa index
        let d := bytesNat (sha256 body)
        let bytes := body ++ [0, 0, 0, 1] ++ (List.range 5072).map (fun i => (Config.quoteSignature index d (4 + i)).toNat)
        let s : State := { s with firm := { s.firm with sigLeft := s.firm.sigLeft - 1, quote := none, qdone := true, qexh := false } }
        let l := (bytes.zipIdx.map (fun p => (pa + p.2, BitVec.ofNat 8 p.1))).filter (fun p => !s.isHole p.1)
        { s.setHomes l with ueMem := s.healed l })

end Sys2Proof.Machine
end

