-- ==== Sys2Proof/Machine/Links.lean ====
section
/-!
DEFINITION. Machine/Links.lean: watches and the time limit of held accesses (R285), the links' flits, retraining and repair (R286 to
R289), and the isolation of a compute die (R290).
-/
namespace Sys2Proof.Machine

/-! ## Watches (R285) -/

/-- FLAGS.DONE of a signal reads 1 at home (R195). -/
def State.signalDone (s : State) (pa : Nat) : Bool := bit (s.homeNat (pa + 24) 8) 32

/-- WATCH_ARM: WATCHn is written, and fires at once where it is armed on a signal that reads DONE (R285). -/
def execWatchArm (n v : Nat) (s : State) : Step :=
  .next (if 256 ≤ n then s
    else
      let old := mapGet 0 s.firm.watch n
      let new := pack [(bits v 0 0, 0), (field old 1 1 - bits v 1 1, 1), (bits v 51 5, 5), (bits v 62 52, 52)]
      let s : State := { s with firm := { s.firm with watch := mapSet 0 s.firm.watch n new } }
      if bit v 0 && s.signalDone (bits v 51 5 * 32) then s.fireWatch n else s)

/-! ## Accesses over a link that is down -/

/-- The accesses of a transfer that cross the Unulo link are no longer waited for, and the transfer fails with LK PEER (R285, R288). Its writes
that are on their way stay writes of its holder (R110), and go home once the link is up (R154). -/
def State.dropHost (s : State) (key : Nat) : State :=
  let x := s.xferAt key
  match x.acc.find? (fun a => a.host.isSome) with
  | none => s
  | some a =>
    let ns := (x.acc.filter (fun a => a.host.isSome)).map Access.n
    let s := s.failXfer key a.move (trapOf 0x0F 0x00)
    { s.modXfer key (fun x => { x with acc := x.acc.filter (fun a => a.host.isNone) }) with
      writes := s.writes.map (fun w => if w.xfer.any (fun p => p.1 == key && ns.contains p.2) then { w with xfer := some (key, 0) } else w) }

/-- LINK_ACCESS_TIMEOUT: an access that the Unulo link has held for 10 ms ends its transfer (R285). -/
def execLinkAccessTimeout (n : Nat) (s : State) : Step :=
  .next (
    let l := mapGet Link.reset s.links 18
    let held (t : Nat) : Bool := decide (max t l.since + 10000000 ≤ s.now)
    if !s.hostUp && (s.xferAt n).busy && (s.xferAt n).acc.any (fun a => a.host.any held) then s.dropHost n else s)

/-! ## Flits (R287, R288) -/

/-- A link changed. -/
def State.modLink (s : State) (n : Nat) (f : Link → Link) : State := { s with links := mapModify Link.reset s.links n f }

/-- The channel is ordered (R287). -/
def orderedChan (c : Nat) : Bool := c == 0 || c == 3

/-- A SEQ, as how far it lies before the next one to come (R287). -/
def Link.behind (l : Link) (seq : Nat) : Nat := (l.nextIn + 4096 - seq % 4096) % 4096

/-- A flit waits for an earlier SEQ of its channel, or of one not known yet (R288). -/
def Link.waitsFor (l : Link) (f : Flit) : Bool :=
  orderedChan f.chan && l.awaited.any (fun p => decide (l.behind f.seq < l.behind p.1) && p.2.all (· == f.chan))

/-- A flit put into a list in the order of the SEQs, oldest first. -/
def Link.inOrder (l : Link) (f : Flit) : List Flit → List Flit
  | [] => [f]
  | g :: gs => if l.behind g.seq < l.behind f.seq then f :: g :: gs else g :: l.inOrder f gs

/-- Held flits whose order has come are delivered, the earliest SEQ first (R288). -/
def Link.deliverHeld (l : Link) : Link :=
  let now := (l.held.filter (fun f => !l.waitsFor f)).foldr l.inOrder []
  { l with held := l.held.filter l.waitsFor, got := now.reverse ++ l.got }

/-- A good flit that has not come before is delivered, or held for its channel's order (R288). -/
def Link.accept (l : Link) (f : Flit) : Link :=
  let l := { l with awaited := l.awaited.filter (fun p => p.1 != f.seq), reply := some (f.seq, true) }
  if l.waitsFor f then { l with held := l.held ++ [f] } else { l with got := f :: l.got }.deliverHeld

/-- The SEQs up to one that has just come are known to be missing, and that one too until it is accepted. -/
def Link.upTo (l : Link) (seq chan : Nat) : Link :=
  let gap := (seq % 4096 + 4096 - l.nextIn) % 4096
  { l with
    nextIn := (seq + 1) % 4096
    awaited := l.awaited ++ (List.range gap).map (fun i => ((l.nextIn + i) % 4096, none)) ++ [(seq, some chan)] }

/-- A flit that failed its check is awaited again, and answered by a negative acknowledgement (R288). -/
def Link.refuse (l : Link) (seq chan : Nat) : Link :=
  { l with awaited := l.awaited.map (fun p => if p.1 = seq then (seq, some chan) else p), reply := some (seq, false) }

/-- A flit comes at a receiver: its check has passed or not (R288). -/
def Link.receive (l : Link) (f : Flit) (good : Bool) : Link :=
  let l := if l.behind f.seq = 0 ∨ 2048 ≤ l.behind f.seq then l.upTo f.seq f.chan else l
  if !good then l.refuse f.seq f.chan
  else if l.awaited.any (fun p => p.1 == f.seq) then l.accept f
  else { l with reply := some (f.seq, true) }

/-- An acknowledgement frees its flit (R288). -/
def Link.acked (l : Link) (seq : Nat) : Link := { l with window := l.window.filter (fun f => f.seq != seq) }

/-- Bits of a flit's payload: 234 bytes (R287). -/
def payloadBits : Nat := 8 * 234

/-- Symbol errors of a lane in the present millisecond (R286). -/
def Link.laneErrs (l : Link) (lane : Nat) : Nat := mapGet 0 l.errs lane

/-- Symbol errors that FEC corrected on some lanes are counted, in the millisecond `ms` (R286, R289). -/
def Link.countErrs (l : Link) (ms : Nat) (lanes : List Nat) : Link :=
  let l := if l.errAt = ms then l else { l with errs := [], errAt := ms }
  lanes.foldl (fun l i => { l with errs := mapModify 0 l.errs i (· + 1) }) l

/-- The data lanes on which the `n` corrected symbols of a received flit came, from the bits above its payload. -/
def Link.errLanes (l : Link) (v n : Nat) : List Nat :=
  (List.range n).map (fun i => v / 2 ^ (32 + payloadBits + 6 * i) % 64 % max 1 l.lanes)

/-- FLIT_RECEIVE: a flit comes on a link (R287, R288). Bits 11:0 of `v` are SEQ, 13:12 the channel, 14 is 1 where the CRC is right
after FEC, 15 is 1 with an acknowledgement of the SEQ in 27:16, 31:28 are the symbol errors that FEC found, and the next 1,872 bits are
the payload; six bits each above it name the lanes of those symbols. FEC corrects up to six symbols, so a flit with more fails its
check. What CRC-32 and which parity bytes a flit carries follows from codes that the spec does not give: the outcome of the check comes
with the flit (log 71). -/
def execFlitReceive (link v : Nat) (s : State) : Step :=
  .next (
    let l := mapGet Link.reset s.links link
    if 28 ≤ link || !l.up then s
    else s.modLink link (fun l =>
      let n := bits v 31 28
      let good := bit v 14 && decide (n ≤ 6)
      let l := { l with feccor := if good && n != 0 then min (l.feccor + 1) 0xFFFFFF else l.feccor }
      let l := if good then l.countErrs (s.now / 1000000) (l.errLanes v n) else l
      let l := if good && bit v 15 then l.acked (bits v 27 16) else l
      l.receive ⟨bits v 11 0, bits v 13 12, v / 2 ^ 32 % 2 ^ payloadBits, 0⟩ good))

/-- LNKCTL.RETRY as it acts (R286). -/
def State.retryLimit (s : State) : Nat := max 1 (bits s.ident.lnkctl 35 32)

/-- Retransmissions counted (R286). -/
def Link.countReplay (l : Link) (n : Nat) : Link := { l with replay := min (l.replay + n) 0xFFFFFFFF }

/-- The flits of the window that have been sent: the first 256 (R288). -/
def Link.sentFlits (l : Link) : List Flit := l.window.take 256

/-- FLIT_NAK_RECEIVE: the sender resends only the flit named, or after RETRY times retrains the link (R288). -/
def execFlitNakReceive (link v : Nat) (s : State) : Step :=
  .next (
    let l := mapGet Link.reset s.links link
    let seq := v % 4096
    match (if l.up then l.sentFlits.find? (fun f => f.seq == seq) else none) with
    | none => s
    | some f =>
      let more (l : Link) : Link := { l with window := l.window.map (fun g => if g.seq == seq then { g with sent := g.sent + 1 } else g) }
      if f.sent < s.retryLimit then s.modLink link (fun l => (more l).countReplay 1)
      else { s.modLink link more with agenda := s.agenda ++ [.linkRetrain link] })

/-! ## Retraining (R288) -/

/-- Data lanes of a link at full width: 8 for a peer port (R286); for the other links by log 4. -/
def fullLanes (n : Nat) : Nat := if n < 18 then 8 else 32

/-- The link has to retrain: a flit was resent RETRY times, or the link is narrowed or down (R288, R289). -/
def State.retrains (s : State) (n : Nat) : Bool :=
  let l := mapGet Link.reset s.links n
  decide (n < 28) && (!l.up || l.half || l.window.any (fun f => decide (s.retryLimit < f.sent)))

/-- The retrained link: full width, its window kept (R288, R289). -/
def Link.trained (l : Link) (n : Nat) : Link :=
  { l with
    up := true
    half := false
    lost := false
    lanes := fullLanes n
    failing := none
    window := l.window.map (fun f => { f with sent := 0 }) }

/-- A trained Unulo link carries the signals and the host accesses that it held, in their order (R285). -/
def State.releaseHost (s : State) : State :=
  s.firm.sigHeld.foldl (fun s p => s.writeSignal p.1 p.2) { s with
    agenda := s.agenda ++ s.firm.hostHeld.map (fun a => .hostAccess a.1 a.2.1 a.2.2)
    firm := { s.firm with hostHeld := [], sigHeld := [] } }

/-- What a link that cannot train ends: collectives with its peer, transfers over the Unulo link, or its compute die (R288). -/
def State.linkFailed (s : State) (n : Nat) : State :=
  if n < 18 then s.collects.foldl State.settleCollect s
  else if n = 18 then (s.xfers.map Prod.fst).foldl State.dropHost s
  else if n < 27 then { s with agenda := s.agenda ++ [.dieIsolation (n - 19)] }
  else s

/-- LINK_RETRAIN: the link trains again, or fails to (R288). -/
def execLinkRetrain (link : Nat) (s : State) : Step :=
  .next (if !s.retrains link then s
    else
      let ok := Config.deviceChoice s.choice % 2 = 0
      let s : State := { s with choice := s.choice + 1 }
      let s := s.modLink link (fun l => { l with retrain := min (l.retrain + 1) 0xFFFFFFFF })
      if ok then (let s := s.modLink link (fun l => l.trained link); if link = 18 then s.releaseHost else s)
      else (s.modLink link (fun l => { l with up := false, lost := false })).linkFailed link)

/-- LINK_TRAINING_LOST: what crosses the link is held until it trains again (R285). -/
def execLinkTrainingLost (link : Nat) (s : State) : Step :=
  .next (if decide (link < 28) && (mapGet Link.reset s.links link).up then
      s.modLink link (fun l => { l with up := false, lost := true, since := s.now })
    else s)

/-! ## Lane repair (R289) -/

/-- Spare lanes of a link in each direction (R286). -/
def spareLanes (n : Nat) : Nat := if n < 19 then 1 else 2

/-- The lane of a link with the most symbol errors in the present millisecond, if they pass a threshold (R286, R289). -/
def State.laneOver (s : State) (link limit : Nat) : Option Nat :=
  let l := mapGet Link.reset s.links link
  if l.errAt = s.now / 1000000 then
    (l.errs.filter (fun p => decide (limit < p.2))).foldl (fun b p => if b.any (fun i => decide (p.2 ≤ l.laneErrs i)) then b else some p.1) none
  else none

/-- LNKCTL.REPAIR and LNKCTL.DROP (R286). -/
def State.repairLimit (s : State) : Nat := bits s.ident.lnkctl 15 0
/-- LNKCTL.DROP (R286). -/
def State.dropLimit (s : State) : Nat := bits s.ident.lnkctl 31 16

/-- A spare lane takes the place of a failing lane, whose errors count no more (R289). -/
def Link.swapped (l : Link) (lane : Nat) : Link :=
  { l with spare := l.spare + 1, repairs := min (l.repairs + 1) 255, repair := none, failing := none, errs := mapSet 0 l.errs lane 0 }

/-- LANE_REPAIR_START: a lane's errors pass REPAIR. The swap comes at once, or with a replay outstanding once the window of this moment is
acknowledged (R289). -/
def execLaneRepairStart (link : Nat) (s : State) : Step :=
  .next (
    let l := mapGet Link.reset s.links link
    if 28 ≤ link || !l.up || l.half || l.repair.isSome || decide (spareLanes link ≤ l.spare) then s
    else match s.laneOver link s.repairLimit with
      | none => s
      | some lane => s.modLink link (fun l =>
        if l.sentFlits.any (fun f => f.sent != 0) then { l with repair := some (l.sentFlits.map Flit.seq), failing := some lane }
        else l.swapped lane))

/-- LANE_SPARE_SWAP: the flits that the repair waited for are acknowledged (R289). -/
def execLaneSpareSwap (link : Nat) (s : State) : Step :=
  .next (
    let l := mapGet Link.reset s.links link
    match l.repair with
    | none => s
    | some q => if l.window.any (fun f => q.contains f.seq) then s else s.modLink link (fun l => l.swapped (l.failing.getD 0)))

/-- LINK_NARROW: a lane's errors pass DROP before a swap: half width without that lane, the repair given up, the replay from the oldest
flit on (R289). -/
def execLinkNarrow (link : Nat) (s : State) : Step :=
  .next (
    let l := mapGet Link.reset s.links link
    if !l.up || l.half || (s.laneOver link s.dropLimit).isNone then s
    else s.modLink link (fun l =>
      Link.countReplay { l with
        half := true
        lanes := l.lanes / 2
        repair := none
        failing := none
        window := l.window.zipIdx.map (fun (p : Flit × Nat) => if p.2 < 256 then { p.1 with sent := max 1 p.1.sent } else p.1) }
        l.sentFlits.length))

/-! ## Die isolation (R290) -/

/-- An address lies in a scratchpad of the die. -/
def onDie (d pa : Nat) : Bool := regionOf pa == .scratch && dieOf (spCell pa) == d

/-- The write comes from the die, or goes there. -/
def PendWrite.ofDie (w : PendWrite) (d : Nat) : Bool := dieOf w.origin == d || w.bytes.any (fun p => onDie d p.1)

/-- The read comes from the die, or goes there. -/
def PendRead.ofDie (r : PendRead) (d : Nat) : Bool := dieOf r.cid == d || onDie d r.addr

/-- A dropped write leaves each of its 8-byte granules whole at home or untouched, as the device chooses (R155, R290). -/
def State.dropWrite (s : State) (w : PendWrite) : State :=
  let gs := (w.bytes.map (fun p => canonical p.1 / 8)).eraseDups
  let whole := w.bytes.filter (fun p => Config.deviceChoice (s.choice + gs.idxOf (canonical p.1 / 8)) % 2 = 1)
  { s.putHome w.key whole with choice := s.choice + gs.length, ueMem := s.healed whole }

/-- A transfer of another die without its accesses to the die. -/
def Xfer.offDie (x : Xfer) (d : Nat) : Xfer := { x with acc := x.acc.filter (fun a => !a.src.any (onDie d)) }

/-- Accesses that the isolation drops: writes, reads, and those of the die's engines (R290). -/
def State.droppedBy (s : State) (d : Nat) : Nat :=
  s.writes.countP (fun w => w.ofDie d) + s.reads.countP (fun r => r.ofDie d)
    + (s.xfers.map (fun p => if dieOf p.2.eng == d then p.2.acc.countP (fun a => a.phase == 0)
        else p.2.acc.countP (fun a => a.phase == 0 && a.src.any (onDie d)))).foldl (· + ·) 0

/-- Everything in flight to or from the die is dropped (R175, R290). -/
def State.dropDie (s : State) (d : Nat) : State :=
  let gone := s.writes.filter (fun w => w.ofDie d)
  let lost (key n : Nat) : Bool := gone.any (fun w => w.xfer == some (key, n))
  let s := gone.foldl State.dropWrite s
  { s with
    writes := s.writes.filter (fun w => !w.ofDie d)
    reads := s.reads.filter (fun r => !r.ofDie d)
    fences := s.fences.filter (fun f => dieOf f.cid != d)
    from_ := s.from_.filter (fun f => dieOf f.cid != d)
    mat := s.mat.filter (fun m => dieOf m.owner != d && dieOf m.eng != d)
    collects := s.collects.filter (fun m => dieOf m.owner != d)
    xfers := (s.xfers.filter (fun p => !p.2.busy || (dieOf p.2.eng != d && dieOf p.2.owner != d))).map (fun p =>
      let x := p.2.offDie d
      (p.1, { x with acc := x.acc.filter (fun a => !lost p.1 a.n) })) }

/-- The holders of the die acknowledge an INVR that waits on them, with ISO; of the accesses that it waited for there, DRAIN counts
those that have performed (R111, R290). -/
def State.isolateInvr (s : State) (d : Nat) (q : Invr) : Invr :=
  let here := q.wait.filter (fun p => holderDie p.1 == d)
  { q with
    wait := q.wait.filter (fun p => holderDie p.1 != d)
    drain := q.drain + (here.map (fun p => p.2.countP (fun a => !s.stillFlying a))).foldl (· + ·) 0
    iso := q.iso || !here.isEmpty }

/-- ERROR of a team with a cell on an isolated die. -/
def errorIsolated : Nat := errorCode 0x0F 1 none

/-- A team with a cell on the die ends with LK ISOLATED, its cells on other dies force-stopped (R208, R290). -/
def State.isolateTeam (s : State) (t : Team) : State :=
  match t.state with
  | .resident => s.stopTeam t 2 errorIsolated flagStopped
  | .leaving => s.stopTeam t 2 errorIsolated flagStopped
  | .loading => (s.freeCells t).modTeam t.id (fun t => { t.abandon s.now errorIsolated with flags := addFlags (t.abandon s.now 0).flags flagStopped })
  | .loaded => (s.freeCells t).modTeam t.id (fun t => { t.abandon s.now errorIsolated with flags := addFlags (t.abandon s.now 0).flags flagStopped })
  | _ => s

/-- A cell of the die in reset: nothing of it runs, and what its team had there is lost (R290). -/
def Core.inReset (k : Core) (held : Bool) : Core := { k.vacate with st := if held then .stopped else .free }

/-- The cells of the die enter reset. -/
def State.resetCells (s : State) (d : Nat) : State :=
  (cellsOfDie d).foldl (fun s c => s.modCore c (fun k => k.inReset (s.teamOf c).isSome)) s

/-- A migration of the team has its source or its target on the die: the reset ends the team at once (R226). -/
def State.movesOver (s : State) (d : Nat) (t : Team) : Bool :=
  s.sched.migs.any (fun m => m.team == t.id && (dieOf m.source == d || dieOf m.target == d))

/-- Migrations to or from the die end without a move; the forced stop of the team finds a source elsewhere at its boundary. -/
def State.endMigrations (s : State) (d : Nat) : State :=
  let here (m : Migration) : Bool := dieOf m.source == d || dieOf m.target == d
  let s := (s.sched.migs.filter (fun m => here m && dieOf m.source != d)).foldl (fun s m =>
    s.modCore m.source (fun k => { k with st := .run })) s
  { s with
    cores := mapAll Core.reset s.cores (fun _ k => if k.migReq.any (fun b => dieOf b == d) then { k with migReq := none } else k)
    sched := { s.sched with migs := s.sched.migs.filter (fun m => !here m), retry := s.sched.retry.filter (fun c => dieOf c != d) } }

/-- The isolation of a compute die (R290). -/
def State.isolate (s : State) (d : Nat) : State :=
  let n := s.droppedBy d
  let s : State := { s with
    invrs := s.invrs.map (s.isolateInvr d)
    ident := { s.ident with
      fenced := d :: s.ident.fenced
      gated := setBits s.ident.gated d d 1
      isorec := d + 8 + min n 0xFFFFFFF * 16 }
    power := { s.power with
      ramp := s.power.ramp.filter (fun r => r.1 != d)
      gatedBy := s.power.gatedBy.filter (· != d)
      needed := s.power.needed.filter (· != d)
      sampled := s.power.sampled.filter (fun c => dieOf c != d) }
    sched := { s.sched with clearing := s.sched.clearing.filter (fun c => dieOf c != d) } }
  let hit := s.sched.teams.filter (fun t => t.holds && (t.cells.any (fun c => dieOf c == d) || s.movesOver d t))
  let s := hit.foldl State.isolateTeam (s.endMigrations d)
  (s.dropDie d).resetCells d

/-- DIE_ISOLATION: a compute die enters reset (R290). -/
def execDieIsolation (die : Nat) (s : State) : Step :=
  .next (if decide (die < 8) && bit s.ident.dieok die && !s.ident.fenced.contains die then s.isolate die else s)

end Sys2Proof.Machine
end

