-- ==== Sys2Proof/Machine/Boot.lean ====
section
/-!
DEFINITION. Machine/Boot.lean: power-on (R25), thermal samples (R21, R224), the emergency save and the trip journal (R262, R263), the
hard trip and the loss of input power (R228, R263).
-/
namespace Sys2Proof.Machine

/-! ## The trip journal (R263) -/

/-- First address of the trip journal. -/
def journalBase : Nat := 0x20000000000

/-- A team's entry of the journal, at its offset. -/
def journalEntry (i : Nat) (t : Team) : List Piece :=
  let o := 2112 + 48 * i
  [(o, 2, t.asid), (o + 2, 2, t.queue), (o + 4, 2, t.size), (o + 6, 2, t.flags), (o + 8, 8, t.sigAddr), (o + 16, 8, t.value),
    (o + 24, 8, t.started), (o + 32, 8, t.hamper)]

/-- The teams that the journal lists: those whose signal is still to come. -/
def State.journalTeams (s : State) : List Team := (s.sched.teams.filter (fun t => t.state != .closed)).take 1024

/-- What `noted` holds of a team. -/
def Team.note (t : Team) : Nat × TeamState × Nat := (t.id, t.state, t.hamper)

/-- The trip journal written (R262, R263): its body, then its header. -/
def State.writeJournal (s : State) : State :=
  let ts := s.journalTeams
  let slots : List Piece := (List.range 256).map (fun i => (64 + 8 * i, 8, (mapGet 0 s.sched.cx i).toNat))
  let body := slots ++ ts.zipIdx.flatMap (fun p => journalEntry p.2 p.1)
  let t := s.writeRun journalBase 65536 (body.flatMap pieceBytes) none
  let digest := sha256 (t.bytesUnder journalBase none 64 65536)
  let head : List Piece := [(0, 4, 0x4A524E4C), (4, 2, 1), (6, 2, ts.length), (8, 8, s.now), (16, 8, s.sched.qtbase)]
  let t := t.writeRun journalBase 64 (head.flatMap pieceBytes ++ digest.zipIdx.map (fun p => (32 + p.2, BitVec.ofNat 8 p.1))) none
  { t with power := { t.power with noted := ts.map Team.note } }

/-- The journal is written again where a team's state has changed while a sample is at or above SAVE (R262). -/
def State.rejournal (s : State) : State :=
  if s.tooHot && s.power.noted != s.journalTeams.map Team.note then s.writeJournal else s

/-- The journal is valid: MAGIC, VER and DIGEST are correct, and no uncorrectable error lies in it (R263). -/
def State.journalValid (s : State) : Bool :=
  s.homeNat journalBase 4 == 0x4A524E4C && s.homeNat (journalBase + 4) 2 == 1 && decide (s.homeNat (journalBase + 6) 2 ≤ 1024)
    && !s.ueMem.any (fun d => inRun journalBase 65536 (8 * d))
    && sha256 (s.bytesUnder journalBase none 64 65536) == s.bytesUnder journalBase none 32 64

/-! ## Losing power (R228, R263) -/

/-- The module without power: what stands in self-refresh or in the on-package stores stays, and so does host memory. -/
def State.dark (s : State) (keep : Nat → Bool) (teams : List Team) : State :=
  { State.reset with
    mem := s.mem.filter (fun p => keep p.1)
    ueMem := s.ueMem.filter (fun d => keep (8 * d))
    images := s.images.filter (fun p => keep p.1)
    choice := s.choice
    sched := { Sched.reset with teams := teams, nextId := s.sched.nextId, deep := if teams.isEmpty then [] else s.sched.deep }
    power := { Power.reset with powered := false, cseq := s.power.cseq, anchors := s.power.anchors }
    firm := { Firm.reset with svnmin := s.firm.svnmin, sigLeft := s.firm.sigLeft } }

/-- HARD_TRIP: every domain is cut, HBM4 and the park tier keep their contents in self-refresh (R263). -/
def State.hardTrip (s : State) : State :=
  let t := s.dark (fun pa => regionOf pa == .hbm || regionOf pa == .park || regionOf pa == .host) (s.sched.teams.filter (fun t => t.state != .closed))
  { t with power := { t.power with tripped := true } }

/-- INPUT_POWER_LOSS: the memories lose their contents too (R263). -/
def execInputPowerLoss (s : State) : Step := .next (s.dark (fun pa => regionOf pa == .host) [])

/-! ## Thermal samples (R21, R224, R225, R262) -/

/-- TRIP in quarter degrees (R262). -/
def tripTemp : Nat := 4 * 115

/-- EMERGENCY_SAVE of a die: the journal is written, every team with a cell on it is parked, and the die is to gate (R262). -/
def State.emergencySave (s : State) (d : Nat) : State :=
  let s : State := { s with power := { s.power with saving := true, hot := if s.power.hot.contains d then s.power.hot else s.power.hot ++ [d] } }
  (s.writeJournal.sched.teams.filter (fun t => t.holds && t.cells.any (fun c => dieOf c == d))).foldl
    (fun s t => s.parkTeam t.id .emergency) s.writeJournal

/-- A sample at SAVE has something to save: the die is not to gate yet, or a team with a cell on it is not being parked for it (R262). -/
def State.toSave (s : State) (d : Nat) : Bool :=
  !s.power.hot.contains d || s.sched.teams.any (fun t => t.holds && t.cells.any (fun c => dieOf c == d)
    && t.state != .ending && !(t.state == .leaving && t.dep == .emergency))

/-- A sample is taken in: CELLTEMP of its cell, and since when every sample is cool (R21, R224, R225, R262). -/
def State.takeSample (s : State) (cid sample : Nat) : State :=
  let s : State := { s with power := { s.power with temps := mapSet 0 s.power.temps cid sample } }
  let cool := !s.power.temps.any (fun p => decide (4 * s.power.thsave - 20 ≤ p.2))
  let s : State := { s with power := { s.power with below := if !cool then 0 else if s.power.below = 0 then max 1 s.now else s.power.below } }
  if 1024 ≤ cid then s
  else
    let d := dieOf cid
    let live := !bit s.ident.gated d && s.power.ramp.all (fun r => r.1 != d)
    let s := s.modCore cid (fun k => { k with celltemp := word (sample % 1024) })
    { s with power := { s.power with
      sampled := if live && !s.power.sampled.contains cid then s.power.sampled ++ [cid] else s.power.sampled } }

/-- THERMAL_SAMPLE (R21): sensors 0 to 1,023 are the cells', 1,024 to 1,039 the HBM4 stacks'. A sample at TRIP cuts the power, a
cell's at SAVE starts the emergency save of its die, and one at THMIG.TH asks for a migration (R225, R262, R263). -/
def execThermalSample (cid sample : Nat) (s : State) : Step :=
  .next (if 1040 ≤ cid || !s.ident.booted then s
    else
      let s := s.takeSample cid sample
      if tripTemp ≤ sample then s.hardTrip
      else if 1024 ≤ cid then s
      else
        let s := if 4 * s.power.thsave ≤ sample && s.toSave (dieOf cid) then s.emergencySave (dieOf cid) else s
        s.triggerMigration cid true)

/-- EMERGENCY_SAVE_CLEAR: every sample has been below SAVE − 5 °C for 10 ms; MAGIC is cleared, and parked teams may resume (R262). -/
def execEmergencySaveClear (s : State) : Step :=
  .next (if s.power.saving && s.power.below != 0 && decide (s.power.below + 10000000 ≤ s.now) then
      { s.storePlain journalBase 4 0 with power := { s.power with saving := false, hot := [], noted := [] } }
    else s)

/-! ## Power-on (R25) -/

/-- An image on the package (R25, R274). -/
def bootImageOf (role : Nat) : Image :=
  let f := Config.bootImage role
  ⟨f 0 % 2 ^ 16, f 1 % 2 ^ 16, f 2 % 2 ^ 32, f 3 % 2 ^ 32, (List.range 32).map (Config.bootDigest role), 0,
    (List.range (f 4 % 196609)).map (Config.bootBody role)⟩

/-- Step 2: each image is checked and measured; an image that fails, or whose SVN lies below SVNMIN, is not run. The stoker of the role and
the standby stokers load it (R25, R274). -/
def State.bootRole (s : State) (pass : Bool) (role : Nat) : State :=
  let img := bootImageOf role
  let s := s.measure role img
  if pass && decide (mapGet 0 s.firm.svnmin role ≤ img.svn) then
    [role, 3, 4, 5].foldl (fun s n => s.loadImage n img) { s with firm := { s.firm with images := mapSet Image.none s.firm.images role img } }
  else { s with firm := { s.firm with role := s.firm.role.filter (fun p => p.2 != role), dead := s.firm.dead ++ [role] } }

/-- Step 4: stacks that fail are left out of the map (R25). -/
def State.trainMemory (s : State) (hbm park : Nat) : State :=
  { s with ident := { s.ident with hbmok := hbm % 65536, parksize := park % 33 } }

/-- Step 5: dies and mantles that pass their self-test (R25). -/
def State.testDies (s : State) (dies mantles : Nat) : State :=
  let ok := dies % 256
  ({ s with
    ident := { s.ident with dieok := ok, mantle := mantles % 256, gated := 255 - ok } }.setMantle (mantles % 256)).writeCosts

/-- Links as the fabric stoker trains them (R25, R286): the Unulo link, the die links of the dies that work, the base-to-base link,
and the peer ports with what answers there. -/
def State.trainLinks (s : State) (ports dies : Nat) (dev : Nat → Nat) : State :=
  { s with links := mapSetAll Link.reset s.links ((List.range 28).map (fun n =>
      let up := if n < 18 then bit ports n else if n < 19 || n = 27 then true else bit dies (n - 19)
      (n, { Link.reset with up := up, lanes := if up then fullLanes n else 0, peerdev := if n < 18 && up then dev n % 1024 else 0 }))) }

/-- The parts of a team that survive no power-off. -/
def Team.afterTrip (t : Team) : Team :=
  { t with cells := [], homes := [], fault := none, asked := 0, aged := 0, allot := 0, settled := 0, spent := 0, parked := 0 }

/-- A team that a hard trip ends (R263). -/
def Team.endTripped (t : Team) (now error : Nat) : Team :=
  { t with
    state := .ended
    error := error
    flags := addFlags t.flags (flagStopped + if t.started = 0 then flagAbandoned else 0)
    ended := now
    saved := []
    hamper := 0 }

/-- A listed team with a valid hamper is parked until its key slots are loaded again, unless no die serves it; any other one ends with
CL HARDTRIP (R263). -/
def State.afterTrip (s : State) (t : Team) : Team :=
  let t := t.afterTrip
  if t.hamper != 0 && s.hamperValid t.hamper then
    if s.placeable t t.size then
      { t with
        state := .out
        dep := if s.imageNat t.hamper s.hamperKey 6 1 = 2 then .emergency else .park
        reloadWait := true }
    else
      t.endTripped s.now (errorCode 0x0C 1 none)
  else t.endTripped s.now (errorCode 0x11 0 none)

/-- The saved cells that a hamper of `n` cells holds, by LID (R248). -/
def State.hamperCells (s : State) (pa n : Nat) : SMap (Option SavedCell) :=
  ((List.range n).foldl (fun (r : SMap (Option SavedCell) × Nat) l =>
    let len := s.imageNat r.2 s.hamperKey 16 4
    (mapSet none r.1 l (some (s.imageAt r.2 s.hamperKey l len)), r.2 + partSize len)) ([], pa + 4096)).1

/-- The team of a journal entry, as the entry has it: START, FLAGS and hamper as they stood when the journal was last written, and the point
and the cells that the hamper holds (R248, R263). -/
def State.listedTeam (s : State) (i : Nat) : Option Team :=
  let rd (o n : Nat) : Nat := s.homeNat (journalBase + 2112 + 48 * i + o) n
  (s.sched.teams.find? (fun t => t.asid == rd 0 2 && t.queue == rd 2 2 && t.sigAddr == rd 8 8 && t.value == rd 16 8
    && (rd 24 8 == 0 || t.started == rd 24 8))).map (fun t =>
      let h := rd 32 8
      let t := if h = t.hamper then t
        else if s.hamperValid h then
          { t.atPoint (s.imageNat h s.hamperKey 7 1) with saved := s.hamperCells h (s.imageNat h s.hamperKey 8 2) }
        else { t with saved := [] }
      { t with hamper := h, started := rd 24 8, flags := rd 6 2 })

/-- The journal read after a hard trip (R263): the context slots, QTBASE and the listed teams are restored. -/
def State.restoreJournal (s : State) : State :=
  let s : State := { s with ident := { s.ident with hardtrip := s.power.tripped } }
  if !s.journalValid then { s with sched := { s.sched with teams := [], deep := [] } }
  else
    let cx := mapSetAll 0 [] ((List.range 256).map (fun i => (i, word (s.homeNat (journalBase + 64 + 8 * i) 8))))
    let s : State := { s with
      ident := { s.ident with hardtrip := true }
      sched := { s.sched with cx := cx, qtbase := s.homeNat (journalBase + 16) 8 }
      power := { s.power with saving := true } }
    let l := ((List.range (s.homeNat (journalBase + 6) 2)).filterMap s.listedTeam).map s.afterTrip
    { s with sched := { s.sched with teams := l } }

/-- The steps of R25 from power-on. -/
def State.boot (s : State) : State :=
  let o (i : Nat) : Nat := Config.bootOutcome (s.choice + i)
  let s : State := { s.dark (fun _ => true) s.sched.teams with power := { Power.reset with cseq := s.power.cseq, anchors := s.power.anchors, tripped := s.power.tripped } }
  let s := (List.range 3).foldl (fun s r => s.bootRole (decide (o r % 2 = 0)) r) { s with choice := s.choice + 64 }
  let s : State := { s with
    ident := { s.ident with booted := true }
    sched := { s.sched with key := mapSet none s.sched.key 127 (some (Config.hamperKey % 2 ^ 512)) } }
  if (s.roleStoker 0).isNone then
    { s with ident := { s.ident with bootfail := true }, firm := { s.firm with dead := List.range 6 } }
  else
    let s := ((s.trainMemory (o 3) (o 4)).testDies (o 5) (o 6)).restoreJournal
    let s := s.trainLinks (o 7) s.ident.dieok (fun n => o (8 + n))
    { s with ident := { s.ident with fwver := (s.roleImage 0).version, ready := true }
             power := { s.power with tripped := false } }

/-- POWER_ON_RESET (R25): a module that is off, or that has just had its supplies restored, goes through its steps. -/
def execPowerOnReset (s : State) : Step :=
  .next (if s.ident.booted && s.power.powered then s else s.boot)

end Sys2Proof.Machine
end

