-- ==== Sys2Proof/Machine/Dispatch.lean ====
section
/-!
DEFINITION. Machine/Dispatch.lean: one arm for each constructor of `Instr`, each a call of the meaning of its own.
-/
namespace Sys2Proof.Machine

def exec (i : Instr) (s : State) : Host.Outcome State Fault Refusal :=
  match i with
  | .nopCtl => Sys2Proof.Machine.execNopCtl s
  | .br cnd c tgt => Sys2Proof.Machine.execBr cnd c tgt s
  | .bri cnd c b => Sys2Proof.Machine.execBri cnd c b s
  | .call d tgt => Sys2Proof.Machine.execCall d tgt s
  | .ret a => Sys2Proof.Machine.execRet a s
  | .loopReg a e => Sys2Proof.Machine.execLoopReg a e s
  | .loopImm n e => Sys2Proof.Machine.execLoopImm n e s
  | .lbrk => Sys2Proof.Machine.execLbrk s
  | .halt => Sys2Proof.Machine.execHalt s
  | .wait ldl stl cpl tll => Sys2Proof.Machine.execWait ldl stl cpl tll s
  | .waitpred => Sys2Proof.Machine.execWaitpred s
  | .handoff => Sys2Proof.Machine.execHandoff s
  | .yield => Sys2Proof.Machine.execYield s
  | .trap code => Sys2Proof.Machine.execTrap code s
  | .eret => Sys2Proof.Machine.execEret s
  | .drain ord scp => Sys2Proof.Machine.execDrain ord scp s
  | .bar scp => Sys2Proof.Machine.execBar scp s
  | .release a => Sys2Proof.Machine.execRelease a s
  | .ctxs a b => Sys2Proof.Machine.execCtxs a b s
  | .ctxr a b => Sys2Proof.Machine.execCtxr a b s
  | .nopS => Sys2Proof.Machine.execNopS s
  | .addSr d a b t => Sys2Proof.Machine.execAddSr d a b t s
  | .addSi d a imm => Sys2Proof.Machine.execAddSi d a imm s
  | .subSr d a b t => Sys2Proof.Machine.execSubSr d a b t s
  | .subSi d a imm => Sys2Proof.Machine.execSubSi d a imm s
  | .mulSr d a b t => Sys2Proof.Machine.execMulSr d a b t s
  | .mulSi d a imm => Sys2Proof.Machine.execMulSi d a imm s
  | .mulh d a b t => Sys2Proof.Machine.execMulh d a b t s
  | .div d a b t => Sys2Proof.Machine.execDiv d a b t s
  | .rem d a b t => Sys2Proof.Machine.execRem d a b t s
  | .andSr d a b t => Sys2Proof.Machine.execAndSr d a b t s
  | .andSi d a imm => Sys2Proof.Machine.execAndSi d a imm s
  | .orSr d a b t => Sys2Proof.Machine.execOrSr d a b t s
  | .orSi d a imm => Sys2Proof.Machine.execOrSi d a imm s
  | .xorSr d a b t => Sys2Proof.Machine.execXorSr d a b t s
  | .xorSi d a imm => Sys2Proof.Machine.execXorSi d a imm s
  | .andnSr d a b t => Sys2Proof.Machine.execAndnSr d a b t s
  | .andnSi d a imm => Sys2Proof.Machine.execAndnSi d a imm s
  | .shlSr d a b t => Sys2Proof.Machine.execShlSr d a b t s
  | .shlSi d a imm => Sys2Proof.Machine.execShlSi d a imm s
  | .shrSr d a b t => Sys2Proof.Machine.execShrSr d a b t s
  | .shrSi d a imm => Sys2Proof.Machine.execShrSi d a imm s
  | .sraSr d a b t => Sys2Proof.Machine.execSraSr d a b t s
  | .sraSi d a imm => Sys2Proof.Machine.execSraSi d a imm s
  | .clz d a t => Sys2Proof.Machine.execClz d a t s
  | .popc d a t => Sys2Proof.Machine.execPopc d a t s
  | .minSr d a b t => Sys2Proof.Machine.execMinSr d a b t s
  | .minSi d a imm => Sys2Proof.Machine.execMinSi d a imm s
  | .maxSr d a b t => Sys2Proof.Machine.execMaxSr d a b t s
  | .maxSi d a imm => Sys2Proof.Machine.execMaxSi d a imm s
  | .cmpSc d a b cnd => Sys2Proof.Machine.execCmpSc d a b cnd s
  | .cmpSci d a cnd imm => Sys2Proof.Machine.execCmpSci d a cnd imm s
  | .sel d a b c => Sys2Proof.Machine.execSel d a b c s
  | .movSm d a k => Sys2Proof.Machine.execMovSm d a k s
  | .movSwi d imm => Sys2Proof.Machine.execMovSwi d imm s
  | .movh d imm => Sys2Proof.Machine.execMovh d imm s
  | .ext d a pos len => Sys2Proof.Machine.execExt d a pos len s
  | .ins d a pos len => Sys2Proof.Machine.execIns d a pos len s
  | .ld d a sz sx ord scp g => Sys2Proof.Machine.execLd d a sz sx ord scp g s
  | .st d a sz ord scp g => Sys2Proof.Machine.execSt d a sz ord scp g s
  | .amo d a aop w ord scp => Sys2Proof.Machine.execAmo d a aop w ord scp s
  | .cas d a w ords ordf scp => Sys2Proof.Machine.execCas d a w ords ordf scp s
  | .tagl d a => Sys2Proof.Machine.execTagl d a s
  | .tags a b => Sys2Proof.Machine.execTags a b s
  | .tagi a => Sys2Proof.Machine.execTagi a s
  | .mfsr d sys => Sys2Proof.Machine.execMfsr d sys s
  | .mtsr a sys => Sys2Proof.Machine.execMtsr a sys s
  | .qpoll d a => Sys2Proof.Machine.execQpoll d a s
  | .sigw a b => Sys2Proof.Machine.execSigw a b s
  | .nopCfg => Sys2Proof.Machine.execNopCfg s
  | .sfmtReg a => Sys2Proof.Machine.execSfmtReg a s
  | .sfmtField fld val => Sys2Proof.Machine.execSfmtField fld val s
  | .sscl a grp => Sys2Proof.Machine.execSscl a grp s
  | .sunf a b => Sys2Proof.Machine.execSunf a b s
  | .sswzReg a => Sys2Proof.Machine.execSswzReg a s
  | .sswzImm v => Sys2Proof.Machine.execSswzImm v s
  | .sapxKnob qk => Sys2Proof.Machine.execSapxKnob qk s
  | .sapxExplicit ovs ndig theta => Sys2Proof.Machine.execSapxExplicit ovs ndig theta s
  | .sbind e sl => Sys2Proof.Machine.execSbind e sl s
  | .sskew k sl => Sys2Proof.Machine.execSskew k sl s
  | .sslk xfr mat vec => Sys2Proof.Machine.execSslk xfr mat vec s
  | .nopVec => Sys2Proof.Machine.execNopVec s
  | .vadd f => Sys2Proof.Machine.execVadd f s
  | .vsub f => Sys2Proof.Machine.execVsub f s
  | .vmul f => Sys2Proof.Machine.execVmul f s
  | .vfma f => Sys2Proof.Machine.execVfma f s
  | .vdiv f => Sys2Proof.Machine.execVdiv f s
  | .vsqrt f => Sys2Proof.Machine.execVsqrt f s
  | .vrsq f => Sys2Proof.Machine.execVrsq f s
  | .vexp f => Sys2Proof.Machine.execVexp f s
  | .vmin f => Sys2Proof.Machine.execVmin f s
  | .vmax f => Sys2Proof.Machine.execVmax f s
  | .vabs f => Sys2Proof.Machine.execVabs f s
  | .vneg f => Sys2Proof.Machine.execVneg f s
  | .vcmp f => Sys2Proof.Machine.execVcmp f s
  | .vthr f => Sys2Proof.Machine.execVthr f s
  | .vsel f => Sys2Proof.Machine.execVsel f s
  | .vand f => Sys2Proof.Machine.execVand f s
  | .vor f => Sys2Proof.Machine.execVor f s
  | .vxor f => Sys2Proof.Machine.execVxor f s
  | .vshl f => Sys2Proof.Machine.execVshl f s
  | .vshr f => Sys2Proof.Machine.execVshr f s
  | .vcvt f => Sys2Proof.Machine.execVcvt f s
  | .vqnt f => Sys2Proof.Machine.execVqnt f s
  | .vamax f => Sys2Proof.Machine.execVamax f s
  | .vred f => Sys2Proof.Machine.execVred f s
  | .vmov f => Sys2Proof.Machine.execVmov f s
  | .vbcst f => Sys2Proof.Machine.execVbcst f s
  | .vperm f => Sys2Proof.Machine.execVperm f s
  | .vidx f => Sys2Proof.Machine.execVidx f s
  | .vld f => Sys2Proof.Machine.execVld f s
  | .vst f => Sys2Proof.Machine.execVst f s
  | .vgth f => Sys2Proof.Machine.execVgth f s
  | .vsct f => Sys2Proof.Machine.execVsct f s
  | .nopMat => Sys2Proof.Machine.execNopMat s
  | .mma f => Sys2Proof.Machine.execMma f s
  | .mmas f => Sys2Proof.Machine.execMmas f s
  | .mzero tl tok => Sys2Proof.Machine.execMzero tl tok s
  | .mldacc f => Sys2Proof.Machine.execMldacc f s
  | .mstacc f => Sys2Proof.Machine.execMstacc f s
  | .mrdacc f => Sys2Proof.Machine.execMrdacc f s
  | .mabort tl tok => Sys2Proof.Machine.execMabort tl tok s
  | .nopXfr => Sys2Proof.Machine.execNopXfr s
  | .xstart xs dr rofs str tok => Sys2Proof.Machine.execXstart xs dr rofs str tok s
  | .xstep xs n tok => Sys2Proof.Machine.execXstep xs n tok s
  | .xkill xs => Sys2Proof.Machine.execXkill xs s
  | .xgath dr gofs tok => Sys2Proof.Machine.execXgath dr gofs tok s
  | .xcoll dr gofs tok => Sys2Proof.Machine.execXcoll dr gofs tok s
  | .xskew d => Sys2Proof.Machine.execXskew d s
  | .rawait d hofs j => Sys2Proof.Machine.execRawait d hofs j s
  | .rrel hofs n => Sys2Proof.Machine.execRrel hofs n s
  | .invr d a v l => Sys2Proof.Machine.execInvr d a v l s
  | .powerOnReset => Sys2Proof.Machine.execPowerOnReset s
  | .thermalSample cid sample => Sys2Proof.Machine.execThermalSample cid sample s
  | .emergencySaveClear => Sys2Proof.Machine.execEmergencySaveClear s
  | .damperTick p => Sys2Proof.Machine.execDamperTick p s
  | .railLevelStep => Sys2Proof.Machine.execRailLevelStep s
  | .bucketRefill => Sys2Proof.Machine.execBucketRefill s
  | .bucketSettle cid => Sys2Proof.Machine.execBucketSettle cid s
  | .curveSubmit v => Sys2Proof.Machine.execCurveSubmit v s
  | .curveVerify => Sys2Proof.Machine.execCurveVerify s
  | .curveTakeover => Sys2Proof.Machine.execCurveTakeover s
  | .curvePoint => Sys2Proof.Machine.execCurvePoint s
  | .curveExpire => Sys2Proof.Machine.execCurveExpire s
  | .utcofsWrite v => Sys2Proof.Machine.execUtcofsWrite v s
  | .parkYieldLimit team => Sys2Proof.Machine.execParkYieldLimit team s
  | .hamperWrite team => Sys2Proof.Machine.execHamperWrite team s
  | .deepPark team => Sys2Proof.Machine.execDeepPark team s
  | .dieGatingRamp die => Sys2Proof.Machine.execDieGatingRamp die s
  | .dieUngatingRamp die => Sys2Proof.Machine.execDieUngatingRamp die s
  | .dieRampEnd die => Sys2Proof.Machine.execDieRampEnd die s
  | .droopEvent die => Sys2Proof.Machine.execDroopEvent die s
  | .droopSignatureMatch die => Sys2Proof.Machine.execDroopSignatureMatch die s
  | .prethrottleEnd die => Sys2Proof.Machine.execPrethrottleEnd die s
  | .timingErrorReplay cid => Sys2Proof.Machine.execTimingErrorReplay cid s
  | .minorFrame => Sys2Proof.Machine.execMinorFrame s
  | .loadPhaseDone team => Sys2Proof.Machine.execLoadPhaseDone team s
  | .teamFirstCycle team => Sys2Proof.Machine.execTeamFirstCycle team s
  | .teamEnd team => Sys2Proof.Machine.execTeamEnd team s
  | .qctlEnable q => Sys2Proof.Machine.execQctlEnable q s
  | .qctlDestroy q => Sys2Proof.Machine.execQctlDestroy q s
  | .qctlClearSticky q => Sys2Proof.Machine.execQctlClearSticky q s
  | .qctlNoAction q => Sys2Proof.Machine.execQctlNoAction q s
  | .queueDestroyFinish q => Sys2Proof.Machine.execQueueDestroyFinish q s
  | .qdbWrite q v => Sys2Proof.Machine.execQdbWrite q v s
  | .swapOut team => Sys2Proof.Machine.execSwapOut team s
  | .ccmdFstop cid v => Sys2Proof.Machine.execCcmdFstop cid v s
  | .ccmdYset cid => Sys2Proof.Machine.execCcmdYset cid s
  | .ccmdYclr cid => Sys2Proof.Machine.execCcmdYclr cid s
  | .ccmdMset cid v => Sys2Proof.Machine.execCcmdMset cid v s
  | .ccmdMclr cid => Sys2Proof.Machine.execCcmdMclr cid s
  | .srimgWrite cid reg v => Sys2Proof.Machine.execSrimgWrite cid reg v s
  | .forcedStop cid => Sys2Proof.Machine.execForcedStop cid s
  | .stopLands cid => Sys2Proof.Machine.execStopLands cid s
  | .faultTeamEnd team => Sys2Proof.Machine.execFaultTeamEnd team s
  | .asyncFaultReport cid => Sys2Proof.Machine.execAsyncFaultReport cid s
  | .holdLimit cid => Sys2Proof.Machine.execHoldLimit cid s
  | .yieldLands cid => Sys2Proof.Machine.execYieldLands cid s
  | .forcedEpilogue cid => Sys2Proof.Machine.execForcedEpilogue cid s
  | .yieldLimit team => Sys2Proof.Machine.execYieldLimit team s
  | .sliceExpiry team => Sys2Proof.Machine.execSliceExpiry team s
  | .migrationLands cid => Sys2Proof.Machine.execMigrationLands cid s
  | .migrationComplete cid => Sys2Proof.Machine.execMigrationComplete cid s
  | .lateOperationStart cid slot => Sys2Proof.Machine.execLateOperationStart cid slot s
  | .waitEnd cid => Sys2Proof.Machine.execWaitEnd cid s
  | .holdEnd cid => Sys2Proof.Machine.execHoldEnd cid s
  | .operationResultWrite cid => Sys2Proof.Machine.execOperationResultWrite cid s
  | .ephLaneDecide cid lane => Sys2Proof.Machine.execEphLaneDecide cid lane s
  | .matOperationBegin cid => Sys2Proof.Machine.execMatOperationBegin cid s
  | .kStepWrite cid => Sys2Proof.Machine.execKStepWrite cid s
  | .transferMoveStart key => Sys2Proof.Machine.execTransferMoveStart key s
  | .transferAccessDone key n => Sys2Proof.Machine.execTransferAccessDone key n s
  | .pageWalk holder => Sys2Proof.Machine.execPageWalk holder s
  | .transferComplete key => Sys2Proof.Machine.execTransferComplete key s
  | .ringSlotReserve key => Sys2Proof.Machine.execRingSlotReserve key s
  | .ringWptrAdvance key => Sys2Proof.Machine.execRingWptrAdvance key s
  | .collectiveArrival n => Sys2Proof.Machine.execCollectiveArrival n s
  | .collectiveComplete n => Sys2Proof.Machine.execCollectiveComplete n s
  | .invrHolderAck stk holder => Sys2Proof.Machine.execInvrHolderAck stk holder s
  | .invrComplete stk => Sys2Proof.Machine.execInvrComplete stk s
  | .writeAdvance n => Sys2Proof.Machine.execWriteAdvance n s
  | .remoteReadPerform n => Sys2Proof.Machine.execRemoteReadPerform n s
  | .atomicExecute n => Sys2Proof.Machine.execAtomicExecute n s
  | .accessHoldRelease cid => Sys2Proof.Machine.execAccessHoldRelease cid s
  | .barrierComplete cid scp => Sys2Proof.Machine.execBarrierComplete cid scp s
  | .keydatWrite k v => Sys2Proof.Machine.execKeydatWrite k v s
  | .keyctlLoad v => Sys2Proof.Machine.execKeyctlLoad v s
  | .keyctlEmpty v => Sys2Proof.Machine.execKeyctlEmpty v s
  | .keySlotUpdate => Sys2Proof.Machine.execKeySlotUpdate s
  | .fwSubmit v => Sys2Proof.Machine.execFwSubmit v s
  | .handoverStage => Sys2Proof.Machine.execHandoverStage s
  | .handoverQuiesce => Sys2Proof.Machine.execHandoverQuiesce s
  | .handoverAdopt => Sys2Proof.Machine.execHandoverAdopt s
  | .handoverConfirm => Sys2Proof.Machine.execHandoverConfirm s
  | .fallBack => Sys2Proof.Machine.execFallBack s
  | .heartbeatCheck => Sys2Proof.Machine.execHeartbeatCheck s
  | .roleMoveTakeover => Sys2Proof.Machine.execRoleMoveTakeover s
  | .quoteSubmit v => Sys2Proof.Machine.execQuoteSubmit v s
  | .quoteDone => Sys2Proof.Machine.execQuoteDone s
  | .watchArm n v => Sys2Proof.Machine.execWatchArm n v s
  | .linkAccessTimeout n => Sys2Proof.Machine.execLinkAccessTimeout n s
  | .hostAccess kind addr v => Sys2Proof.Machine.execHostAccess kind addr v s
  | .flitReceive link v => Sys2Proof.Machine.execFlitReceive link v s
  | .flitNakReceive link v => Sys2Proof.Machine.execFlitNakReceive link v s
  | .linkRetrain link => Sys2Proof.Machine.execLinkRetrain link s
  | .laneRepairStart link => Sys2Proof.Machine.execLaneRepairStart link s
  | .laneSpareSwap link => Sys2Proof.Machine.execLaneSpareSwap link s
  | .linkNarrow link => Sys2Proof.Machine.execLinkNarrow link s
  | .dieIsolation die => Sys2Proof.Machine.execDieIsolation die s
  | .registerWrite off v => Sys2Proof.Machine.execRegisterWrite off v s
  | .bundleIssue cid => Sys2Proof.Machine.execBundleIssue cid s
  | .inputPowerLoss => Sys2Proof.Machine.execInputPowerLoss s
  | .linkTrainingLost link => Sys2Proof.Machine.execLinkTrainingLost link s
  | .contextSaveComplete cid => Sys2Proof.Machine.execContextSaveComplete cid s
  | .contextRestoreComplete cid => Sys2Proof.Machine.execContextRestoreComplete cid s
  | .cellClearDone cid => Sys2Proof.Machine.execCellClearDone cid s

end Sys2Proof.Machine
end

