-- ==== Sys2Proof/Machine/Turn.lean ====
section
/-!
DEFINITION. Machine/Turn.lean: the order in which a module's steps come (log 1): the cores in turn within a cycle of the cell clock,
then the clock's edge with the steps that time and the device bring; and how a program is placed for a first step.
-/
namespace Sys2Proof.Machine

/-! ## Whose turn it is -/

/-- The core has something to do in this cycle: it runs, waits or holds, or operations of it are under way. -/
def Core.active (k : Core) : Bool :=
  k.stoppable || !k.flights.isEmpty || !k.queue.isEmpty || (!k.late.isEmpty && (k.st == .halted || k.st == .stopped))

/-- The old stoker issues nothing during the trial of the image that replaces its own (R276). -/
def State.silenced (s : State) (c : Nat) : Bool := isStoker c && s.firm.fwsub.any (fun h => h.phase == 5 && 1024 + h.oldStk == c)

/-- The next active core of this cycle. -/
def State.nextCore (s : State) : Option Nat :=
  (s.cores.find? (fun p => decide (s.turn ≤ p.1) && p.2.active && !s.silenced p.1)).map Prod.fst

/-- What comes at the boundary before a core's cycle, if anything does: a stop, a yield or a migration (R204 to R206, R220, R226). -/
def State.boundary (s : State) (c : Nat) : Option Instr :=
  let k := s.core c
  if k.stoppable then
    if !k.late.isEmpty then some (.stopLands c)
    else if k.stopReq.isSome && s.begun c then some (.forcedStop c)
    else if holdLimit ≤ k.holdCyc then some (.holdLimit c)
    else if k.landing then (if k.st == .hold && k.quiet && s.drained c then some (.yieldLands c) else none)
    else if s.yieldDue c then some (if k.forcesEpilogue then .forcedEpilogue c else .yieldLands c)
    else match k.migReq, s.teamOf c with
      | some b, some t =>
        if s.atIb c && s.movable t c && s.cellIdle b && decide (k.spcap ≤ (s.core b).spcap) then some (.migrationLands c) else none
      | _, _ => none
  else if !k.late.isEmpty && (k.st == .halted || k.st == .stopped) then some (.asyncFaultReport c)
  else none

/-- A core's cycle: it issues, waits, holds, or lets its operations go on. -/
def State.cycleOf (s : State) (c : Nat) : Instr :=
  match (s.core c).st with
  | .run => .bundleIssue c
  | .wait => .waitEnd c
  | .hold => .holdEnd c
  | _ => .operationResultWrite c

/-- The step of a core whose turn it is: what its boundary brings, and after that its cycle. -/
def State.turnOf (s : State) (c : Nat) : Instr × State :=
  match s.boundary c with
  | some i => (i, s)
  | none => (s.cycleOf c, { s with turn := c + 1 })

/-! ## Steps that the device takes in its own time -/

/-- The steps of memory and the engines that may come next (R105, R110, R131 to R147, R150 to R166). -/
def State.engineSteps (s : State) : List Instr :=
  s.writes.map (fun w => .writeAdvance w.seq)
    ++ (s.reads.filter (fun r => r.remote && !r.kind.atomic)).map (fun r => .remoteReadPerform r.seq)
    ++ (s.reads.filter (fun r => r.kind.atomic)).map (fun r => .atomicExecute r.seq)
    ++ (s.reads.filter (fun r => !r.remote)).map (fun r => .accessHoldRelease r.cid)
    ++ ((s.xfers.filter (fun p => p.2.busy)).map (fun p => Instr.pageWalk p.2.holder)).eraseDups
    ++ (s.xfers.filter (fun p => p.2.busy)).flatMap (fun p =>
      p.2.acc.map (fun a => Instr.transferAccessDone p.1 a.n)
        ++ (if p.1 < 8192 then [.transferMoveStart p.1, .ringSlotReserve p.1, .ringWptrAdvance p.1, .transferComplete p.1]
          else [.transferMoveStart p.1, .transferComplete p.1, .collectiveComplete (p.1 - 8192)]))
    ++ s.collects.map (fun m => .collectiveArrival m.seq)
    ++ s.invrs.flatMap (fun q => q.reach.map (Instr.invrHolderAck q.stk) ++ q.wait.map (fun p => Instr.invrHolderAck q.stk p.1)
        ++ [.invrComplete q.stk])

/-- The steps of cells, stokers and firmware whose length the spec bounds but does not fix (R63, R110, R192, R226, R330, R331). -/
def State.slowSteps (s : State) : List Instr :=
  (s.cores.filter (fun p => p.2.flights.any (fun f => f.eph))).flatMap (fun p => (List.range 128).map (Instr.ephLaneDecide p.1))
    ++ (s.cores.filter (fun p => match p.2.waits.op with
      | some (.ctxs _ _) => true
      | some (.ctxr _ _) => true
      | _ => false)).flatMap (fun p => [Instr.contextSaveComplete (ctxCid p.2.ctxA), .contextRestoreComplete (ctxCid p.2.ctxA)])
    ++ s.sched.clearing.map Instr.cellClearDone
    ++ s.sched.migs.map (fun m => .migrationComplete m.source)
    ++ (s.sched.teams.filter (fun t => t.state == .loading)).map (fun t => .loadPhaseDone t.id)
    ++ (s.sched.teams.filter (fun t => t.state == .out && t.hamper != 0)).map (fun t => .deepPark t.id)
    ++ s.sched.destroying.map Instr.queueDestroyFinish
    ++ (s.power.ramp.toList).map (fun r => .dieRampEnd r.1)
    ++ [.keySlotUpdate, .quoteDone, .curveVerify, .handoverStage]

/-- What comes on a link: the acknowledgement of its oldest flit, whole or with a symbol that FEC corrects, its end of a repair, and what its
lanes meet (R286 to R289). -/
def State.linkSteps (s : State) : List Instr :=
  s.links.flatMap (fun p =>
    let n := p.1
    let l := p.2
    (match l.window with
      | [] => []
      | f :: _ =>
        let v := l.nextIn + 3 * 2 ^ 12 + 2 ^ 14 + 2 ^ 15 + f.seq * 2 ^ 16
        [Instr.flitReceive n v, .flitReceive n (v + 2 ^ 28 + Config.deviceChoice s.choice % 64 * 2 ^ (32 + payloadBits)), .flitNakReceive n f.seq])
      ++ [.linkTrainingLost n, .linkRetrain n, .laneRepairStart n, .laneSpareSwap n, .linkNarrow n])

/-- What the rails of the dies may meet: a droop, and under over-scaling a timing error (R259, R272). -/
def State.railSteps (s : State) : List Instr :=
  (List.range 8).map Instr.droopEvent ++ (if s.power.allow = 0 then [] else (s.mat.map (fun m => Instr.timingErrorReplay m.eng)).eraseDups)

/-- Those of a list of steps that the device takes at this edge (log 8). -/
def chosen (from_ : Nat) (l : List Instr) : List Instr :=
  (l.zipIdx.filter (fun p => Config.deviceChoice (from_ + p.2) % 2 = 1)).map Prod.fst

/-! ## Steps that time brings -/

/-- A multiple of `unit` ns lies after `t0` and not after `t1`. -/
def crosses (unit t0 t1 : Nat) : Bool := decide (t0 / unit < t1 / unit)

/-- The end of a major frame (R273, R276, R278). -/
def majorSteps : List Instr :=
  [.roleMoveTakeover, .fallBack, .handoverAdopt, .handoverQuiesce, .heartbeatCheck, .handoverConfirm]

/-- What a minor frame brings: the scheduler's slots, and what is then due of teams, curves and dies (R180, R208, R215, R222, R223,
R235, R247, R254, R262, R285). -/
def State.minorSteps (s : State) : List Instr :=
  let open_ := s.sched.teams.filter (fun t => t.state != .closed)
  .minorFrame
    :: open_.flatMap (fun t => [Instr.faultTeamEnd t.id, .teamEnd t.id, .yieldLimit t.id, .parkYieldLimit t.id, .hamperWrite t.id,
        .swapOut t.id, .sliceExpiry t.id])
    ++ [.curveExpire, .emergencySaveClear]
    ++ (List.range 8).map Instr.dieGatingRamp ++ (List.range 8).map Instr.dieUngatingRamp
    ++ (if s.hostUp then [] else (s.xfers.filter (fun p => p.2.busy)).map (fun p => .linkAccessTimeout p.1))

/-- What 10 µs bring: the settlement of every bucket, the rails, and the samples of every sensor (R21, R229, R257). -/
def State.sampleSteps (s : State) : List Instr :=
  ((s.cores.filter (fun p => decide (p.1 < 1024))).map (fun p => .bucketSettle p.1)) ++ [.railLevelStep]
    ++ (List.range 1040).map (fun i => .thermalSample i (Config.temperature i (s.now / 10000) % 1024))

/-- What every edge brings: the first cycle of released teams, the end of halted ones, curves and their points, barriers, and pre-throttles
(R39, R195, R231, R235, R259, R260, R320, R376). -/
def State.edgeSteps (s : State) : List Instr :=
  (if s.takeoverDue then [.curveTakeover] else []) ++ (if s.pointDue then [.curvePoint] else [])
    ++ (s.sched.teams.filter (fun t => s.allHalted t)).map (fun t => .teamEnd t.id)
    ++ (s.sched.teams.filter (fun t => s.beforeFirst t)).map (fun t => .teamFirstCycle t.id)
    ++ (s.cores.filterMap (fun p => match p.2.waits.op with
      | some (.bar scp) => some (Instr.barrierComplete p.1 scp.toNat)
      | _ => none))
    ++ ((List.range 8).filter s.power.droopMatch).map Instr.droopSignatureMatch
    ++ (s.power.pre.filter (fun p => p.2 = 1)).map (fun p => .prethrottleEnd p.1)

/-! ## The clock's edge -/

/-- `turn` once the steps of a major frame's end have been set out. -/
def frameEnded : Nat := 2048

/-- Every core has had its cycle: time goes on to the next edge, with what it brings (log 1). The end of a major frame comes before
the edge that begins the next one (R277). -/
def State.edge (s : State) : State :=
  let time := s.time + cyclePeriod s.power.lc
  let t1 := time / nsUnit
  if crosses 16000 s.now t1 && decide (s.turn < frameEnded) then { s with turn := frameEnded, agenda := majorSteps }
  else
    let t0 := s.now
    let s := ({ s with time := time, turn := 0, beat := s.beat + 1, taken := [] } : State).tickDroop.rejournal
    let s := if s.beat % 16 = 0 then s.newWindow else s
    let s := if crosses 1000000 t0 t1 then s.endMs else s
    let free := s.engineSteps ++ s.slowSteps ++ s.linkSteps ++ s.railSteps
    { s with
      choice := s.choice + free.length
      agenda := s.edgeSteps
        ++ (if crosses 10000 t0 t1 then s.sampleSteps else [])
        ++ (if crosses 10 t0 t1 then [.bucketRefill] else [])
        ++ (if crosses 1000000 t0 t1 then [.damperTick (Config.modulePower (t1 / 1000000))] else [])
        ++ (if crosses 1000 t0 t1 then s.minorSteps else [])
        ++ chosen s.choice free }

/-! ## A program placed for its first step -/

/-- The slot that an instruction of the opcode table's words stands in: the map that reads it back (R296 to R305). -/
def slotOf (nbits w : Nat) (i : Instr) : Nat :=
  if nbits = 32 then
    if decodeS w = .ok i then 1 else if decodeCtl w = .ok i then 0 else if decodeCfg w = .ok i then 6 else 1
  else if decodeVec w = .ok i then 3
  else if decodeMat w = .ok i then 4
  else 5

/-- The core that runs it: cell 0, or stoker 1 for an opcode marked † (R296, R298, R304). -/
def coreFor (slot w : Nat) : Nat := if daggered slot (payloadOpcode slot w) then 1025 else 0

/-- The words of a bundle with one payload: the header, and the payload with its low word first (R291). -/
def bundleOf (slot w : Nat) : List Nat :=
  let h := 0xA0000000 + 2 ^ (21 + slot)
  if slotWords slot == 1 then [h, w % 2 ^ 32] else [h, w % 2 ^ 32, w / 2 ^ 32 % 2 ^ 32]

/-- A core about to run the bundle at address 0. -/
def Core.readied (k : Core) : Core :=
  { k with
    st := .run
    pc := 0
    waitk := 0
    rptLeft := 0
    loops := []
    latches := []
    waits := Waits.none
    flights := []
    queue := []
    late := []
    stopReq := none
    yreq := false
    migReq := none
    landing := false
    holdCyc := 0
    replay := 0
    ueImem := [] }

/-- The team of one cell that runs a placed program. -/
def placedTeam : Team := { Team.new 0 0 0 none 1 0 0 with size := 1, cells := [0], state := .resident }

/-- A bundle stored at address 0 of a core, which runs it next. -/
def State.placeAt (s : State) (c : Nat) (words : List Nat) : State :=
  let s : State := { s with
    ident := { s.ident with booted := true, bootfail := false }
    power := { s.power with powered := true }
    ops := []
    owed := Owed.none
    ctx := ⟨0, 0, 0, 0, false, false, []⟩
    agenda := []
    turn := c }
  if isStoker c then
    (s.setHomes (words.zipIdx.flatMap (fun p => bytesAt (localKey c (4 * p.2)) 4 p.1))).modCore c Core.readied
  else
    ({ s with
      sched := { s.sched with teams := placedTeam :: s.sched.teams.filter (fun t => !(t.holds && t.cells.contains c) && t.id != 0) }
      power := { s.power with kmin := mapSet 16 s.power.kmin c 16 } } : State).modCore c
      (fun k => { k.readied with
        team := placedTeam.teamWord 0
        imem := mapSetAll 0 k.imem (words.zipIdx.map (fun p => (p.2, BitVec.ofNat 32 p.1))) })

/-- An instruction of the opcode table's words placed for the next step (log 1). -/
def State.placed (s : State) (nbits w : Nat) : State :=
  match decodeTableWord nbits w with
  | none => s.placeAt 0 (bundleOf (if nbits ≤ 32 then 1 else 3) w)
  | some i => s.placeAt (coreFor (slotOf nbits w i) w) (bundleOf (slotOf nbits w i) w)

end Sys2Proof.Machine
end

