-- ==== Sys2Proof/Machine/Step.lean ====
section
/-!
DEFINITION. Machine/Step.lean: one step of the module: the next step that waits to be taken, or a core's turn, or the clock's edge
(log 1); and the state in which a given instruction comes next.
-/
namespace Sys2Proof.Machine

/-- Steps taken one after the other. -/
def runSteps : List Instr → State → Host.Outcome State Fault Refusal
  | [], s => .next s
  | i :: l, s =>
    match exec i s with
    | .next t => runSteps l t
    | .fault f => .fault f
    | .refused r => .refused r

/-- The slot operations of a bundle that has issued, in their order, and then the end of its execution (R29, R35). What a stoker's store to
the window asks for comes before its next access (R172). -/
def runOps : List PendOp → State → Host.Outcome State Fault Refusal
  | [], s => .next s.finishBundle
  | p :: l, s =>
    match exec p.op (s.atOp p) with
    | .next t =>
      match runSteps (t.ops.map PendOp.op) { t with ops := [] } with
      | .next u => runOps l u
      | .fault f => .fault f
      | .refused r => .refused r
    | .fault f => .fault f
    | .refused r => .refused r

/-- An instruction, with the operations that it hands to the present step. -/
def run (i : Instr) (s : State) : Host.Outcome State Fault Refusal :=
  match exec i s with
  | .next t => runOps t.ops { t with ops := [] }
  | .fault f => .fault f
  | .refused r => .refused r

/-- The steps that a module without power can take (R25, R263). -/
def takenDark (i : Instr) : Bool := i == .powerOnReset || i == .inputPowerLoss

/-- One step of the module. -/
def step (s : State) : Host.Outcome State Fault Refusal :=
  match s.agenda with
  | i :: l => if s.power.powered || takenDark i then run i { s with agenda := l } else .fault .noPower
  | [] =>
    if !(s.ident.booted && s.power.powered) then run .powerOnReset s
    else match s.nextCore with
      | some c => run (s.turnOf c).1 (s.turnOf c).2
      | none => .next s.edge

/-- The state with an instruction of the opcode table's words placed where the next step runs it. -/
def State.withFetchWord (s : State) (nbits w : Nat) : State := s.placed nbits w

end Sys2Proof.Machine
end

