-- ==== Sys2Proof/Safety.lean ====
section
/-!
DEFINITION. Safety.lean: what counts as a sound state of the module, and the vocabulary of the statements: what completes, what
joins the results in flight, and what stays as it was.
-/
namespace Sys2Proof.Machine

/-- Memory is in its canonical form. -/
abbrev Memory.wf (m : List Host.Cell) : Bool := mapWf 0 m

/-- The module has power and has booted. -/
def State.Running (s : State) : Prop := s.ident.booted = true ∧ s.power.powered = true

/-! ## What an instruction does -/

/-- The instruction completes: it answers a next state, of which `P` holds. -/
def Completes (i : Instr) (s : State) (P : State → Prop) : Prop := ∃ t, exec i s = .next t ∧ P t

/-- The core that executes the present slot instruction. -/
def State.me (s : State) : Nat := s.ctx.cid

/-- Every byte of memory reads as before. -/
def SameMemory (s t : State) : Prop := ∀ a, t.home a = s.home a

/-- The scalar, vector and predicate registers, the tiles and the loop stack of a core are as before. -/
def SameRegisters (k l : Core) : Prop :=
  (∀ r, l.reg r = k.reg r) ∧ (∀ r n, l.lane r n = k.lane r n) ∧ (∀ r, l.pred r = k.pred r) ∧ (∀ t i j, l.entry t i j = k.entry t i j)
    ∧ l.loops = k.loops

/-- Every system register of core `c` but those of which `x` holds reads as before, the pc and the status registers among them. -/
def SameSystem (x : Nat → Prop) (c : Nat) (s t : State) : Prop := ∀ n, ¬ x n → t.cellReg c n true = s.cellReg c n true

/-- Every core but `c` is as before. -/
def SameOthers (c : Nat) (s t : State) : Prop := ∀ d, d ≠ c → t.core d = s.core d

/-- The frame of an instruction of core `c` that changes no register, no byte of memory, no other core, and no system register
but those of which `x` holds. -/
def Frame (x : Nat → Prop) (c : Nat) (s t : State) : Prop :=
  SameMemory s t ∧ SameRegisters (s.core c) (t.core c) ∧ SameOthers c s t ∧ SameSystem x c s t

/-- No system register. -/
def noneOf (_ : Nat) : Prop := False

/-- SEQPC and SEQSTAT, which hold the pc and the remaining count. -/
def pcOf (n : Nat) : Prop := n = 0x010 ∨ n = 0x011

/-- One scalar result of the executing instruction joins the results in flight, for register `d` with value `v`: it lands at the end
of schedule cycle t + `lat` (R32), with a scoreboarded destination where `sb` says so (R47). -/
def ScalarJoins (s t : State) (d : BitVec 6) (lat : Nat) (sb : Bool) (v : Word) : Prop :=
  ∃ f : Flight, (t.core s.me).flights = (s.core s.me).flights ++ [f] ∧ f.dest = .scalar d.toNat ∧ f.sval = v ∧ f.rem = lat
    ∧ f.sb = sb ∧ f.open_ = false ∧ f.fault = none ∧ f.seq = s.seq + 1

/-- The instruction completes with one scalar result and leaves everything else as it was. -/
def GivesScalar (i : Instr) (s : State) (d : BitVec 6) (lat : Nat) (sb : Bool) (v : Word) : Prop :=
  Completes i s (fun t => ScalarJoins s t d lat sb v ∧ Frame noneOf s.me s t)

/-- The instruction stops its core before the bundle, with a class and detail (R204): a check at issue fails. -/
def StopsWith (i : Instr) (s : State) (t : Trap) : Prop := exec i s = .next (s.stopAtIssue (s.issueCause i t))

/-- The instruction completes in the state given. -/
def Leads (i : Instr) (s t : State) : Prop := exec i s = .next t

/-- The event counters EVSEL0 to EVCNT7. -/
def countersOf (n : Nat) : Prop := 0x070 ≤ n ∧ n ≤ 0x07F

/-- The event counters, and OUTCNT and TOKCNT0, TOKCNT1, which follow the operations outstanding. -/
def outstandingOf (n : Nat) : Prop := countersOf n ∨ n = 0x033 ∨ n = 0x058 ∨ n = 0x059

/-- Only the cores changed, and of these only `c`. -/
def OnlyCore (c : Nat) (s t : State) : Prop := t = { s with cores := t.cores } ∧ SameOthers c s t

/-- Only the scheduler's state changed. -/
def OnlySched (s t : State) : Prop := t = { s with sched := t.sched }

/-- Only the power state changed. -/
def OnlyPower (s t : State) : Prop := t = { s with power := t.power }

/-- Only the firmware's state changed. -/
def OnlyFirm (s t : State) : Prop := t = { s with firm := t.firm }

/-- Only the links changed. -/
def OnlyLinks (s t : State) : Prop := t = { s with links := t.links }

/-- Memory changed at most at the homes of a run of bytes: every other address reads as before. -/
def SameBut (pa n : Nat) (s t : State) : Prop :=
  ∀ a, (∀ i, i < n → canonical a ≠ canonical (pa + i)) → t.home a = s.home a

/-- A run of bytes holds a natural, low byte first (R4). -/
def HoldsAt (t : State) (pa n x : Nat) : Prop := ∀ i, i < n → t.home (pa + i) = BitVec.ofNat 8 (x / 256 ^ i)

/-- The same with memory free within a run of bytes. -/
def FrameBut (pa n : Nat) (x : Nat → Prop) (c : Nat) (s t : State) : Prop :=
  SameBut pa n s t ∧ SameRegisters (s.core c) (t.core c) ∧ SameOthers c s t ∧ SameSystem x c s t

/-! ## Addresses of scalar accesses -/

/-- A cell's address operand names `n` aligned bytes of a scratchpad that its team reaches, at a physical place (R92, R93). -/
def CellAddr (s : State) (g : Bool) (a : Word) (n pa : Nat) : Prop :=
  ∃ q, s.target s.me (if g then a.toNat / 2 ^ 22 % 2 ^ 10 else s.me) = some q ∧ a.toNat % 2 ^ 22 % n = 0
    ∧ a.toNat % 2 ^ 22 + n ≤ (s.core q).spcap ∧ pa = spKey q (a.toNat % 2 ^ 22)

/-- A stoker's address operand names `n` aligned bytes of its local memory, or of physical memory outside the management window, at
a place (R177). -/
def StokerAddr (s : State) (a : Word) (n pa : Nat) : Prop :=
  a.toNat % n = 0
    ∧ ((a.toNat < 2 ^ 63 ∧ a.toNat + n ≤ 0x40000 ∧ pa = localKey s.me a.toNat)
      ∨ (2 ^ 63 ≤ a.toNat ∧ a.toNat < 2 ^ 63 + 2 ^ 52 ∧ pa = a.toNat - 2 ^ 63 ∧ s.isHole pa = false ∧ regionOf pa ≠ .window))

/-- Nothing of the ordering machine is in the way: no write or read is on its way, no fence is in force and nothing migrates. -/
def State.Quiet (s : State) : Prop := s.writes = [] ∧ s.reads = [] ∧ s.fences = [] ∧ s.from_ = [] ∧ s.sched.migs = []

/-- Nothing of the ordering machine and no earlier vector or matrix operation is in the way of an access of core `c`. -/
def State.Settled (s : State) (c : Nat) : Prop := s.Quiet ∧ (s.core c).queue = [] ∧ s.mat = []

/-! ## Integer types (R74, R75) -/

/-- An integer in a type: reduced to the type's width and extended to 64 bits, by sign for codes 4 to 7, by zeros for 8 to 15. -/
def inType (t : BitVec 4) (x : Int) : Word :=
  let m : Nat := 2 ^ formatWidth t.toNat
  if 4 ≤ t.toNat ∧ t.toNat ≤ 7 then BitVec.ofInt 64 (x.bmod m) else BitVec.ofInt 64 (x % (m : Int))

/-- The value of the low bits of a register in a type: two's complement for codes 4 to 7, a natural for 8 to 15. -/
def valueIn (t : BitVec 4) (x : Word) : Int :=
  let m : Nat := 2 ^ formatWidth t.toNat
  if 4 ≤ t.toNat ∧ t.toNat ≤ 7 then (x.toNat : Int).bmod m else (x.toNat % m : Nat)

/-- The type of ADD, SUB, MUL, MULH, DIV, REM, MIN and MAX: codes 4 to 11. -/
def ArithType (t : BitVec 4) : Prop := 4 ≤ t.toNat ∧ t.toNat ≤ 11

/-- The type of the logic, shift and count operations: codes 4 to 15. -/
def LogicType (t : BitVec 4) : Prop := 4 ≤ t.toNat

/-! ## Words of the statements -/

/-- The ten conditions of R328 by code. -/
def Condition (cnd : BitVec 4) (x y : Word) : Prop :=
  match cnd.toNat with
  | 0 => x = y
  | 1 => x ≠ y
  | 2 => x.toInt < y.toInt
  | 3 => x.toInt ≤ y.toInt
  | 4 => y.toInt < x.toInt
  | 5 => y.toInt ≤ x.toInt
  | 6 => x.toNat < y.toNat
  | 7 => x.toNat ≤ y.toNat
  | 8 => y.toNat < x.toNat
  | 9 => y.toNat ≤ x.toNat
  | _ => False

/-- The state after a transfer of control to a word address: only the pc and the remaining count change, and R29 does not act. -/
def Transferred (s : State) (n : Nat) : State :=
  { s.modCur (fun k => { k with pc := n, rptLeft := 0 }) with owed := { s.owed with advance := false } }

/-- A loaded run of `n` bytes as the register receives it. -/
def Loaded (sext : Bool) (n x : Nat) : Word := BitVec.ofInt 64 (if sext then (x : Int).bmod (2 ^ (8 * n)) else (x : Int))

/-- An access of the executing core joins the reads under way, and a result without a fixed latency waits for it under its number. -/
def ReadJoins (s t : State) (d : BitVec 6) (pa rem : Nat) (kind : ReadKind) (r : PendRead) : Prop :=
  t.reads = s.reads ++ [r] ∧ r.seq = s.seq + 1 ∧ r.cid = s.me ∧ r.addr = pa ∧ r.kind = kind
    ∧ (r.remote = true ↔ spCell pa ≠ s.me)
    ∧ ∃ f : Flight, (t.core s.me).flights = (s.core s.me).flights ++ [f] ∧ f.seq = r.flight ∧ f.dest = .scalar d.toNat ∧ f.open_ = true
      ∧ f.parts = 1 ∧ f.rem = rem ∧ (f.sb = true ↔ d ≠ 0)
      ∧ (t.core s.me).counter .ld = (s.core s.me).counter .ld + (if r.remote then 1 else 0)

/-- The new value that an AMO of code `op` writes, from old value `x` and operand `y` of `n` bytes (R318). -/
def Combined (op n x y : Nat) : Nat :=
  match op with
  | 0 => (x + y) % 2 ^ (8 * n)
  | 1 => x &&& y
  | 2 => x ||| y
  | 3 => x ^^^ y
  | 4 => if (x : Int).bmod (2 ^ (8 * n)) ≤ (y : Int).bmod (2 ^ (8 * n)) then x else y
  | 5 => if (x : Int).bmod (2 ^ (8 * n)) ≤ (y : Int).bmod (2 ^ (8 * n)) then y else x
  | 6 => min x y
  | 7 => max x y
  | _ => y

/-- An operation of slot VEC, MAT or XFR that issues now starts in the same cycle: a cell issues it, the slot's buffer is empty, its
skew is 0, no way lies between the cell and its engine, whose link holds, no operation of another core waits there, and its engine has
started nothing of the slot in this cycle (R36, R43, R285, R382, R388). -/
def SlotReady (s : State) (slot : Nat) : Prop :=
  isStoker s.me = false ∧ s.ctx.slot = slot ∧ (∀ w ∈ s.cur.queue, w.slot ≠ slot) ∧ s.cur.skewOf slot = 0
    ∧ s.oneWay s.me (s.engine s.me slot) = 0
    ∧ (dieOf s.me = dieOf (s.engine s.me slot) ∨ ∀ d, s.dieLinkLost d = false)
    ∧ mapGet 0 s.cur.skewOut (8 * s.engine s.me slot + slot) ≤ s.cur.cyc
    ∧ (∀ p ∈ s.cores, p.1 ≠ s.me → ∀ v ∈ p.2.queue, v.slot = slot → v.eng ≠ s.engine s.me slot)

/-- A VEC operation that issues now starts in the same cycle. -/
def VecReady (s : State) : Prop := SlotReady s 3

/-- A MAT operation that issues now is accepted in the same cycle: its engine has room, its tokens have completed, and no replayed K-step
makes it late (R272, R349). -/
def MatReady (s : State) (tok : Tokens) : Prop :=
  SlotReady s 4 ∧ s.matRoom (s.engine s.me 4) = true ∧ s.cur.waitsOn tok = [] ∧ min s.cur.matLate (s.cur.slackOf 4) = 0

/-- The operation of slot VEC, MAT or XFR joins its slot's elastic buffer as it was issued: with the skew in force and the way to its
engine still to pass, and what it captured (R36, R43, R91). Nothing joins the results in flight yet. -/
def JoinsBuffer (i : Instr) (s : State) (slot : Nat) : Prop :=
  Completes i s (fun t => ∃ w : Waiting, (t.core s.me).queue = s.cur.queue ++ [w] ∧ w.op = i ∧ w.slot = slot ∧ w.seq = s.seq + 1
    ∧ w.eng = s.engine s.me slot ∧ w.due = s.cur.skewOf slot ∧ w.way = s.oneWay s.me (s.engine s.me slot) ∧ w.slack = s.cur.slackOf slot
    ∧ w.cap = s.cur.capture ∧ w.late = 0 ∧ (t.core s.me).flights = s.cur.flights ∧ t.mat = s.mat ∧ t.xfers = s.xfers
    ∧ t.collects = s.collects ∧ Frame outstandingOf s.me s t)

/-- The registers that follow transfers: those of outstanding operations, TOKERR and XSTAGE. -/
def transfersOf (n : Nat) : Prop := outstandingOf n ∨ n = 0x05A ∨ n = 0x05B

/-- A result joins those in flight of the issuing core, under the number of its operation, and those already in flight stay. -/
def Flies (s t : State) (d : Dest) (open_ : Bool) (f : Flight) : Prop :=
  f ∈ (t.core s.me).flights ∧ f.seq = s.seq + 1 ∧ f.dest = d ∧ f.open_ = open_ ∧ ∀ g ∈ (s.core s.me).flights, g ∈ (t.core s.me).flights

/-- A MAT operation joins its engine's operations as it was accepted: not begun, with the operands that it captured (R91, R349). -/
def MatJoins (i : Instr) (s : State) (tile base row0 k0 : Nat) : Prop :=
  Completes i s (fun t => ∃ (m : MatOp) (f : Flight), t.mat = s.mat ++ [m] ∧ m.op = i ∧ m.owner = s.me ∧ m.eng = s.engine s.me 4
    ∧ m.tile = tile ∧ m.base = base ∧ m.row0 = row0 ∧ m.k0 = k0 ∧ m.cap = s.cur.capture ∧ m.seq = s.seq + 1 ∧ m.begun = false
    ∧ m.step = 0 ∧ m.done = 0 ∧ m.held = 0 ∧ m.fault = none ∧ Flies s t .none true f
    ∧ (t.core s.me).counter .tl = (s.core s.me).counter .tl + (if counterOf i = .tl then 1 else 0) ∧ Frame outstandingOf s.me s t)

/-- The operation joins the results in flight with a vector or predicate result: its destination in the engine's cell, its latency, the
flags of the whole operation, and for each lane of 0 to 127 whether it is written, with what, and the lane's flags. Nothing else
changes. -/
def GivesLanes (i : Instr) (s : State) (d : Dest) (lat : Nat) (whole : Flags) (act : Nat → Bool) (val : Nat → Lane) (fl : Nat → Flags) : Prop :=
  Completes i s (fun t => ∃ f : Flight, f ∈ (t.core s.me).flights ∧ f.seq = s.seq + 1 ∧ f.dest = d ∧ f.eng = s.engine s.me 3 ∧ f.rem = lat
    ∧ f.skewl = 0 ∧ f.open_ = false ∧ f.landed = false ∧ f.fault = none ∧ f.flags = whole
    ∧ (∀ l, l < 128 → ∃ x, f.lanes[l]? = some x ∧ x.act = act l ∧ (act l = true → x.val = val l ∧ x.fl = fl l))
    ∧ (∀ g ∈ (s.core s.me).flights, g ∈ (t.core s.me).flights) ∧ Frame countersOf s.me s t)

/-- The lanes of a source register in the engine's cell. -/
def State.vlane (s : State) (r : BitVec 6) (l : Nat) : Lane := (s.core (s.engine s.me 3)).lane r.toNat l

/-- Lane `l` is active under the governing predicate (R399). -/
def State.vact (s : State) (p : BitVec 3) (l : Nat) : Bool := ((s.core (s.engine s.me 3)).pred p.toNat).getLsbD l

/-- The fields of a VA operation that is neither chained nor chains: well-formed, in format `t` (R76, R300, R399). -/
def Plain (i : Instr) (f : FieldsVA) (s : State) (t : Nat) : Prop :=
  WellFormed i = true ∧ f.chs = 0 ∧ t = (if f.td = 1 then f.t.toNat else s.cur.fmt.toNat % 16)

/-- The integer that a lane holds in a type of at most 32 bits, signed for codes 4 to 6, natural for 8 to 10 and 12 to 14. -/
def laneInt (t : Nat) (x : Lane) : Int :=
  let m : Nat := 2 ^ formatWidth t
  if 4 ≤ t ∧ t ≤ 6 then (x.toNat : Int).bmod m else (x.toNat % m : Nat)

/-- An integer as a lane of the type holds it: its low bits, extended under R75. -/
def intLane (t : Nat) (x : Int) : Lane :=
  let m : Nat := 2 ^ formatWidth t
  if 4 ≤ t ∧ t ≤ 6 then BitVec.ofInt 32 (x.bmod m) else BitVec.ofInt 32 (x % (m : Int))

/-- The value that a lane holds in FP32 or BF16. -/
def laneFloat (t : Nat) (x : Lane) : Value := floatValue t (x.toNat % 2 ^ formatWidth t)

/-- A float pattern as a lane holds it. -/
def floatLane (t x : Nat) : Lane := BitVec.ofNat 32 (x % 2 ^ formatWidth t)

/-- The magnitude of a float pattern in units of 2^−149, with 2^128 for an infinity. -/
def magnitudeOf (t x : Nat) : Nat :=
  match floatValue t x with
  | .fin _ m e => m * 2 ^ (e + 149).toNat
  | _ => 2 ^ 277

end Sys2Proof.Machine
end

