-- ==== Sys2Proof/Certificates/Slice0/Obligations.lean ====
section
/-!
DEFINITION. Obligations.lean: the statements for the provers, from the numbered rules of the spec.
-/
open Sys2Proof Sys2Proof.Machine

/-! ## Encodings -/

/-- O1. Decoding the encoding of a well-formed instruction gives it back, with every operand at every value (R291 to R305). -/
def Obligations.DecodeOfEncode : Prop := ∀ (f : Format) (i : Instr) (w : Nat), WellFormed i = true → encode f i = some w →
  w < 2 ^ (if f = .v64 ∨ f = .m64 ∨ f = .x64 then 64 else 32) ∧ decode f w = .ok i

/-- O2. No two payloads of a format decode alike: what a payload decodes to encodes to the payload. -/
def Obligations.EncodeOfDecode : Prop := ∀ (f : Format) (i : Instr) (w : Nat),
  w < 2 ^ (if f = .v64 ∨ f = .m64 ∨ f = .x64 then 64 else 32) → decode f w = .ok i → encode f i = some w

/-- O3. Payload words that the reference entries write out decode to the instructions beside them, and two that R322 and R293 refuse
are refused. -/
def Obligations.DecodeWords : Prop :=
  decode .c32 0x02842400 = .ok (.bri 2 4 9)
  ∧ decode .c32 0x11051800 = .ok (.ctxs 5 6)
  ∧ decode .s32 0x010A188C = .ok (.addSr 5 3 4 6)
  ∧ decode .s32 0x028A1801 = .ok (.subSi 5 3 1)
  ∧ decode .s32 0x178E4D03 = .ok (.ins 7 9 40 3)
  ∧ decode .g32 0x05800009 = .ok (.sapxKnob 9)
  ∧ decode .v64 0x0E000002C1100441 = .ok (.vthr ⟨11, 1, 4, 0, 1, 0, 1, 0, 0, 1⟩)
  ∧ decode .m64 0x0118000411840000 = .ok (.mma ⟨1, 1, 6, 0x1000, 0, ⟨3, 0, 0, 0⟩⟩)
  ∧ decode .x64 0x02380002_10000000 = .ok (.xstep 1 2 ⟨7, 0, 0, 0⟩)
  ∧ decode .x64 0x09000000A2AB2E00 = .ok (.invr 20 21 22 23)
  ∧ decode .c32 0x01050000 = .bad .encoding
  ∧ decode .g32 0x00000001 = .bad .encoding

/-! ## The scalar slots (R316 to R378) -/

/-- O4. ADD and SUB in both layouts.
MUL in both layouts and MULH: the exact product of the typed values, its low or its high half. -/
def Obligations.ArithmeticResults : Prop :=
  (
    ∀ (d a b : BitVec 6) (t : BitVec 4) (imm : BitVec 11) (s : State),
  (ArithType t → GivesScalar (.addSr d a b t) s d 1 false (inType t ((s.rd a).toInt + (s.rd b).toInt)))
  ∧ (ArithType t → GivesScalar (.subSr d a b t) s d 1 false (inType t ((s.rd a).toInt - (s.rd b).toInt)))
  ∧ GivesScalar (.addSi d a imm) s d 1 false (s.rd a + imm.signExtend 64)
  ∧ GivesScalar (.subSi d a imm) s d 1 false (s.rd a - imm.signExtend 64))
  ∧ (
    ∀ (d a b : BitVec 6) (t : BitVec 4) (imm : BitVec 11) (s : State),
  (ArithType t → GivesScalar (.mulSr d a b t) s d 3 false (inType t (valueIn t (s.rd a) * valueIn t (s.rd b))))
  ∧ (ArithType t → GivesScalar (.mulh d a b t) s d 3 false
      (inType t ((valueIn t (s.rd a) * valueIn t (s.rd b)).fdiv ((2 ^ formatWidth t.toNat : Nat) : Int))))
  ∧ GivesScalar (.mulSi d a imm) s d 3 false (s.rd a * imm.signExtend 64))

/-- O5. DIV and REM: the quotient truncates toward zero; a zero divisor gives all ones and the dividend; the destination is
scoreboarded, and the latency goes with the width. -/
def Obligations.DivideResults : Prop := ∀ (d a b : BitVec 6) (t : BitVec 4) (s : State), ArithType t →
  ∀ lat, (formatWidth t.toNat, lat) ∈ [(8, 6), (16, 10), (32, 18), (64, 34)] →
  (valueIn t (s.rd b) ≠ 0 →
    GivesScalar (.div d a b t) s d lat true (inType t ((valueIn t (s.rd a)).tdiv (valueIn t (s.rd b))))
    ∧ GivesScalar (.rem d a b t) s d lat true (inType t ((valueIn t (s.rd a)).tmod (valueIn t (s.rd b)))))
  ∧ (valueIn t (s.rd b) = 0 →
    GivesScalar (.div d a b t) s d lat true (inType t (-1)) ∧ GivesScalar (.rem d a b t) s d lat true (inType t (valueIn t (s.rd a))))

/-- O6. AND, OR, XOR and ANDN in both layouts.
SHL, SHR and SRA in both layouts: a count of the width or more clears, or copies the sign to every bit.
CLZ and POPC over the low bits of the type. -/
def Obligations.BitResults : Prop :=
  (
    ∀ (d a b : BitVec 6) (t : BitVec 4) (imm : BitVec 11) (s : State),
  (LogicType t →
    GivesScalar (.andSr d a b t) s d 1 false (inType t ((s.rd a &&& s.rd b).toNat : Int))
    ∧ GivesScalar (.orSr d a b t) s d 1 false (inType t ((s.rd a ||| s.rd b).toNat : Int))
    ∧ GivesScalar (.xorSr d a b t) s d 1 false (inType t ((s.rd a ^^^ s.rd b).toNat : Int))
    ∧ GivesScalar (.andnSr d a b t) s d 1 false (inType t ((s.rd a &&& ~~~(s.rd b)).toNat : Int)))
  ∧ GivesScalar (.andSi d a imm) s d 1 false (s.rd a &&& imm.zeroExtend 64)
  ∧ GivesScalar (.orSi d a imm) s d 1 false (s.rd a ||| imm.zeroExtend 64)
  ∧ GivesScalar (.xorSi d a imm) s d 1 false (s.rd a ^^^ imm.zeroExtend 64)
  ∧ GivesScalar (.andnSi d a imm) s d 1 false (s.rd a &&& ~~~(imm.zeroExtend 64)))
  ∧ (
    ∀ (d a b : BitVec 6) (t : BitVec 4) (imm : BitVec 11) (s : State),
  let w := formatWidth t.toNat
  let x : Nat := (s.rd a).toNat % 2 ^ w
  let c : Nat := (s.rd b).toNat % 2 ^ w
  (LogicType t →
    GivesScalar (.shlSr d a b t) s d 1 false (if c < w then inType t ((x * 2 ^ c : Nat) : Int) else 0)
    ∧ GivesScalar (.shrSr d a b t) s d 1 false (inType t ((if c < w then x / 2 ^ c else 0 : Nat) : Int))
    ∧ GivesScalar (.sraSr d a b t) s d 1 false
        (inType t (((x : Int).bmod (2 ^ w)).fdiv ((2 ^ (min c w) : Nat) : Int))))
  ∧ GivesScalar (.shlSi d a imm) s d 1 false (s.rd a <<< imm.toNat)
  ∧ GivesScalar (.shrSi d a imm) s d 1 false (s.rd a >>> imm.toNat)
  ∧ GivesScalar (.sraSi d a imm) s d 1 false ((s.rd a).sshiftRight imm.toNat))
  ∧ (
    ∀ (d a : BitVec 6) (t : BitVec 4) (s : State), LogicType t →
  let w := formatWidth t.toNat
  let x : Nat := (s.rd a).toNat % 2 ^ w
  (∃ n, GivesScalar (.clz d a t) s d 1 false (BitVec.ofNat 64 n) ∧ n ≤ w ∧ x < 2 ^ (w - n) ∧ (n < w → 2 ^ (w - 1 - n) ≤ x))
  ∧ GivesScalar (.popc d a t) s d 1 false (BitVec.ofNat 64 ((List.range w).countP (fun i => (s.rd a).getLsbD i))))

/-- O7. MIN and MAX in both layouts.
CMP in both layouts, and SEL.
MOV in both layouts, MOVH, EXT and INS. -/
def Obligations.ChoiceResults : Prop :=
  (
    ∀ (d a b : BitVec 6) (t : BitVec 4) (imm : BitVec 11) (s : State),
  let m : Word := imm.signExtend 64
  (ArithType t →
    GivesScalar (.minSr d a b t) s d 1 false (inType t (min (valueIn t (s.rd a)) (valueIn t (s.rd b))))
    ∧ GivesScalar (.maxSr d a b t) s d 1 false (inType t (max (valueIn t (s.rd a)) (valueIn t (s.rd b)))))
  ∧ GivesScalar (.minSi d a imm) s d 1 false (BitVec.ofInt 64 (min (s.rd a).toInt m.toInt))
  ∧ GivesScalar (.maxSi d a imm) s d 1 false (BitVec.ofInt 64 (max (s.rd a).toInt m.toInt)))
  ∧ (
    ∀ (d a b : BitVec 6) (c : BitVec 5) (cnd : BitVec 4) (imm : BitVec 7) (s : State),
  (cnd.toNat < 10 →
    ∃ v, GivesScalar (.cmpSc d a b cnd) s d 1 false v
      ∧ (Condition cnd (s.rd a) (s.rd b) → v = 1) ∧ (¬ Condition cnd (s.rd a) (s.rd b) → v = 0))
  ∧ (cnd.toNat < 10 →
    ∃ v, GivesScalar (.cmpSci d a cnd imm) s d 1 false v
      ∧ (Condition cnd (s.rd a) (imm.signExtend 64) → v = 1) ∧ (¬ Condition cnd (s.rd a) (imm.signExtend 64) → v = 0))
  ∧ (s.rd (c.zeroExtend 6) ≠ 0 → GivesScalar (.sel d a b c) s d 1 false (s.rd a))
  ∧ (s.rd (c.zeroExtend 6) = 0 → GivesScalar (.sel d a b c) s d 1 false (s.rd b)))
  ∧ (
    ∀ (d a pos : BitVec 6) (k : BitVec 3) (len : BitVec 5) (imm : BitVec 17) (h : BitVec 16) (s : State),
  (k = 0 → GivesScalar (.movSm d a k) s d 1 false (s.rd a))
  ∧ (∀ n e, a = 0 → k.toNat = n + 1 → n < 6 → s.cur.loops.reverse[n]? = some e →
      GivesScalar (.movSm d a k) s d 1 false (BitVec.ofNat 64 e.index))
  ∧ (∀ n, a = 0 → k.toNat = n + 1 → n < 6 → s.cur.loops.length ≤ n → GivesScalar (.movSm d a k) s d 1 false 0)
  ∧ GivesScalar (.movSwi d imm) s d 1 false (imm.signExtend 64)
  ∧ GivesScalar (.movh d h) s d 1 false ((s.rd d).extractLsb' 0 48 ++ h)
  ∧ (pos.toNat + len.toNat < 64 →
    ∃ v, GivesScalar (.ext d a pos len) s d 1 false v
      ∧ ∀ i, i < 64 → v.getLsbD i = (decide (i ≤ len.toNat) && (s.rd a).getLsbD (pos.toNat + i)))
  ∧ (pos.toNat + len.toNat < 64 →
    ∃ v, GivesScalar (.ins d a pos len) s d 1 false v
      ∧ ∀ i, i < 64 → v.getLsbD i
          = if pos.toNat ≤ i ∧ i ≤ pos.toNat + len.toNat then (s.rd a).getLsbD (i - pos.toNat) else (s.rd d).getLsbD i))

/-- O8. A type or field that the operation does not accept stops the core before the bundle.
What the checks of the CTL slot stop, before the bundle (R320 to R348, R378, R435, R443). -/
def Obligations.ScalarAndControlChecksStop : Prop :=
  (
    ∀ (d a b pos : BitVec 6) (t cnd : BitVec 4) (len : BitVec 5) (k : BitVec 3) (s : State),
  s.ctx.checked = false →
  (¬ ArithType t → StopsWith (.addSr d a b t) s (trapIL 0x07) ∧ StopsWith (.subSr d a b t) s (trapIL 0x07)
    ∧ StopsWith (.mulSr d a b t) s (trapIL 0x07) ∧ StopsWith (.mulh d a b t) s (trapIL 0x07)
    ∧ StopsWith (.div d a b t) s (trapIL 0x07) ∧ StopsWith (.rem d a b t) s (trapIL 0x07)
    ∧ StopsWith (.minSr d a b t) s (trapIL 0x07) ∧ StopsWith (.maxSr d a b t) s (trapIL 0x07))
  ∧ (¬ LogicType t → StopsWith (.andSr d a b t) s (trapIL 0x07) ∧ StopsWith (.orSr d a b t) s (trapIL 0x07)
    ∧ StopsWith (.xorSr d a b t) s (trapIL 0x07) ∧ StopsWith (.andnSr d a b t) s (trapIL 0x07)
    ∧ StopsWith (.shlSr d a b t) s (trapIL 0x07) ∧ StopsWith (.shrSr d a b t) s (trapIL 0x07)
    ∧ StopsWith (.sraSr d a b t) s (trapIL 0x07) ∧ StopsWith (.clz d a t) s (trapIL 0x07) ∧ StopsWith (.popc d a t) s (trapIL 0x07))
  ∧ (10 ≤ cnd.toNat → StopsWith (.cmpSc d a b cnd) s trapEncoding)
  ∧ (k = 7 ∨ (k ≠ 0 ∧ a ≠ 0) → StopsWith (.movSm d a k) s trapEncoding)
  ∧ (64 ≤ pos.toNat + len.toNat → StopsWith (.ext d a pos len) s trapEncoding ∧ StopsWith (.ins d a pos len) s trapEncoding))
  ∧ (
    ∀ (cnd : BitVec 2) (a b : BitVec 6) (tgt : BitVec 16) (n : BitVec 7) (ord scp : BitVec 3)
    (ldl stl cpl tll : BitVec 4) (s : State), s.ctx.checked = false →
  (s.owed.rpt ≠ 0 → StopsWith (.br cnd a tgt) s trapEncoding ∧ StopsWith (.bri cnd a b) s trapEncoding
    ∧ StopsWith (.call a tgt) s trapEncoding ∧ StopsWith (.ret a) s trapEncoding ∧ StopsWith .halt s trapEncoding
    ∧ StopsWith .yield s trapEncoding ∧ StopsWith .eret s trapEncoding ∧ StopsWith (.loopReg a tgt) s trapEncoding
    ∧ StopsWith (.loopImm n tgt) s trapEncoding)
  ∧ (cnd = 0 → a ≠ 0 → StopsWith (.br cnd a tgt) s trapEncoding ∧ StopsWith (.bri cnd a b) s trapEncoding)
  ∧ (s.owed.rpt = 0 → 6 ≤ s.cur.loops.length → StopsWith (.loopReg a tgt) s (trapIL 0x01) ∧ StopsWith (.loopImm n tgt) s (trapIL 0x01))
  ∧ (s.owed.rpt = 0 → s.cur.loops.length < 6 → tgt.toNat < s.owed.next →
    StopsWith (.loopReg a tgt) s (trapIL 0x03) ∧ StopsWith (.loopImm n tgt) s (trapIL 0x03))
  ∧ (s.cur.loops = [] → StopsWith .lbrk s (trapIL 0x02))
  ∧ (s.owed.rpt = 0 → s.cur.inHandler = true → StopsWith .halt s (trapIL 0x10))
  ∧ (s.owed.rpt = 0 → isStoker s.me = false → s.cur.inHandler = false → StopsWith .eret s (trapIL 0x10))
  ∧ ((ord ≠ 1 ∧ ord ≠ 2 ∧ ord ≠ 4) ∨ 5 ≤ scp.toNat → StopsWith (.drain ord scp) s (trapIL 0x08))
  ∧ (isStoker s.me = false → 4 ≤ scp.toNat → StopsWith (.bar scp) s (trapIL 0x0E))
  ∧ (isStoker s.me = true → StopsWith (.wait ldl stl cpl tll) s trapEncoding ∧ StopsWith .waitpred s trapEncoding
    ∧ StopsWith .handoff s trapEncoding ∧ StopsWith .yield s trapEncoding ∧ StopsWith .eret s trapEncoding
    ∧ StopsWith (.bar scp) s trapEncoding))

/-! ## The sequencer (R29, R320 to R348, R369, R378, R398, R434, R435, R443) -/

/-- O9. NOP: in CTL and CFG nothing; in a sticky slot the slot's latch becomes NOP, and nothing else changes (R369). -/
def Obligations.NopsIdleTheirSlot : Prop := ∀ (s : State),
  Leads .nopCtl s s
  ∧ (isStoker s.me = false → Leads .nopCfg s s)
  ∧ Leads .nopS s (s.modCur (fun k => k.setLatch s.ctx.slot Latch.nop))
  ∧ (isStoker s.me = false → Leads .nopVec s (s.modCur (fun k => k.setLatch 3 Latch.nop)))
  ∧ (isStoker s.me = false → Leads .nopMat s (s.modCur (fun k => k.setLatch 4 Latch.nop)))
  ∧ (isStoker s.me = false → Leads .nopXfr s (s.modCur (fun k => k.setLatch 5 Latch.nop)))

/-- O10. BR, BRI, CALL and RET without repeats (R322 to R325, R378). -/
def Obligations.TransfersOfControl : Prop := ∀ (cnd : BitVec 2) (c b d : BitVec 6) (tgt : BitVec 16) (s : State), s.owed.rpt = 0 →
  (cnd ≠ 0 ∨ c = 0 →
    let taken : Prop := cnd = 0 ∨ (cnd = 1 ∧ s.rd c = 0) ∨ (cnd = 2 ∧ s.rd c ≠ 0) ∨ (cnd = 3 ∧ (s.rd c).toInt < 0)
    (taken → Leads (.br cnd c tgt) s (Transferred s tgt.toNat)
      ∧ Leads (.bri cnd c b) s (Transferred s ((s.rd b).toNat % 2 ^ 16)))
    ∧ (¬ taken → Leads (.br cnd c tgt) s s ∧ Leads (.bri cnd c b) s s))
  ∧ Completes (.call d tgt) s (fun t => ScalarJoins s t d 1 false (BitVec.ofNat 64 (s.owed.next % 2 ^ 16))
      ∧ (t.core s.me).pc = tgt.toNat ∧ t.owed.advance = false ∧ Frame pcOf s.me s t)
  ∧ Leads (.ret b) s (Transferred s ((s.rd b).toNat % 2 ^ 16))

/-- O11. LOOP in both forms: a count of 1 or more pushes an entry; a count of 0 goes on after the bundle at END (R347, R348). -/
def Obligations.LoopPushesOrSkips : Prop := ∀ (a : BitVec 6) (n : BitVec 7) (e : BitVec 16) (s : State),
  s.owed.rpt = 0 → s.cur.loops.length < 6 → s.owed.next ≤ e.toNat →
  (∀ x l, s.cur.loops = x :: l → x.stop ≠ s.cur.pc ∧ e.toNat ≤ x.stop) →
  let push (m : Nat) : State := s.modCur (fun k => { k with loops := ⟨0, m, s.owed.next, e.toNat⟩ :: k.loops })
  let h := s.codeWord s.me e.toNat
  let m := (s.rd a).toNat % 2 ^ 32
  (m ≠ 0 → Leads (.loopReg a e) s (push m))
  ∧ (n ≠ 0 → Leads (.loopImm n e) s (push n.toNat))
  ∧ (m = 0 → h / 2 ^ 28 = 10 → h % 2 ^ 12 = 0 →
      Leads (.loopReg a e) s (Transferred s ((e.toNat + 1 + payloadWords h) % 2 ^ 16)))
  ∧ (n = 0 → h / 2 ^ 28 = 10 → h % 2 ^ 12 = 0 →
      Leads (.loopImm n e) s (Transferred s ((e.toNat + 1 + payloadWords h) % 2 ^ 16)))

/-- O12. The end of a bundle's last execution (R29): the top entry of the loop stack decides, popped entries first.
LBRK pops the top entry before R29 looks at the rest (R343), and SBIND binds, after the last execution (R382). -/
def Obligations.BundleEnd : Prop :=
  (
    ∀ (k : Core) (ipc next : Nat), k.popReq = false → k.bindReq = none →
  (k.loops = [] → k.endBundle ipc next true = { k with pc := next % 2 ^ 16 })
  ∧ (∀ e l, k.loops = e :: l → e.stop ≠ ipc → k.endBundle ipc next true = { k with pc := next % 2 ^ 16 })
  ∧ (∀ e l, k.loops = e :: l → e.stop = ipc → e.index + 1 < e.count →
      k.endBundle ipc next true = { k with loops := { e with index := e.index + 1 } :: l, pc := e.start % 2 ^ 16 })
  ∧ (∀ e l, k.loops = e :: l → e.stop = ipc → e.count ≤ e.index + 1 →
      k.endBundle ipc next true = ({ k with loops := l } : Core).endBundle ipc next true)
  ∧ k.endBundle ipc next false = k)
  ∧ (
  (∀ (s : State) (ipc next : Nat) (adv : Bool), s.cur.loops ≠ [] →
    Leads .lbrk s (s.modCur (fun k => { k with popReq := true }))
    ∧ ∀ k : Core, k.popReq = true →
      k.endBundle ipc next adv = ({ k with popReq := false, loops := k.loops.drop 1 } : Core).endBundle ipc next adv)
  ∧ (∀ (k : Core) (ipc next e sl : Nat), k.popReq = false → k.bindReq = some (e, sl) → e < 16 → sl < 3 →
    let l := k.endBundle ipc next false
    (l.bindOf (sl + 3) = e ∧ ∀ x, x < 3 → x ≠ sl → l.bindOf (x + 3) = k.bindOf (x + 3))
    ∧ l.latch (sl + 3) = Latch.nop ∧ l.pc = k.pc ∧ l.loops = k.loops ∧ l.bindReq = none))

/-- O13. HALT, HANDOFF, YIELD and TRAP (R338 to R340, R398, R443).
ERET inside a handler restores what the stop saved, and the held entries go on (R212, R336). -/
def Obligations.HaltsStopsAndEret : Prop :=
  (
    ∀ (code : BitVec 8) (s : State),
  (isStoker s.me = false → s.owed.rpt = 0 → s.cur.inHandler = false →
    Leads .halt s (s.modCur (fun k => { k with st := .halted, waitk := 0, handoff := true, yreq := false, migReq := none })))
  ∧ (isStoker s.me = true → s.owed.rpt = 0 → s.cur.inHandler = false →
    Leads .halt s { s.modCur (fun k => { k with st := .stopped }) with
      firm := { s.firm with dead := s.firm.dead ++ [s.me - 1024] } })
  ∧ (isStoker s.me = false → Leads .handoff s (s.modCur (fun k => { k with handoff := true })))
  ∧ (isStoker s.me = false → s.owed.rpt = 0 → s.cur.yreq = true → s.cur.inHandler = false →
    Leads .yield s (s.modCur (fun k => { k with landing := true, st := .hold, waitk := 5 })))
  ∧ (isStoker s.me = false → s.owed.rpt = 0 → s.cur.yreq = false ∨ s.cur.inHandler = true → Leads .yield s s)
  ∧ Completes (.trap code) s (fun t => ∃ x, t = { s with owed := { s.owed with stop := some x } } ∧ x.cls = 7 ∧ x.detail = code.toNat
      ∧ x.opc = 0x0C ∧ x.slot = s.ctx.slot ∧ x.ipc = s.ctx.ipc ∧ ∀ n, (s.record s.me x n).info = (s.cur.reg 1).toNat))
  ∧ (
    ∀ (s : State), isStoker s.me = false → s.owed.rpt = 0 → s.cur.inHandler = true →
  Completes .eret s (fun t =>
    let k := s.cur
    let l := t.core s.me
    l.pc = k.hand.epc.toNat % 2 ^ 16 ∧ l.rptLeft = k.hand.epc.toNat / 2 ^ 16 % 2 ^ 8 ∧ l.inHandler = false
    ∧ l.latches = k.hand.shadow ∧ l.flights = k.hand.held.map (Flight.replay k.handlerCycles) ++ k.flights
    ∧ (l.hand.epc = k.hand.epc &&& 0x7FFFFFFFFFFFFFFF) ∧ l.hand.held = [] ∧ t.owed.advance = false
    ∧ (k.hand.wk = 0 → l.st = .run) ∧ (k.hand.wk ≠ 0 → l.st = .wait ∧ l.waitk = k.hand.wk ∧ l.waits = k.hand.waits)
    ∧ Frame (fun n => pcOf n ∨ n = 0x061) s.me s t))

/-- O14. WAIT, WAITPRED, BAR and DRAIN on a cell: what starts at the bundle's end, the arrival, and the fence (R161, R320, R334,
R434, R435).
A wait that the bundle began ends with its condition: the counters of WAIT, and the predecessor of WAITPRED (R45, R51,
R434, R435). -/
def Obligations.WaitsAndFences : Prop :=
  (
    ∀ (ldl stl cpl tll : BitVec 4) (ord scp : BitVec 3) (s : State), isStoker s.me = false →
  Leads (.wait ldl stl cpl tll) s (s.modCur (fun k => { k with waits := { k.waits with op := some (.wait ldl stl cpl tll), arg := 0 } }))
  ∧ Leads .waitpred s (s.modCur (fun k => { k with waits := { k.waits with op := some .waitpred, arg := 0 } }))
  ∧ (scp = 0 → Leads (.bar scp) s s)
  ∧ (1 ≤ scp.toNat → scp.toNat ≤ 3 → Completes (.bar scp) s (fun t => OnlyCore s.me s t ∧ Frame noneOf s.me s t
      ∧ mapGet false (t.core s.me).arrived scp.toNat = true ∧ (t.core s.me).waits.op = some (.bar scp)))
  ∧ (ord = 1 ∨ ord = 2 ∨ ord = 4 → scp.toNat ≤ 4 → Completes (.drain ord scp) s (fun t => ∃ f,
      t = { s with seq := s.seq + 1, fences := s.fences ++ [f] } ∧ f.cid = s.me ∧ f.scope = scp.toNat ∧ f.writes = true
      ∧ (f.reads = true ↔ ord ≠ 2) ∧ (f.acq = true ↔ ord = 1))))
  ∧ (
    ∀ (s : State) (c : Nat) (ldl stl cpl tll : BitVec 4),
  ((s.core c).waits.op = some (.wait ldl stl cpl tll) →
    (s.waitOver c = true ↔ (s.core c).counter .ld ≤ ldl.toNat ∧ (s.core c).counter .st ≤ stl.toNat
      ∧ (s.core c).counter .cp ≤ cpl.toNat ∧ (s.core c).counter .tl ≤ tll.toNat))
  ∧ ((s.core c).waits.op = some .waitpred → (s.waitOver c = true ↔ (bit (s.core c).predst.toNat 33 = false ∨ bit (s.core c).predst.toNat 32 = true)))
  ∧ ((s.core c).st = .run → (s.core c).rptLeft = 0 → (s.core c).waits.op.isSome = true → (s.core c).waits.ring = none → (s.core c).waits.ringArg = 0 →
    (s.waitOver c = true → s.beginWait c = s.modCore c (fun k => { k with waits := Waits.none, waitk := 0 }))
    ∧ (s.waitOver c = false → ((s.beginWait c).core c).st = .wait ∧ ((s.beginWait c).core c).waits = (s.core c).waits)))

/-- O15. RELEASE, CTXS and CTXR on a stoker whose checks pass (R329, R375, R376); a team that comes back from a hamper gives up its header
(R249; log 40). -/
def Obligations.StokerControl : Prop := ∀ (a b : BitVec 6) (s : State),
  (∀ t, s.releaseCheck (s.rd a) = none → s.releasable (s.releaseList ((s.rd a).toNat % 2 ^ 63)) = some t → s.team t.id = some t → t.hamper = 0 →
    Leads (.release a) s (s.modTeam t.id (fun t => { t with state := .resident, dep := .none, loadTime := s.now - t.placed, saved := [] })))
  ∧ (∀ t, s.releaseCheck (s.rd a) = none → s.releasable (s.releaseList ((s.rd a).toNat % 2 ^ 63)) = some t → s.team t.id = some t → t.hamper ≠ 0 →
    Completes (.release a) s (fun u =>
      u.team t.id = some { t with state := .resident, dep := .none, loadTime := s.now - t.placed, saved := [], hamper := 0 }
      ∧ HoldsAt u t.hamper 64 0 ∧ SameBut t.hamper 64 s u ∧ u.cores = s.cores))
  ∧ (s.ctxsCheck (s.rd a) (s.rd b) = none → Completes (.ctxs a b) s (fun t => OnlyCore s.me s t ∧ Frame noneOf s.me s t
      ∧ (t.core s.me).waits.op = some (.ctxs a b) ∧ (t.core s.me).ctxA = s.rd a ∧ (t.core s.me).ctxB = s.rd b))
  ∧ (s.ctxrCheck (s.rd a) (s.rd b) = none → Completes (.ctxr a b) s (fun t => OnlyCore s.me s t ∧ Frame noneOf s.me s t
      ∧ (t.core s.me).waits.op = some (.ctxr a b) ∧ (t.core s.me).ctxA = s.rd a ∧ (t.core s.me).ctxB = s.rd b))
  ∧ (isStoker s.me = false → s.ctx.checked = false → StopsWith (.release a) s (trapOf 3 0x00) ∧ StopsWith (.ctxs a b) s (trapOf 3 0x00)
      ∧ StopsWith (.ctxr a b) s (trapOf 3 0x00))

/-! ## Steps -/

/-- O16. A step runs the decoded instruction: when a running core's turn comes and nothing holds, stops or repeats its bundle, the step
is `exec` of the one instruction at the pc, in the state in which its bundle has been committed, then what a stoker's store to the
window asks for (R172), and then the bundle's end. The second clause says which words at the pc decode to it. The turn of one
core at a time is the model's choice (log 1). -/
def Obligations.StepRunsDecoded : Prop :=
  (∀ (s : State) (c slot : Nat) (i : Instr), s.agenda = [] → s.Running → s.nextCore = some c → s.boundary c = none →
    (s.core c).st = .run →
    let t : State := { s with turn := c + 1 }
    let ops : List PendOp := [⟨slot, false, i⟩]
    let e : Execution := ⟨ops, [slot], []⟩
    let u := (t.startHeads c).scalarsFirst t c e
    let p := u.prepare t c [slot].contains (carriesEret ops)
    t.throttled c = false → (t.core c).lateFrozen = false → (t.startHeads c).execution c = .inr e →
    p.holdBefore c ops = 0 → p.issueCauses ops = [] → p.holdAfter t c ops = 0 →
    step s = match exec i (({ p.commit c ops with ops := [] } : State).atOp ⟨slot, false, i⟩) with
      | .next v =>
        match runSteps (v.ops.map PendOp.op) { v with ops := [] } with
        | .next w => .next w.finishBundle
        | .fault f => .fault f
        | .refused r => .refused r
      | .fault f => .fault f
      | .refused r => .refused r)
  ∧ (∀ (s : State) (c slot : Nat) (i : Instr),
    let pc := (s.core c).pc
    let h := s.codeWord c pc
    let v := s.codeWord c (pc + 1) + if slot = 3 ∨ slot = 4 ∨ slot = 5 then 2 ^ 32 * s.codeWord c (pc + 2) else 0
    slot < 7 → (s.core c).rptLeft = 0 → h / 2 ^ 28 = 10 → h / 2 ^ 21 % 2 ^ 7 = 2 ^ slot → h % 2 ^ 12 = 0 →
    pc + 1 + slotWords slot ≤ codeLimit c → s.codeUe c pc (1 + slotWords slot) = false →
    (isStoker c = true → slot ≠ 3 ∧ slot ≠ 4 ∧ slot ≠ 6) → (isStoker c = false → daggered slot (payloadOpcode slot v) = false) →
    decode (slotFormat slot) v = .ok i → i ≠ .eret → (∀ n, n ≠ slot → ((s.core c).latch n).op = none) →
    s.execution c = .inr ⟨[⟨slot, false, i⟩], [slot], []⟩)

/-- O17. A step that waits on the agenda is the next one taken, and the module without power takes none but the two of power (R25,
R228, R263).
Whatever the state, a powered module goes on: no step of it stops the machine. The agenda and the fault without power are the
model's choice (log 1). -/
def Obligations.AgendaStepsRun : Prop :=
  (
    ∀ (s : State) (i : Instr) (l : List Instr), s.agenda = i :: l →
  (∀ t, s.power.powered = true → Leads i { s with agenda := l } t → t.ops = [] → t.owed.cycle = false → step s = .next t)
  ∧ (s.power.powered = false → i ≠ .powerOnReset → i ≠ .inputPowerLoss → step s = .fault .noPower))
  ∧ (
  (∀ (i : Instr) (s : State), ∃ t, exec i s = .next t)
  ∧ (∀ s : State, s.power.powered = true → ∃ t, step s = .next t)
  ∧ (∀ s : State, s.agenda = [] → ∃ t, step s = .next t))

/-- O18. Every step keeps memory in its canonical form, so that memories that read alike are equal. The form of memory and
the 0 of unlisted bytes are the model's choice (log 2). -/
def Obligations.MemoryStaysCanonical : Prop := ∀ s t : State, Memory.wf s.mem = true → step s = .next t → Memory.wf t.mem = true

/-- O19. Canonical memories that read alike at every place are equal, so that MemoryStaysCanonical speaks of what memory holds.
The two views of HBM4 name the same bytes (R99, R100): what is written under one name is read under the other, and nothing
else of memory changes. The form of memory is the model's choice (log 2). -/
def Obligations.MemoryIsCanonicalData : Prop :=
  (
    ∀ m n : List Host.Cell, Memory.wf m = true → Memory.wf n = true →
  (∀ a, mapGet 0 m a = mapGet 0 n a) → m = n)
  ∧ (
  (∀ a, a < 2 ^ 40 → ∃ p, 2 ^ 40 ≤ p ∧ p < 2 ^ 41 ∧ canonical p = a ∧ ∀ q, 2 ^ 40 ≤ q → q < 2 ^ 41 → canonical q = a → q = p)
  ∧ (∀ p, 2 ^ 40 ≤ p → p < 2 ^ 41 → canonical p < 2 ^ 40)
  ∧ (∀ p, p < 2 ^ 40 ∨ 2 ^ 41 ≤ p → canonical p = p)
  ∧ (∀ (s : State) (p q : Nat) (b : Byte), (canonical p = canonical q → (s.setHome p b).home q = b)
      ∧ (canonical p ≠ canonical q → (s.setHome p b).home q = s.home q)))

/-- O20. Memory after reset is in its canonical form, and the module is neither booted nor ready, its dies gated (R25, R27).
That the boot is still to come at reset is the model's choice (log 1). -/
def Obligations.ResetIsCanonical : Prop :=
  Memory.wf State.reset.mem = true ∧ State.reset.ident.booted = false ∧ bit State.reset.ident.devstat.toNat 0 = false
  ∧ bits State.reset.ident.devstat.toNat 15 8 = 0xFF

/-- O21. What the Reset columns give the registers of every core and of the module (R29, R38, R42, R43, R49, R84, R89, R90, R210, R219,
R223, R224, R227, R254, R260, R262). The values of a core's registers that have no Reset column are the model's choice (log
3, log 4). -/
def Obligations.ResetValues : Prop :=
  (∀ c, State.reset.core c = Core.reset)
  ∧ (∀ c, State.reset.cellReg c 0x030 true = some 0 ∧ State.reset.cellReg c 0x031 true = some 0
      ∧ State.reset.cellReg c 0x032 true = some 0xFFF ∧ State.reset.cellReg c 0x033 true = some 0
      ∧ State.reset.cellReg c 0x041 true = some 0 ∧ State.reset.cellReg c 0x046 true = some 0
      ∧ State.reset.cellReg c 0x047 true = some 0 ∧ State.reset.cellReg c 0x048 true = some 0
      ∧ State.reset.cellReg c 0x050 true = some 0 ∧ State.reset.cellReg c 0x060 true = some 0
      ∧ State.reset.cellReg c 0x061 true = some 0 ∧ State.reset.cellReg c 0x062 true = some 0 ∧ State.reset.cellReg c 0x063 true = some 0)
  ∧ (∀ c n, n < 4 → State.reset.cellReg c (0x042 + n) true = some 0x3F803F803F803F80)
  ∧ (∀ c n, n < 16 → State.reset.cellReg c (0x070 + n) true = some 0)
  ∧ (∀ c n, n < 6 → State.reset.cellReg c (0x012 + n) true = some 0 ∧ State.reset.cellReg c (0x018 + n) true = some 0)
  ∧ State.reset.sched.slice = 64 + 50 * 2 ^ 16 ∧ State.reset.sched.thmig = 95 + 2 ^ 8 ∧ State.reset.sched.qtbase = 0
  ∧ State.reset.power.thsave = 105 ∧ State.reset.power.gateOrder = 0x053977
  ∧ State.reset.power.droopctl = 1 + 12 * 2 + 64 * 2 ^ 6 + 30 * 2 ^ 16
  ∧ State.reset.ident.lnkctl = 64 + 1024 * 2 ^ 16 + 8 * 2 ^ 32

/-- O22. s0 reads zero and p0 all ones, and a write to either is discarded; every other register reads what was written last (R294). -/
def Obligations.HardwiredRegisters : Prop := ∀ (k : Core) (r q : Nat) (v : Word) (p : Pred),
  k.reg 0 = 0 ∧ k.setReg 0 v = k ∧ k.pred 0 = BitVec.allOnes 128 ∧ k.setPred 0 p = k
  ∧ (r ≠ 0 → (k.setReg r v).reg r = v ∧ (q ≠ r → (k.setReg r v).reg q = k.reg q))
  ∧ (r ≠ 0 → (k.setPred r p).pred r = p ∧ (q ≠ r → (k.setPred r p).pred q = k.pred q))

/-- O23. R15. -/
def Obligations.CellIdentifiers : Prop :=
  (∀ d c k : Nat, d < 8 → c < 16 → k < 8 →
    let cid := d * 128 + c * 8 + k
    cid < 1024 ∧ dieOf cid = d ∧ clusterOf cid = 16 * d + c ∧ bits cid 9 7 = d ∧ bits cid 6 3 = c ∧ bits cid 2 0 = k
    ∧ ∀ s : State, s.cellReg cid 0x006 true = some (BitVec.ofNat 64 cid))
  ∧ (∀ n, n < 1024 → ∃ d c k, d < 8 ∧ c < 16 ∧ k < 8 ∧ n = d * 128 + c * 8 + k)
  ∧ 3 * 128 + 5 * 8 + 2 = 426 ∧ dieOf 426 = 3 ∧ clusterOf 426 = 16 * 3 + 5 ∧ bits 426 2 0 = 2

/-! ## Memory by scalar operations (R92, R95, R150 to R166, R177, R318, R319, R326, R344 to R346, R372, R386, R391 to R393) -/

/-- O24. A cell's LD: from its own scratchpad, with nothing in the way, the value lands at the end of cycle t + 3; from another cell's,
the load is outstanding until the network brings it (R344, R345).
A cell's ST joins the writes on their way with the low bytes of its register, at the address that its operand names; memory
itself changes only when it performs (R150, R391, R392). -/
def Obligations.CellLoadsAndStores : Prop :=
  (
    ∀ (d a : BitVec 6) (sz : BitVec 2) (sx g : BitVec 1) (ord scp : BitVec 3) (s : State) (pa : Nat),
  isStoker s.me = false → (sx = 1 → sz ≠ 3) → ord = 0 ∨ ord = 1 ∨ ord = 4 → scp.toNat ≤ 4 →
  CellAddr s (decide (g = 1)) (s.rd a) (2 ^ sz.toNat) pa →
  let n := 2 ^ sz.toNat
  (spCell pa = s.me → s.Settled s.me → s.ueIn pa n = false →
    Completes (.ld d a sz sx ord scp g) s (fun t =>
      ScalarJoins s t d 3 false (Loaded (decide (sx = 1)) n (s.homeNat pa n)) ∧ t.reads = s.reads ∧ t.writes = s.writes
      ∧ Frame countersOf s.me s t))
  ∧ (spCell pa ≠ s.me → Completes (.ld d a sz sx ord scp g) s (fun t => ∃ r, ReadJoins s t d pa 0 (.load n (sx == 1)) r
      ∧ t.writes = s.writes ∧ Frame outstandingOf s.me s t)))
  ∧ (
    ∀ (d a : BitVec 6) (sz : BitVec 2) (g : BitVec 1) (ord scp : BitVec 3) (s : State) (pa : Nat),
  isStoker s.me = false → ord = 0 ∨ ord = 2 ∨ ord = 4 → scp.toNat ≤ 4 → CellAddr s (decide (g = 1)) (s.rd a) (2 ^ sz.toNat) pa →
  Completes (.st d a sz ord scp g) s (fun t => ∃ (w : PendWrite) (f : Flight),
    t.writes = s.writes ++ [w] ∧ w.cid = s.me ∧ w.place = .queue ∧ w.bytes = bytesAt pa (2 ^ sz.toNat) (s.rd d).toNat
    ∧ (w.hold = if ord = 0 then none else some scp.toNat)
    ∧ (t.core s.me).flights = (s.core s.me).flights ++ [f] ∧ f.seq = w.flight ∧ f.open_ = true ∧ f.dest = .none
    ∧ (t.core s.me).counter .st = (s.core s.me).counter .st + (if spCell pa = s.me then 0 else 1)
    ∧ t.reads = s.reads ∧ Frame outstandingOf s.me s t))

/-- O25. A cell's AMO and CAS: one access under way that reads and writes at home as one (R165, R318, R319, R326). -/
def Obligations.CellAtomics : Prop := ∀ (d a : BitVec 6) (aop : BitVec 4) (w : BitVec 1) (ord ordf scp : BitVec 3) (s : State) (pa : Nat),
  isStoker s.me = false → ord.toNat ≤ 4 → scp.toNat ≤ 4 →
  let n := if w = 1 then 8 else 4
  let rem := if spCell pa = s.me then 4 else 0
  CellAddr s true (s.rd a) n pa →
  (aop.toNat < 9 → Completes (.amo d a aop w ord scp) s (fun t => ∃ r,
    ReadJoins s t d pa rem (.amo aop.toNat n (s.rd d)) r ∧ t.writes = s.writes ∧ Frame outstandingOf s.me s t))
  ∧ (d.toNat % 2 = 0 → ordf = 0 ∨ ordf = 1 ∨ ordf = 4 → Completes (.cas d a w ord ordf scp) s (fun t => ∃ r,
    ReadJoins s t d pa rem (.cas n (s.rd d) (s.rd (d + 1))) r ∧ t.writes = s.writes ∧ Frame outstandingOf s.me s t))

/-- O26. LD, ST, AMO and CAS on a stoker perform at home at once, and later reads find them; what they load lands in their own cycle (R172, R177,
R318, R326, R344, R345, R391). -/
def Obligations.StokerMemory : Prop := ∀ (d a : BitVec 6) (sz : BitVec 2) (sx w : BitVec 1) (ord ordf scp : BitVec 3) (aop : BitVec 4)
    (s : State) (pa : Nat), isStoker s.me = true → scp.toNat ≤ 4 → s.ceMem = [] →
  (∀ n, n = 2 ^ sz.toNat → StokerAddr s (s.rd a) n pa →
    (ord = 0 ∨ ord = 1 ∨ ord = 4 → (sx = 1 → sz ≠ 3) → s.ueIn pa n = false →
      GivesScalar (.ld d a sz sx ord scp 0) s d 0 true (Loaded (decide (sx = 1)) n (s.homeNat pa n)))
    ∧ (ord = 0 ∨ ord = 2 ∨ ord = 4 → n = 8 ∨ regionOf pa ≠ .scratch ∨ s.ueIn pa n = false → Completes (.st d a sz ord scp 0) s (fun t =>
        HoldsAt t pa n ((s.rd d).toNat % 2 ^ (8 * n)) ∧ t.writes = s.writes ∧ FrameBut pa n noneOf s.me s t)))
  ∧ (∀ n, n = (if w = 1 then 8 else 4) → StokerAddr s (s.rd a) n pa → s.ueIn pa n = false → ord.toNat ≤ 4 →
    let old := s.homeNat pa n
    (aop.toNat < 9 → Completes (.amo d a aop w ord scp) s (fun t => ScalarJoins s t d 0 true (BitVec.ofNat 64 old)
        ∧ HoldsAt t pa n (Combined aop.toNat n old ((s.rd d).toNat % 2 ^ (8 * n))) ∧ t.writes = s.writes
        ∧ FrameBut pa n noneOf s.me s t))
    ∧ (d.toNat % 2 = 0 → ordf = 0 ∨ ordf = 1 ∨ ordf = 4 →
      Completes (.cas d a w ord ordf scp) s (fun t => ScalarJoins s t d 0 true (BitVec.ofNat 64 old)
        ∧ HoldsAt t pa n (if old = (s.rd d).toNat % 2 ^ (8 * n) then (s.rd (d + 1)).toNat % 2 ^ (8 * n) else old)
        ∧ t.writes = s.writes ∧ FrameBut pa n noneOf s.me s t)))

/-- O27. A write moves on toward home when nothing is in its way, and home holds it then; a remote read and an atomic take their value
when they perform (R150, R151, R157, R165). -/
def Obligations.AccessesPerform : Prop := ∀ (s : State),
  (∀ w, s.writes = [w] → s.reads = [] → s.fences = [] → w.hold = none → w.key = none → w.nextPlace = none → s.sched.migs = [] → s.hostUp = true → (∀ d, s.dieLinkLost d = false) →
    s.ueMem = [] → s.ceMem = [] → (s.core w.cid).queue = [] → s.mat = [] →
    Completes (.writeAdvance w.seq) s (fun t => t.writes = [] ∧ ∀ a,
      t.home a = (((w.bytes.reverse.find? (fun p => canonical p.1 == canonical a)).map Prod.snd).getD (s.home a))))
  ∧ (∀ w p, s.writes = [w] → s.reads = [] → s.fences = [] → w.hold = none → w.nextPlace = some p → (s.core w.cid).queue = [] → s.mat = [] →
    Completes (.writeAdvance w.seq) s (fun t => t.writes = [{ w with place := p }] ∧ SameMemory s t))
  ∧ (∀ r n sext, s.reads = [r] → r.kind = .load n sext → r.remote = true → r.hold = none → s.writes = [] → s.fences = [] → s.sched.migs = [] →
    s.hostUp = true → (∀ d, s.dieLinkLost d = false) → s.ueMem = [] → s.ceMem = [] → (s.core r.cid).queue = [] → s.mat = [] →
    Completes (.remoteReadPerform r.seq) s (fun t => t.reads = [] ∧ SameMemory s t
      ∧ t.core r.cid = (s.core r.cid).modFlight r.flight (fun f => Flight.partDone { f with sval := Loaded sext n (s.homeNat r.addr n) })))
  ∧ (∀ r op n x, s.reads = [r] → r.kind = .amo op n x → r.remote = true → r.hold = none → s.writes = [] → s.fences = [] →
    s.sched.migs = [] → s.hostUp = true → (∀ d, s.dieLinkLost d = false) → s.ueMem = [] → s.ceMem = [] → (s.core r.cid).queue = [] → s.mat = [] → n = 4 ∨ n = 8 →
    Completes (.atomicExecute r.seq) s (fun t => t.reads = [] ∧ SameBut r.addr n s t
      ∧ HoldsAt t r.addr n (Combined op n (s.homeNat r.addr n) (x.toNat % 2 ^ (8 * n)))
      ∧ t.core r.cid = (s.core r.cid).modFlight r.flight (fun f => Flight.partDone { f with sval := BitVec.ofNat 64 (s.homeNat r.addr n) })))
  ∧ (∀ r n x y, s.reads = [r] → r.kind = .cas n x y → r.remote = true → r.hold = none → s.writes = [] → s.fences = [] →
    s.sched.migs = [] → s.hostUp = true → (∀ d, s.dieLinkLost d = false) → s.ueMem = [] → s.ceMem = [] → (s.core r.cid).queue = [] → s.mat = [] → n = 4 ∨ n = 8 →
    let old := s.homeNat r.addr n
    Completes (.atomicExecute r.seq) s (fun t => t.reads = [] ∧ SameBut r.addr n s t
      ∧ HoldsAt t r.addr n (if old = x.toNat % 2 ^ (8 * n) then y.toNat % 2 ^ (8 * n) else old)
      ∧ t.core r.cid = (s.core r.cid).modFlight r.flight (fun f => Flight.partDone { f with sval := BitVec.ofNat 64 old })))
  ∧ (∀ r n sext, s.reads = [r] → r.kind = .load n sext → r.remote = false → r.hold = none → s.writes = [] → s.fences = [] → s.sched.migs = [] →
    s.hostUp = true → (∀ d, s.dieLinkLost d = false) → s.ueMem = [] → s.ceMem = [] → (s.core r.cid).queue = [] → s.mat = [] →
    Completes (.accessHoldRelease r.cid) s (fun t => t.reads = [] ∧ SameMemory s t
      ∧ t.core r.cid = (s.core r.cid).modFlight r.flight (fun f => Flight.partDone { f with sval := Loaded sext n (s.homeNat r.addr n) })))

/-- O28. What the address and order checks of LD and ST stop on a cell, before the bundle (R93, R163, R344, R391).
What the checks of a VA operation stop, before the bundle: a format that the operation does not take, and a field that its layout
does not allow (R300, R399, R400, R420).
A chained operation waits for the digits of its producer at the distance that it names, and is refused where R59 accepts no
producer there.
What the checks of the MAT and XFR slots stop, before the bundle (R304, R308, R358 to R361, R364, R365). -/
def Obligations.MemoryAndEngineChecksStop : Prop :=
  (
    ∀ (d a : BitVec 6) (sz : BitVec 2) (sx g : BitVec 1) (ord scp : BitVec 3) (s : State),
  isStoker s.me = false → s.ctx.checked = false →
  let x := (s.rd a).toNat
  let cid := if g = 1 then x / 2 ^ 22 % 2 ^ 10 else s.me
  let shown := if g = 1 then x % 2 ^ 32 else x % 2 ^ 22
  let n := 2 ^ sz.toNat
  (sx = 1 → sz = 3 → StopsWith (.ld d a sz sx ord scp g) s trapEncoding)
  ∧ (ord = 2 ∨ ord = 3 ∨ 5 ≤ ord.toNat ∨ 5 ≤ scp.toNat → (sx = 1 → sz ≠ 3) → StopsWith (.ld d a sz sx ord scp g) s (trapIL 0x08))
  ∧ (ord = 1 ∨ ord = 3 ∨ 5 ≤ ord.toNat ∨ 5 ≤ scp.toNat → StopsWith (.st d a sz ord scp g) s (trapIL 0x08))
  ∧ (scp.toNat ≤ 4 →
    (s.target s.me cid = none → StopsWith (.ld d a sz 0 0 scp g) s (trapAt 3 0x02 shown)
      ∧ StopsWith (.st d a sz 0 scp g) s (trapAt 3 0x02 shown))
    ∧ (∀ q, s.target s.me cid = some q →
      (x % 2 ^ 22 % n ≠ 0 → StopsWith (.ld d a sz 0 0 scp g) s (trapAt 2 0x00 shown)
        ∧ StopsWith (.st d a sz 0 scp g) s (trapAt 2 0x00 shown))
      ∧ (x % 2 ^ 22 % n = 0 → (s.core q).spcap < x % 2 ^ 22 + n → StopsWith (.ld d a sz 0 0 scp g) s (trapAt 8 0x00 shown)
        ∧ StopsWith (.st d a sz 0 scp g) s (trapAt 8 0x00 shown)))))
  ∧ (
    ∀ (f : FieldsVA) (g : FieldsVM) (s : State), s.ctx.checked = false →
  (isStoker s.me = true → StopsWith (.vadd f) s (trapIL 0x0D) ∧ StopsWith (.vld g) s (trapIL 0x0D) ∧ StopsWith .nopVec s (trapIL 0x0D))
  ∧ (isStoker s.me = false →
    (f.chs = 3 → StopsWith (.vadd f) s (trapIL 0x04) ∧ StopsWith (.vsub f) s (trapIL 0x04) ∧ StopsWith (.vmul f) s (trapIL 0x04)
      ∧ StopsWith (.vthr f) s (trapIL 0x04))
    ∧ (f.chs ≠ 0 → StopsWith (.vmov f) s (trapIL 0x04) ∧ StopsWith (.vred f) s (trapIL 0x04) ∧ StopsWith (.vcvt f) s (trapIL 0x04))
    ∧ (f.chs = 0 → f.c ≠ 0 → StopsWith (.vadd f) s trapEncoding ∧ StopsWith (.vand f) s trapEncoding)
    ∧ (f.chs = 0 → f.c = 0 → f.td = 1 → f.eph = 0 → f.cut = 0 → f.t.toNat ∈ [2, 3, 7, 11, 12, 13, 14, 15] → StopsWith (.vadd f) s (trapIL 0x07))
    ∧ (g.w = 3 ∨ (g.x = 1 ∧ g.w = 0) → StopsWith (.vld g) s trapEncoding)))
  ∧ (
    ∀ (f : FieldsVA) (s : State), isStoker s.me = false → s.ctx.checked = false →
  WellFormed (.vadd f) = true → f.chs ≠ 0 → f.td = 1 → f.t.toNat ≤ 1 → (s.cur.issuedAt (s.cur.cyc - f.distance) = none ∨ s.cur.cyc < f.distance) →
  StopsWith (.vadd f) s (trapIL 0x04))
  ∧ (
    ∀ (f : FieldsMX) (g : FieldsMT) (r : FieldsMR) (tl : BitVec 2) (tok : Tokens) (xs : BitVec 3)
    (d : BitVec 6) (ofs : BitVec 16) (str n : BitVec 6) (gofs : BitVec 17) (num : BitVec 8) (s : State), s.ctx.checked = false →
  (isStoker s.me = true →
    (∀ i ∈ [Instr.mma f, .mmas f, .mzero tl tok, .mldacc g, .mstacc g, .mrdacc r, .mabort tl tok, .nopMat], StopsWith i s (trapIL 0x0D))
    ∧ ∀ i ∈ [Instr.xstart xs d ofs str tok, .xstep xs n tok, .xkill xs, .xgath d gofs tok, .xcoll d gofs tok, .xskew d, .rawait d ofs num,
        .rrel ofs num], StopsWith i s trapEncoding)
  ∧ (isStoker s.me = false →
    let u := unfoldOf s.cur.unf0 s.cur.unf1
    let spcap := (s.core (s.engine s.me 4)).spcap
    let base (o : BitVec 16) : Nat := if s.ctx.reissue then (s.cur.latch 4).addr else 64 * o.toNat
    (3 < fmtMa s.cur.fmt ∨ 3 < fmtMb s.cur.fmt ∨ fmtMa s.cur.fmt ≠ u.ef → StopsWith (.mma f) s (trapIL 0x07) ∧ StopsWith (.mmas f) s (trapIL 0x07))
    ∧ (fmtMa s.cur.fmt ≤ 3 → fmtMb s.cur.fmt ≤ 3 → fmtMa s.cur.fmt = u.ef →
      (u.kh = 0 ∨ u.kw = 0 → StopsWith (.mma f) s (trapIL 0x0B) ∧ StopsWith (.mmas f) s (trapIL 0x0B))
      ∧ (u.kh ≠ 0 → u.kw ≠ 0 → spcap < base f.bofs + (f.ks.toNat + 1) * 32 * rowPitch (fmtMb s.cur.fmt) →
          StopsWith (.mma f) s (trapAt 8 0x00 (base f.bofs))))
    ∧ (g.f ≠ 0 → StopsWith (.mldacc g) s trapEncoding)
    ∧ (g.f = 0 → spcap < base g.ofs + 98304 → StopsWith (.mldacc g) s (trapAt 8 0x00 (base g.ofs)))
    ∧ (3 < g.f.toNat → StopsWith (.mstacc g) s (trapIL 0x07)) ∧ (3 < r.f.toNat → StopsWith (.mrdacc r) s (trapIL 0x07))
    ∧ (g.f.toNat ≤ 3 → spcap < base g.ofs + 128 * rowPitch g.f.toNat → StopsWith (.mstacc g) s (trapAt 8 0x00 (base g.ofs)))))

/-- O29. QPOLL reads 64 doorbell bits and clears them (R372); SIGW writes four doublewords at home (R386). Both are a stoker's.
TAGL finds the entry of a key, TAGS installs one and TAGI removes one, at the end of the cycle (R96, R97, R397); a table with an
uncorrectable error fails TAGL (R95; its detail is the model's choice, log 57). -/
def Obligations.StokerSignalsAndTags : Prop :=
  (
    ∀ (d a b : BitVec 6) (s : State),
  (isStoker s.me = true → Completes (.qpoll d a) s (fun t => ∃ v,
    let w := (s.rd a).toNat % 64
    ScalarJoins s t d 0 true v ∧ (∀ i, i < 64 → v.getLsbD i = mapGet false s.sched.bells (64 * w + i))
    ∧ (∀ q, mapGet false t.sched.bells q = (if q / 64 = w then false else mapGet false s.sched.bells q)) ∧ Frame noneOf s.me s t))
  ∧ (∀ pa, isStoker s.me = true → b.toNat % 4 = 0 → (s.rd a).toNat = 2 ^ 63 + pa → pa < 2 ^ 40 → pa % 32 = 0 → s.isHole pa = false →
    Completes (.sigw a b) s (fun t =>
      (∀ j : Nat, j < 4 → HoldsAt t (pa + 8 * j) 8 (s.rd (b + BitVec.ofNat 6 j)).toNat) ∧ FrameBut pa 32 noneOf s.me s t))
  ∧ (isStoker s.me = false → s.ctx.checked = false → StopsWith (.qpoll d a) s (trapOf 3 0x00) ∧ StopsWith (.sigw a b) s (trapOf 3 0x00)))
  ∧ (
    ∀ (d a b : BitVec 6) (s : State), isStoker s.me = false →
  let key : BitVec 52 := (s.rd a).truncate 52
  let k := s.cur
  let entry (k : Core) (n : Nat) : Option (BitVec 52) := mapGet none k.tags n
  (∀ n, n < 1024 → k.ueTags = [] → mapWf none k.tags = true → entry k n = some key → (∀ m, entry k m = some key → m = n) →
    Completes (.tagl d a) s (fun t => ScalarJoins s t d 2 false (BitVec.ofNat 64 n) ∧ Frame countersOf s.me s t))
  ∧ (k.ueTags = [] → mapWf none k.tags = true → (∀ m, entry k m ≠ some key) →
    Completes (.tagl d a) s (fun t => ScalarJoins s t d 2 false (BitVec.allOnes 64) ∧ Frame countersOf s.me s t))
  ∧ (s.ctx.checked = false → k.ueTags ≠ [] → StopsWith (.tagl d a) s (trapOf 5 0x00))
  ∧ ((s.rd a).toNat < 1024 → Completes (.tags a b) s (fun t => ∃ x, (t.core s.me).shadow = k.shadow ++ [x] ∧ x.left = 1
      ∧ OnlyCore s.me s t ∧ Frame noneOf s.me s t
      ∧ ∀ l : Core, mapWf none l.tags = true → entry (l.applyPending x) (s.rd a).toNat = some ((s.rd b).truncate 52)
        ∧ ∀ m, m ≠ (s.rd a).toNat → entry (l.applyPending x) m = if entry l m = some ((s.rd b).truncate 52) then none else entry l m))
  ∧ ((s.rd a).toNat < 1024 ∨ s.rd a = BitVec.allOnes 64 → Completes (.tagi a) s (fun t => ∃ x,
      (t.core s.me).shadow = k.shadow ++ [x] ∧ x.left = 1 ∧ OnlyCore s.me s t ∧ Frame noneOf s.me s t
      ∧ ∀ (l : Core) (m : Nat), entry (l.applyPending x) m
          = if m = (s.rd a).toNat ∨ s.rd a = BitVec.allOnes 64 then none else entry l m))
  ∧ (s.ctx.checked = false → 1024 ≤ (s.rd a).toNat → StopsWith (.tags a b) s (trapOf 8 0x01)
      ∧ (s.rd a ≠ BitVec.allOnes 64 → StopsWith (.tagi a) s (trapOf 8 0x01))))

/-! ## The tag table and the system registers (R90, R96, R97, R264, R267, R309, R357, R366, R380 to R390, R395, R397) -/

/-- O30. MFSR reads a register that the core's column lists, an event count as it stood when the cycle began (R227, R309, R357); TAGKEY of an
entry with an uncorrectable error stops (R95; its detail is the model's choice, log 57). -/
def Obligations.SystemReads : Prop := ∀ (d : BitVec 6) (n : BitVec 11) (s : State),
  (∀ v, s.readReg s.me n.toNat = some v → ¬ (0x078 ≤ n.toNat ∧ n.toNat ≤ 0x07F) → n ≠ 0x051 → GivesScalar (.mfsr d n) s d 1 false v)
  ∧ (∀ v, isStoker s.me = false → n = 0x051 → s.readReg s.me n.toNat = some v → s.cur.tagidx.toNat % 2 ^ 10 ∉ s.cur.ueTags →
    Completes (.mfsr d n) s (fun t => ScalarJoins s t d 1 false v ∧ Frame countersOf s.me s t))
  ∧ (isStoker s.me = false → n = 0x051 → s.ctx.checked = false → s.cur.tagidx.toNat % 2 ^ 10 ∈ s.cur.ueTags →
    StopsWith (.mfsr d n) s (trapOf 5 0x00))
  ∧ (∀ v, isStoker s.me = false → 0x078 ≤ n.toNat → n.toNat ≤ 0x07F → s.ctx.counts[n.toNat - 0x078]? = some v → GivesScalar (.mfsr d n) s d 1 false v)
  ∧ (s.ctx.checked = false → s.readReg s.me n.toNat = none → StopsWith (.mfsr d n) s trapEncoding)

/-- O31. MTSR: the columns of R309 (write, no effect, PR, unlisted), with the shadow of R90 for FMT, SCTAB and APX, and the end of the
cycle for the rest; a stoker's clears HARDTRIP at the end of its bundle (R6, R8, R307, R309, R366).
What a write by MTSR does to the register it names (R6, R8, R39, R70, R97, R124, R210, R219, R227). -/
def Obligations.SystemWrites : Prop :=
  (
    ∀ (a : BitVec 6) (n : BitVec 11) (s : State),
  (isStoker s.me = false →
    (n = 0x040 → Completes (.mtsr a n) s (fun t => OnlyCore s.me s t ∧ Frame noneOf s.me s t
      ∧ (t.core s.me).shadow = s.cur.shadow ++ [⟨1, 4, s.rd a &&& 0x03F73FFF⟩]))
    ∧ (n = 0x049 → Completes (.mtsr a n) s (fun t => OnlyCore s.me s t ∧ Frame noneOf s.me s t
      ∧ (t.core s.me).shadow = s.cur.shadow ++ [⟨9, 4, s.rd a &&& 0x1F3FFF⟩]))
    ∧ (∀ j, j < 4 → n.toNat = 0x042 + j → scalesOk (s.rd a) = true → Completes (.mtsr a n) s (fun t => OnlyCore s.me s t
      ∧ Frame noneOf s.me s t ∧ (t.core s.me).shadow = s.cur.shadow ++ [⟨2 + j, 4, s.rd a⟩]))
    ∧ (n.toNat ∈ [0x021, 0x030, 0x031, 0x041, 0x04A, 0x050, 0x052, 0x05A, 0x060, 0x061, 0x062] ∨ (0x070 ≤ n.toNat ∧ n.toNat ≤ 0x07F) →
      Completes (.mtsr a n) s (fun t => OnlyCore s.me s t ∧ Frame noneOf s.me s t
        ∧ ∃ x, (t.core s.me).shadow = s.cur.shadow ++ [x] ∧ x.left = 1 ∧ ∀ k : Core, k.applyPending x = k.writeReg n.toNat (s.rd a)))
    ∧ (n.toNat ∈ [0x000, 0x001, 0x002, 0x003, 0x005, 0x006, 0x007, 0x020, 0x022, 0x024, 0x025, 0x026, 0x032, 0x033, 0x046, 0x047, 0x048,
        0x051, 0x053, 0x054, 0x055, 0x05B, 0x063] ∨ (0x068 ≤ n.toNat ∧ n.toNat ≤ 0x06F) →
      Completes (.mtsr a n) s (fun t => OnlyCore s.me s t ∧ Frame noneOf s.me s t ∧ (t.core s.me).shadow = s.cur.shadow))
    ∧ (s.ctx.checked = false →
      (n.toNat ∈ [0x004, 0x023, 0x058, 0x059] ∨ (0x010 ≤ n.toNat ∧ n.toNat ≤ 0x01D) ∨ (0x080 ≤ n.toNat ∧ n.toNat ≤ 0x086) →
        StopsWith (.mtsr a n) s (trapOf 3 0x01))
      ∧ (n = 0x008 ∨ 0x087 ≤ n.toNat → StopsWith (.mtsr a n) s trapEncoding)))
  ∧ (isStoker s.me = true → n = 0x004 → Completes (.mtsr a n) s (fun t => Frame noneOf s.me s t
      ∧ t.ident = s.ident ∧ (t.owed.trip = true ↔ s.owed.trip = true ∨ (s.rd a).getLsbD 2 = true)))
  ∧ (s.owed.cycle = true → s.owed.trip = true → s.finishBundle.ident.hardtrip = false))
  ∧ (
    ∀ (k : Core) (v : Word),
  (k.writeReg 0x030 v).slack = v &&& 0xFFF ∧ (k.writeReg 0x031 v).skew = v &&& 0x3F3F3F
  ∧ (k.writeReg 0x041 v).vstat = k.vstat &&& ~~~v ∧ (k.writeReg 0x05A v).tokerr = k.tokerr &&& ~~~v
  ∧ (k.writeReg 0x060 v).hand.hvec = v &&& 0x3FFFF ∧ (k.writeReg 0x062 v).ycfg = v &&& 0x7FFFFFFFF
  ∧ (k.writeReg 0x061 v).hand.epc = (v &&& 0xFFFFFF) ||| (k.hand.epc &&& 0x8000000000000000)
  ∧ (∀ n, n < 8 → mapGet 0 (k.writeReg (0x078 + n) v).evcnt n = v &&& 0xFFFFFFFFFFFF
    ∧ (mapGet 0 (k.writeReg (0x070 + n) v).evsel n) &&& 0x1FF = v &&& 0x1FF))

/-- O32. The writes of the CFG slot, each with its cycles of shadow (R90, R380 to R390).
SUNF sets both words of the unfolding unit from a cached record and its operands (R140, R395, R396).
A pending write governs only once its cycles are up (R90): a shadowed write takes effect at the end of its cycle plus 3, so that
it governs from cycle t + 4, and a later one that overlaps it from its own. -/
def Obligations.ConfigWrites : Prop :=
  (
    ∀ (a : BitVec 6) (grp sl : BitVec 2) (v : BitVec 13) (fl ovs ndig : BitVec 3) (val qk e xf mt vc : BitVec 4)
    (theta : BitVec 8) (kk : BitVec 6) (s : State), isStoker s.me = false →
  let after (t left : Nat) (v : Word) : State := s.modCur (fun k => { k with shadow := k.shadow ++ [⟨t, left, v⟩] })
  Leads (.sfmtReg a) s (after 1 4 (s.rd a &&& 0x03F73FFF))
  ∧ (∀ lo n, (fl.toNat, lo, n) ∈ [(0, 0, 4), (1, 4, 4), (2, 8, 4), (3, 12, 2), (4, 16, 3)] → val.toNat < 2 ^ n →
      (∀ x ∈ s.cur.shadow, x.target ≠ 1) → ∃ w : Word, Leads (.sfmtField fl val) s (after 1 4 w)
        ∧ ∀ i, i < 64 → w.getLsbD i = if lo ≤ i ∧ i < lo + n then val.getLsbD (i - lo) else s.cur.fmt.getLsbD i)
  ∧ (scalesOk (s.rd a) = true → Leads (.sscl a grp) s (after (2 + grp.toNat) 4 (s.rd a)))
  ∧ (swizzleOk (v.toNat % 8) (v.toNat / 8 % 64) (v.toNat / 512 % 8) = true → Leads (.sswzImm v) s (after 6 4 (v.zeroExtend 64)))
  ∧ (swizzleOk ((s.rd a).toNat % 8) ((s.rd a).toNat / 8 % 64) ((s.rd a).toNat / 512 % 8) = true →
      Leads (.sswzReg a) s (after 6 4 (s.rd a &&& 0x1FFF)))
  ∧ (∀ t n o, (qk.toNat, t, n, o) ∈ [(0, 0, 0, 0), (1, 0, 0, 1), (2, 0, 0, 2), (3, 110, 0, 2), (4, 114, 0, 2), (5, 114, 5, 2), (6, 118, 5, 3),
        (7, 118, 4, 3), (8, 120, 4, 3), (9, 120, 3, 4), (10, 122, 3, 4), (11, 122, 2, 4), (12, 124, 2, 5), (13, 124, 2, 6), (14, 126, 1, 6),
        (15, 126, 1, 7)] → Leads (.sapxKnob qk) s (after 9 4 (BitVec.ofNat 64 (t + n * 2 ^ 8 + o * 2 ^ 11 + qk.toNat * 2 ^ 16))))
  ∧ ((∀ x ∈ s.cur.shadow, x.target ≠ 9) → Leads (.sapxExplicit ovs ndig theta) s (after 9 4 (BitVec.ofNat 64
      (theta.toNat + ndig.toNat * 2 ^ 8 + ovs.toNat * 2 ^ 11 + s.cur.apx.toNat / 2 ^ 16 % 16 * 2 ^ 16 + 2 ^ 20))))
  ∧ (s.bindCheck e.toNat sl.toNat = none → Leads (.sbind e sl) s (s.modCur (fun k => { k with bindReq := some (e.toNat, sl.toNat) })))
  ∧ (sl ≠ 3 → (∀ x ∈ s.cur.shadow, x.target ≠ 0x131) → ∃ w : Word, Leads (.sskew kk sl) s (after 0x131 1 w)
      ∧ ∀ i, i < 64 → w.getLsbD i
          = if 8 * sl.toNat ≤ i ∧ i < 8 * sl.toNat + 6 then kk.getLsbD (i - 8 * sl.toNat) else s.cur.skew.getLsbD i)
  ∧ Leads (.sslk xf mt vc) s (after 0x130 1 (BitVec.ofNat 64 (vc.toNat + mt.toNat * 2 ^ 4 + xf.toNat * 2 ^ 8))))
  ∧ (
    ∀ (a b : BitVec 6) (r : CachedRecord) (s : State), isStoker s.me = false →
  s.cur.cachedRecord ((s.rd a).toNat % 2 ^ 16) = some r → s.sunfCheck (s.rd a) (s.rd b) = none →
  Completes (.sunf a b) s (fun t => ∃ u0 u1 : Word, t = s.modCur (fun k => { k with shadow := k.shadow ++ [⟨7, 4, u0⟩, ⟨8, 4, u1⟩] })
    ∧ u0.toNat = (s.rd a).toNat / 2 ^ 16 % 2 ^ 22 + r.w3.toNat % 2 ^ 16 * 2 ^ 32 + r.w3.toNat / 2 ^ 16 % 2 ^ 16 * 2 ^ 48
    ∧ u1.toNat = r.w3.toNat / 2 ^ 32 % 2 ^ 16 + r.w3.toNat / 2 ^ 48 % 2 ^ 4 * 2 ^ 16 + (s.rd b).toNat % 2 ^ 32 * 2 ^ 20))
  ∧ (
    ∀ (k : Core) (v w : Word),
  (k.shadow = [⟨1, 4, v⟩] →
    k.tickPending.fmt = k.fmt ∧ k.tickPending.tickPending.fmt = k.fmt ∧ k.tickPending.tickPending.tickPending.fmt = k.fmt
    ∧ k.tickPending.tickPending.tickPending.tickPending.fmt = v ∧ k.tickPending.tickPending.tickPending.tickPending.shadow = [])
  ∧ (k.shadow = [⟨1, 3, v⟩, ⟨1, 4, w⟩] →
    k.tickPending.tickPending.tickPending.fmt = v ∧ k.tickPending.tickPending.tickPending.tickPending.fmt = w)
  ∧ (k.shadow = [⟨9, 1, v⟩] → k.tickPending.apx = v ∧ k.tickPending.fmt = k.fmt))

/-! ## Vector operations (R57 to R66, R75, R78, R79, R85, R86, R269, R399 to R433) -/

/-- O33. The integer VA operations: sums, differences, products, minima, maxima, absolute values and negations mod 2^w (R402, R403, R417,
R419, R421, R429), and VCMP's conditions (R328, R407). -/
def Obligations.VectorIntegers : Prop := ∀ (f : FieldsVA) (s : State) (t : Nat), VecReady s → t ∈ [4, 5, 6, 8, 9, 10] →
  let a (l : Nat) : Int := laneInt t (s.vlane f.a l)
  let b (l : Nat) : Int := laneInt t (s.vlane f.b l)
  let gives (i : Instr) (lat : Nat) (v : Nat → Int) : Prop := Plain i f s t →
    GivesLanes i s (.vector f.d.toNat) lat 0 (s.vact f.p) (fun l => intLane t (v l)) (fun _ => 0)
  gives (.vadd f) 2 (fun l => a l + b l) ∧ gives (.vsub f) 2 (fun l => a l - b l) ∧ gives (.vmul f) 3 (fun l => a l * b l)
  ∧ gives (.vmin f) 2 (fun l => min (a l) (b l)) ∧ gives (.vmax f) 2 (fun l => max (a l) (b l))
  ∧ gives (.vabs f) 2 (fun l => ((a l).natAbs : Int)) ∧ gives (.vneg f) 2 (fun l => - a l)
  ∧ (Plain (.vcmp f) f s t → ∃ v : Nat → Lane, GivesLanes (.vcmp f) s (.pred f.d.toNat) 2 0 (s.vact f.p) v (fun _ => 0)
      ∧ ∀ l, l < 128 → (v l = 1 ∨ v l = 0) ∧ (v l = 1 ↔ match f.c.toNat with
          | 0 => a l = b l
          | 1 => a l ≠ b l
          | 2 => (a l).bmod (2 ^ formatWidth t) < (b l).bmod (2 ^ formatWidth t)
          | 3 => (a l).bmod (2 ^ formatWidth t) ≤ (b l).bmod (2 ^ formatWidth t)
          | 4 => (b l).bmod (2 ^ formatWidth t) < (a l).bmod (2 ^ formatWidth t)
          | 5 => (b l).bmod (2 ^ formatWidth t) ≤ (a l).bmod (2 ^ formatWidth t)
          | 6 => (a l) % (2 ^ formatWidth t : Nat) < (b l) % (2 ^ formatWidth t : Nat)
          | 7 => (a l) % (2 ^ formatWidth t : Nat) ≤ (b l) % (2 ^ formatWidth t : Nat)
          | 8 => (b l) % (2 ^ formatWidth t : Nat) < (a l) % (2 ^ formatWidth t : Nat)
          | _ => (b l) % (2 ^ formatWidth t : Nat) ≤ (a l) % (2 ^ formatWidth t : Nat)))

/-- O34. The VA operations on bits, and the moves: VAND, VOR, VXOR, VSHL, VSHR, VBCST, VMOV, VSEL, VPERM and VIDX (R405, R406, R416, R418,
R422, R423, R427, R428). -/
def Obligations.VectorBitsAndMoves : Prop := ∀ (f : FieldsVA) (s : State) (t : Nat), VecReady s →
  let w := formatWidth t
  let a (l : Nat) : Nat := (s.vlane f.a l).toNat % 2 ^ w
  let b (l : Nat) : Nat := (s.vlane f.b l).toNat % 2 ^ w
  let gives (i : Instr) (lat : Nat) (v : Nat → Lane) : Prop := Plain i f s t →
    GivesLanes i s (.vector f.d.toNat) lat 0 (s.vact f.p) v (fun _ => 0)
  (t ∈ [0, 1, 4, 5, 6, 8, 9, 10, 12, 13, 14] →
    gives (.vand f) 1 (fun l => intLane t (a l &&& b l : Nat)) ∧ gives (.vor f) 1 (fun l => intLane t (a l ||| b l : Nat))
    ∧ gives (.vxor f) 1 (fun l => intLane t (a l ^^^ b l : Nat)) ∧ gives (.vbcst f) 1 (fun _ => intLane t ((s.rd f.b).toNat : Int)))
  ∧ (t ∈ [4, 5, 6, 8, 9, 10, 12, 13, 14] →
    gives (.vshl f) 1 (fun l => intLane t (if b l < w then (a l * 2 ^ b l : Nat) else 0))
    ∧ gives (.vshr f) 1 (fun l => intLane t ((laneInt t (s.vlane f.a l)).fdiv (2 ^ (min (b l) w) : Nat))))
  ∧ gives (.vmov f) 1 (fun l => s.vlane f.a l)
  ∧ gives (.vsel f) 1 (fun l => if ((s.core (s.engine s.me 3)).pred (f.c.toNat % 8)).getLsbD l then s.vlane f.a l else s.vlane f.b l)
  ∧ gives (.vperm f) 2 (fun l => s.vlane f.a ((s.vlane f.b l).toNat % 128))
  ∧ gives (.vidx f) 1 (fun l => BitVec.ofNat 32 l)

/-- O35. The float VA operations, lane by lane, with the latencies of R58: each result is the rounded result of the exact operation in the
captured mode, with the flags of its lane (R401, R402, R407, R410 to R412, R417, R419, R421, R426, R429, R430). -/
def Obligations.VectorFloats : Prop := ∀ (f : FieldsVA) (s : State) (t : Nat), VecReady s → t = 0 ∨ t = 1 →
  let m : Mode := modeOf (s.cur.fmt.toNat / 2 ^ 12 % 4)
  let nd : Nat := s.cur.apx.toNat / 2 ^ 8 % 8
  let digits : Nat := if t = 0 then 6 else 2
  let a (l : Nat) : Value := laneFloat t (s.vlane f.a l)
  let b (l : Nat) : Value := laneFloat t (s.vlane f.b l)
  let c (l : Nat) : Value := laneFloat t (s.vlane f.c l)
  let gives (i : Instr) (lat : Nat) (v : Nat → Result) : Prop := Plain i f s t →
    GivesLanes i s (.vector f.d.toNat) lat 0 (s.vact f.p) (fun l => floatLane t (v l).1) (fun l => (v l).2)
  gives (.vadd f) (1 + digits) (fun l => addValues t m (a l) (b l))
  ∧ gives (.vsub f) (1 + digits) (fun l => addValues t m (a l) (b l).negate)
  ∧ gives (.vmul f) (2 + digits) (fun l => mulValues t m (a l) (truncateDigits nd (b l)))
  ∧ gives (.vfma f) (2 + digits) (fun l => fmaValues t m (a l) (truncateDigits nd (b l)) (c l))
  ∧ gives (.vdiv f) (3 + digits) (fun l => divValues t m (a l) (b l))
  ∧ gives (.vsqrt f) (3 + digits) (fun l => sqrtValue t m (a l))
  ∧ gives (.vrsq f) (3 + digits) (fun l => rsqrtValue t m (a l))
  ∧ gives (.vexp f) (3 + digits) (fun l => expValue t m (a l))
  ∧ gives (.vabs f) 1 (fun l => ((s.vlane f.a l).toNat % 2 ^ (formatWidth t - 1), 0))
  ∧ gives (.vneg f) 1 (fun l => (((s.vlane f.a l).toNat % 2 ^ formatWidth t) ^^^ 2 ^ (formatWidth t - 1), 0))
  ∧ gives (.vmin f) 2 (fun l => if (a l).isNaN || (b l).isNaN then nanResult t ((a l).isSignalling || (b l).isSignalling)
      else ((if valueLtZero (b l) (a l) then s.vlane f.b l else s.vlane f.a l).toNat % 2 ^ formatWidth t, 0))
  ∧ gives (.vmax f) 2 (fun l => if (a l).isNaN || (b l).isNaN then nanResult t ((a l).isSignalling || (b l).isSignalling)
      else ((if valueLtZero (a l) (b l) then s.vlane f.b l else s.vlane f.a l).toNat % 2 ^ formatWidth t, 0))
  ∧ gives (.vthr f) (1 + digits) (fun l =>
      let h := floatValue t ((s.rd f.b).toNat % 2 ^ formatWidth t)
      if (a l).isNaN || h.isNaN then nanResult t ((a l).isSignalling || h.isSignalling || (h.isNaN && !(a l).isNaN))
      else if valueLt (a l) h then (0, 0) else ((s.vlane f.a l).toNat % 2 ^ formatWidth t, 0))
  ∧ (Plain (.vcmp f) f s t → f.c.toNat ≤ 5 → ∃ (v : Nat → Lane) (fl : Nat → Flags),
      GivesLanes (.vcmp f) s (.pred f.d.toNat) (1 + digits) 0 (s.vact f.p) v fl
      ∧ ∀ l, l < 128 → (v l = 1 ∨ v l = 0)
        ∧ (v l = 1 ↔ match f.c.toNat with
          | 0 => valueEq (a l) (b l) = true
          | 1 => valueEq (a l) (b l) = false
          | 2 => valueLt (a l) (b l) = true
          | 3 => valueLt (a l) (b l) = true ∨ valueEq (a l) (b l) = true
          | 4 => valueLt (b l) (a l) = true
          | _ => valueLt (b l) (a l) = true ∨ valueEq (a l) (b l) = true)
        ∧ (fl l = if (a l).isSignalling || (b l).isSignalling || (((a l).isNaN || (b l).isNaN) && decide (2 ≤ f.c.toNat)) then flagInv else 0))

/-- O36. Reductions and conversions: VRED, VAMAX, VCVT and VQNT (R66, R82, R83, R85, R86, R404, R409, R424, R425). The bits that a raw
target takes of a block element are the model's reading (log 17). -/
def Obligations.VectorReductionsAndConversions : Prop := ∀ (f : FieldsVA) (s : State) (t : Nat), VecReady s →
  let m : Mode := modeOf (s.cur.fmt.toNat / 2 ^ 12 % 4)
  let active : List Nat := (List.range 128).filter (s.vact f.p)
  (t ∈ [4, 5, 6, 8, 9, 10] → Plain (.vred f) f s t →
    GivesLanes (.vred f) s (.vector f.d.toNat) 4 0 (fun _ => true)
      (fun _ => intLane t ((active.map (fun l => laneInt t (s.vlane f.a l))).sum)) (fun _ => 0))
  ∧ (t = 0 ∨ t = 1 → Plain (.vred f) f s t →
    let r := sumValues t m (active.map (fun l => laneFloat t (s.vlane f.a l)))
    GivesLanes (.vred f) s (.vector f.d.toNat) 10 r.2 (fun _ => true) (fun _ => floatLane t r.1) (fun _ => 0))
  ∧ (t = 0 ∨ t = 1 → Plain (.vamax f) f s t →
    let r (b : Nat) : Result := amaxBlock t ((active.filter (fun l => l / 32 == b)).map (fun l => laneFloat t (s.vlane f.a l)))
    GivesLanes (.vamax f) s (.vector f.d.toNat) 4 ((r 0).2 ||| (r 1).2 ||| (r 2).2 ||| (r 3).2) (s.vact f.p)
      (fun l => floatLane t (r (l / 32)).1) (fun _ => 0))
  ∧ (t ∈ [0, 1, 4, 5, 6, 8, 9, 10, 12, 13, 14] → f.td = 1 → f.c.toNat ∈ [0, 1, 4, 5, 6, 8, 9, 10, 12, 13, 14] → Plain (.vcvt f) f s t →
    let r (l : Nat) : Result := convertLane f.c.toNat t (if f.b = 0 then m else modeOf (f.b.toNat - 1)) (s.vlane f.a l).toNat
    GivesLanes (.vcvt f) s (.vector f.d.toNat) 4 0 (s.vact f.p) (fun l => intLane t ((r l).1 : Int)) (fun l => (r l).2))
  ∧ (t ∈ [0, 1, 4, 5, 6, 8, 9, 10, 12, 13, 14] → f.td = 1 → f.c = 2 ∨ f.c = 3 → Plain (.vcvt f) f s t →
    let byte (i : Nat) : Nat := (s.vlane f.a (i / 4)).toNat / 256 ^ (i % 4) % 256
    let r (l : Nat) : Result := if 12 ≤ t then (groupCode f.c.toNat byte l % 2 ^ formatWidth t, 0)
      else convertValue t (if f.b = 0 then m else modeOf (f.b.toNat - 1)) (groupElement f.c.toNat s.cur.capture.scales byte l)
    GivesLanes (.vcvt f) s (.vector f.d.toNat) 4 0 (s.vact f.p) (fun l => intLane t ((r l).1 : Int)) (fun l => (r l).2))
  ∧ (t = 2 ∨ t = 3 → f.td = 1 → s.cur.fmt.toNat % 16 ≤ 1 → Plain (.vqnt f) f s t →
    let vf := s.cur.fmt.toNat % 16
    let q := quantise t f.b.toNat (s.cur.fmt.toNat / 2 ^ 16 % 8) s.cur.capture.scales m
      ((List.range 128).map (fun l => laneFloat vf (s.vlane f.a l)))
    GivesLanes (.vqnt f) s (.vector f.d.toNat) 6 q.2.2 (fun _ => true)
      (fun l => BitVec.ofNat 32 (bytesNat (((groupBytes t q.1 q.2.1).drop (4 * l)).take 4))) (fun _ => 0))

/-- O37. A vector result lands at the end of the schedule cycle in which its latency is over: its active lanes are written in the engine's
cell, its flags join VSTAT, and the other lanes keep what they held (R32, R43, R70, R75). -/
def Obligations.VectorResultsLand : Prop := ∀ (s : State) (f : Flight) (r : Nat), (s.core f.eng).flights = [f] → f.dest = .vector r →
  f.kind ≠ 3 → f.fault = none → f.rem = 0 → f.open_ = false → f.eph = false → f.landed = false → f.skewl = 0 → f.lanes.length = 128 →
  arDetail (f.allFlags &&& trapMask f.fmt) = none → f.tok = 0 → f.cnt = .none → (∀ d g t, f.op ≠ .xcoll d g t) → (s.core f.eng).queue = [] →
  let t := s.tickFlight f.eng f.seq
  (∀ l x, f.lanes[l]? = some x → (t.core f.eng).lane r l = if x.act then x.val else (s.core f.eng).lane r l)
  ∧ (∀ q l, q ≠ r → l < 128 → (t.core f.eng).lane q l = (s.core f.eng).lane q l)
  ∧ (t.core f.eng).vstat = (s.core f.eng).vstat ||| f.allFlags.zeroExtend 64
  ∧ (t.core f.eng).flights = [] ∧ (∀ q, (t.core f.eng).reg q = (s.core f.eng).reg q) ∧ SameMemory s t

/-- O38. The special operands of R401, R410 and R426 by cases: NaNs and INV, infinities, divisions by zero and roots of negatives. -/
def Obligations.FloatSpecialCases : Prop := ∀ (t : Nat) (m : Mode) (x y : Value) (n p : Bool) (k : Nat) (e : Int), t ≤ 1 →
  let nan : Nat := if t = 0 then 0x7FC00000 else 0x7FC0
  let inf (q : Bool) : Nat := (if t = 0 then 0x7F800000 else 0x7F80) + (if q then 2 ^ (formatWidth t - 1) else 0)
  let zero (q : Bool) : Nat := if q then 2 ^ (formatWidth t - 1) else 0
  (x.isNaN = true ∨ y.isNaN = true → ∀ g ∈ [addValues t m, divValues t m],
    g x y = (nan, if x.isSignalling || y.isSignalling then flagInv else 0))
  ∧ addValues t m (.inf n) (.inf (!n)) = (nan, flagInv) ∧ addValues t m (.inf n) (.inf n) = (inf n, 0)
  ∧ addValues t m (.inf n) (.fin p k e) = (inf n, 0)
  ∧ mulValues t m (.inf n) (.fin p 0 e) = (nan, flagInv) ∧ (k ≠ 0 → mulValues t m (.inf n) (.fin p k e) = (inf (n != p), 0))
  ∧ fmaValues t m (.fin p 0 e) (.inf n) (.nan false) = (nan, flagInv)
  ∧ divValues t m (.inf n) (.inf p) = (nan, flagInv) ∧ divValues t m (.fin n 0 e) (.fin p 0 e) = (nan, flagInv)
  ∧ (k ≠ 0 → divValues t m (.fin n k e) (.fin p 0 e) = (inf (n != p), flagDz))
  ∧ divValues t m (.fin n k e) (.inf p) = (zero (n != p), 0)
  ∧ sqrtValue t m (.fin n 0 e) = (zero n, 0) ∧ (k ≠ 0 → sqrtValue t m (.fin true k e) = (nan, flagInv))
  ∧ sqrtValue t m (.inf true) = (nan, flagInv) ∧ sqrtValue t m (.inf false) = (inf false, 0)
  ∧ rsqrtValue t m (.fin n 0 e) = (inf n, flagDz) ∧ rsqrtValue t m (.inf false) = (0, 0)
  ∧ expValue t m (.inf true) = (0, 0) ∧ expValue t m (.inf false) = (inf false, 0)

/-- O39. Round (R79) is correct rounding: of a positive magnitude below 2^128, toward zero gives the greatest pattern not above it, up the
least not below it, and to nearest the nearer of the two, the even one at a tie; INX says that it is not exact. -/
def Obligations.RoundsToNeighbours : Prop := ∀ (t num den : Nat), t ≤ 1 → 0 < num → 0 < den → num < 2 ^ 128 * den →
  let z := (roundFloat t .rtz false num den).1
  let x := num * 2 ^ 149
  magnitudeOf t z * den ≤ x ∧ x < magnitudeOf t (z + 1) * den
  ∧ (roundFloat t .rdn false num den).1 = z
  ∧ (roundFloat t .rup false num den).1 = (if magnitudeOf t z * den = x then z else z + 1)
  ∧ (roundFloat t .rne false num den).1
      = (if 2 * x < (magnitudeOf t z + magnitudeOf t (z + 1)) * den then z
        else if (magnitudeOf t z + magnitudeOf t (z + 1)) * den < 2 * x then z + 1 else z + z % 2)
  ∧ ((roundFloat t .rtz false num den).2.getLsbD 4 = true ↔ magnitudeOf t z * den ≠ x)

/-- O40. VLD, VST, VGTH and VSCT: on the cell's own scratchpad, what the lanes read or what is written, at the address that the operands
give, with the token and the counter that each raises; on another cell's by a global address, the reads and the writes that set out,
one for each active lane, with vD scoreboarded (R92, R306, R413 to R415, R431 to R433). -/
def Obligations.VectorMemory : Prop := ∀ (f : FieldsVM) (g : FieldsVG) (s : State), VecReady s → s.engine s.me 3 = s.me → s.cur.banks = [] → s.taken = [] →
  s.Quiet → s.mat = [] → s.ueMem = [] → s.ceMem = [] →
  let k := s.cur
  let active (p : BitVec 3) : List Nat := (List.range 128).filter (s.vact p)
  (k.waitsOn f.tok = [] →
    let sum : Int := if s.ctx.reissue then ((k.latch 3).addr : Int) else ((s.rd f.a).toNat % 2 ^ 32 : Int) + 64 * f.ofs.toInt
    let off : Nat := sum.toNat % 2 ^ 22
    let cid : Nat := sum.toNat / 2 ^ 22
    let n : Nat := 2 ^ (2 - f.w.toNat)
    let raised (cnt : Counter) (t : State) : Prop := (t.core s.me).counter cnt = k.counter cnt + 1
      ∧ (f.tok.tp ≠ 0 → (t.core s.me).tokCount f.tok.tp.toNat = k.tokCount f.tok.tp.toNat + 1)
    0 ≤ sum → sum < 2 ^ 32 → off % 64 = 0 →
    (f.g = 0 ∨ cid = s.me → off + 128 * n ≤ k.spcap →
      (WellFormed (.vld f) = true → Completes (.vld f) s (fun t => ∃ fl : Flight, fl ∈ (t.core s.me).flights ∧ fl.seq = s.seq + 1
        ∧ fl.dest = .vector f.d.toNat ∧ fl.rem = 6 ∧ fl.open_ = false ∧ fl.fault = none ∧ raised .ld t
        ∧ (∀ l, l < 128 → ∃ x, fl.lanes[l]? = some x ∧ x.act = s.vact f.p l
          ∧ (x.act = true → x.val = (Loaded (decide (f.x = 1)) n (s.homeNat (spKey s.me (off + n * l)) n)).truncate 32))
        ∧ t.writes = [] ∧ t.reads = [] ∧ Frame outstandingOf s.me s t))
      ∧ (WellFormed (.vst f) = true → (∃ l, l < 128 ∧ s.vact f.p l = true) → Completes (.vst f) s (fun t => ∃ (w : PendWrite) (fl : Flight),
        t.writes = [w] ∧ w.cid = s.me ∧ w.place = .queue
        ∧ w.bytes = (active f.p).flatMap (fun l => bytesAt (spKey s.me off + n * l) n (s.vlane f.d l).toNat)
        ∧ fl ∈ (t.core s.me).flights ∧ fl.seq = s.seq + 1 ∧ fl.open_ = true ∧ raised .st t ∧ Frame outstandingOf s.me s t)))
    ∧ (∀ q, f.g = 1 → s.target s.me cid = some q → q ≠ s.me → off + 128 * n ≤ (s.core q).spcap →
      (WellFormed (.vld f) = true → Completes (.vld f) s (fun t => ∃ fl : Flight, fl ∈ (t.core s.me).flights ∧ fl.seq = s.seq + 1
        ∧ fl.dest = .vector f.d.toNat ∧ fl.sb = true ∧ fl.parts = (active f.p).length ∧ raised .ld t ∧ t.writes = []
        ∧ t.reads.map PendRead.addr = (active f.p).map (fun l => spKey q off + n * l)
        ∧ t.reads.map PendRead.kind = (active f.p).map (fun l => ReadKind.lane l n (f.x == 1))
        ∧ (∀ r ∈ t.reads, r.cid = s.me ∧ r.remote = true ∧ r.flight = s.seq + 1) ∧ Frame outstandingOf s.me s t))
      ∧ (WellFormed (.vst f) = true → Completes (.vst f) s (fun t => ∃ fl : Flight, fl ∈ (t.core s.me).flights ∧ fl.seq = s.seq + 1
        ∧ fl.parts = (active f.p).length ∧ raised .st t ∧ t.reads = []
        ∧ t.writes.map PendWrite.bytes = (active f.p).map (fun l => bytesAt (spKey q off + n * l) n (s.vlane f.d l).toNat)
        ∧ (∀ w ∈ t.writes, w.cid = s.me ∧ w.place = .queue) ∧ Frame outstandingOf s.me s t))))
  ∧ (k.waitsOn g.tok = [] →
    let n : Nat := 2 ^ (2 - g.w.toNat)
    let sum (l : Nat) : Nat := ((s.rd g.a).toNat + (s.vlane g.b l).toNat) % 2 ^ 32
    let off (l : Nat) : Nat := sum l % 2 ^ 22
    ((∀ l ∈ active g.p, (g.g = 0 ∨ sum l / 2 ^ 22 = s.me) ∧ off l % n = 0 ∧ off l + n ≤ k.spcap) →
      extraRows ((active g.p).map off) = 0 →
      (WellFormed (.vgth g) = true → Completes (.vgth g) s (fun t => ∃ fl : Flight, fl ∈ (t.core s.me).flights ∧ fl.seq = s.seq + 1
        ∧ fl.dest = .vector g.d.toNat ∧ fl.rem = 8 ∧ fl.open_ = false ∧ fl.fault = none
        ∧ (∀ l, l < 128 → ∃ x, fl.lanes[l]? = some x ∧ x.act = s.vact g.p l
          ∧ (x.act = true → x.val = (Loaded (decide (g.x = 1)) n (s.homeNat (spKey s.me (off l)) n)).truncate 32))
        ∧ t.writes = [] ∧ t.reads = [] ∧ Frame outstandingOf s.me s t))
      ∧ (WellFormed (.vsct g) = true → (∃ l, l < 128 ∧ s.vact g.p l = true) → Completes (.vsct g) s (fun t => ∃ w : PendWrite,
        t.writes = [w] ∧ w.cid = s.me
        ∧ (∀ a, (w.bytes.find? (fun p => p.1 == a)).map Prod.snd
            = ((((active g.p).flatMap (fun l => bytesAt (spKey s.me (off l)) n (s.vlane g.d l).toNat)).reverse.find?
                (fun p => p.1 == a)).map Prod.snd))
        ∧ Frame outstandingOf s.me s t)))
    ∧ (∀ at_ : Nat → Nat, g.g = 1 →
      (∀ l ∈ active g.p, ∃ q, s.target s.me (sum l / 2 ^ 22) = some q ∧ off l % n = 0 ∧ off l + n ≤ (s.core q).spcap ∧ at_ l = spKey q (off l)) →
      (∃ l ∈ active g.p, s.target s.me (sum l / 2 ^ 22) ≠ some s.me) →
      extraRows (((active g.p).filter (fun l => s.target s.me (sum l / 2 ^ 22) == some s.me)).map off) = 0 →
      (WellFormed (.vgth g) = true → Completes (.vgth g) s (fun t => ∃ fl : Flight, fl ∈ (t.core s.me).flights ∧ fl.seq = s.seq + 1
        ∧ fl.dest = .vector g.d.toNat ∧ fl.sb = true ∧ fl.parts = (active g.p).length ∧ t.writes = []
        ∧ t.reads.map PendRead.addr = (active g.p).map at_
        ∧ t.reads.map PendRead.kind = (active g.p).map (fun l => ReadKind.lane l n (g.x == 1))
        ∧ (∀ r ∈ t.reads, r.cid = s.me ∧ r.remote = true ∧ r.flight = s.seq + 1) ∧ Frame outstandingOf s.me s t))
      ∧ (WellFormed (.vsct g) = true → Completes (.vsct g) s (fun t => t.reads = []
        ∧ (∀ l ∈ active g.p, s.target s.me (sum l / 2 ^ 22) ≠ some s.me → ∃ w ∈ t.writes, w.bytes = bytesAt (at_ l) n (s.vlane g.d l).toNat)
        ∧ (∀ w ∈ t.writes, w.cid = s.me ∧ w.place = .queue)
        ∧ (∀ a, ((t.writes.flatMap PendWrite.bytes).reverse.find? (fun p => p.1 == a)).map Prod.snd
            = (((active g.p).flatMap (fun l => bytesAt (at_ l) n (s.vlane g.d l).toNat)).reverse.find? (fun p => p.1 == a)).map Prod.snd)
        ∧ Frame outstandingOf s.me s t))))

/-! ## The MAT slot (R67, R349 to R368) -/

/-- O41. The MAT slot's instructions are accepted with what they captured; MRDACC reads a row of a tile, and MABORT ends the array
operation on its tile with the steps that it has written (R349, R355, R358, R359, R361, R364, R365, R368).
An accepted operation that nothing holds back begins; an array operation fetches its first step and is given its length; a
step is written into every entry of its tile, rounded once over the products that are formed, and into no other tile (R268, R349, R350, R352, R359, R360).
The place of an aborted operation until the cycle ends is the model's choice (log 45). -/
def Obligations.MatrixInstructions : Prop :=
  (
    ∀ (f : FieldsMX) (g : FieldsMT) (r : FieldsMR) (tl : BitVec 2) (tok : Tokens) (s : State),
  let eng := s.engine s.me 4
  let base (o : BitVec 16) : Nat := if s.ctx.reissue then (s.cur.latch 4).addr % 2 ^ 64 else 64 * o.toNat
  let row0 (o : BitVec 6) : Nat := if s.ctx.reissue then (s.cur.latch 4).row0 % 2 ^ 64 else (s.rd o).toNat % 2 ^ 32
  let k0 (o : BitVec 6) : Nat := if s.ctx.reissue then (s.cur.latch 4).k0 % 2 ^ 64 else (s.rd o).toNat / 2 ^ 32
  (MatReady s f.tok → matCheck (.mma f) s = none →
    MatJoins (.mma f) s f.tl.toNat (base f.bofs) (row0 f.o) (k0 f.o))
  ∧ (MatReady s f.tok → matCheck (.mmas f) s = none →
    MatJoins (.mmas f) s f.tl.toNat (base f.bofs) (row0 f.o) (k0 f.o))
  ∧ (MatReady s tok → MatJoins (.mzero tl tok) s tl.toNat 0 0 0)
  ∧ (MatReady s g.tok → matCheck (.mldacc g) s = none → MatJoins (.mldacc g) s g.tl.toNat (base g.ofs) 0 0)
  ∧ (MatReady s g.tok → matCheck (.mstacc g) s = none → MatJoins (.mstacc g) s g.tl.toNat (base g.ofs) 0 0)
  ∧ (MatReady s r.tok → r.f.toNat ≤ 3 → Completes (.mrdacc r) s (fun t => ∃ x,
      let row := convertRow r.f.toNat s.cur.capture ((s.core eng).tileRow r.tl.toNat r.row.toNat)
      Flies s t (.vecScalar r.d.toNat r.e.toNat) false x ∧ x.eng = eng ∧ x.rem = 4 ∧ x.sval = s.mrdStatus eng r.tl.toNat ∧ x.flags = row.2
      ∧ (∀ l, l < 128 → ∃ y, x.lanes[l]? = some y ∧ y.act = true
          ∧ y.val.toNat = (if r.f.toNat ≤ 1 then row.1.getD l 0 else bytesNat ((row.1.drop (4 * l)).take 4)) % 2 ^ 32)
      ∧ t.mat = s.mat ∧ Frame outstandingOf s.me s t))
  ∧ (∀ m, MatReady s tok → s.mat = [m] → m.onArray = true → m.begun = true → m.held = 0 → m.eng = eng → eng = s.me → m.owner = s.me →
      m.tile = tl.toNat → Completes (.mabort tl tok) s (fun t =>
        t.mat = [{ m with held := 3, opA := [], opB := [], left := [] }] ∧ mapGet 0 (t.core eng).kdone tl.toNat = (if m.done = 0 then mapGet 0 (s.core eng).kdone tl.toNat else m.done + 256)
        ∧ (∀ x, x ≠ tl.toNat → mapGet 0 (t.core eng).kdone x = mapGet 0 (s.core eng).kdone x) ∧ Frame outstandingOf s.me s t)))
  ∧ (
    ∀ (s : State) (m : MatOp), s.mat = [m] → m.held = 0 → m.fault = none →
  (m.begun = false → m.len = 0 → (∃ tl tok, m.op = .mzero tl tok) ∨ (∃ g, m.op = .mldacc g) → s.fences = [] →
    Leads (.matOperationBegin m.owner) s { s with mat := [{ m with begun := true, clock := 0 }] })
  ∧ (∀ f, m.begun = false → m.op = .mma f → m.step = 0 → m.len = 0 → m.opA = [] → m.opB = [] → s.ueMem = [] → s.ceMem = [] → s.fences = [] →
    Completes (.matOperationBegin m.owner) s (fun t => ∃ (n : MatOp) (a b : List (List (Option Value))), t.mat = [n] ∧ n.begun = true ∧ n.clock = 0
      ∧ n.len = 8 * digitLength (fmtMa m.cap.fmt) * digitLength (fmtMb m.cap.fmt) ∧ n.opA = [(0, a)] ∧ n.opB = [(0, b)]
      ∧ (∀ i k, i < 128 → k < 32 → (a.getD i []).getD k none
          = if belowTheta (apxTheta (s.core m.owner).apx) (s.aElement m 0 i k) then none else some (s.aElement m 0 i k))
      ∧ (∀ j k, j < 128 → k < 32 → (b.getD j []).getD k none
          = some (bValue (fmtMb m.cap.fmt) (apxNdig (s.core m.owner).apx) m.cap.scales
              (fun o => s.bByte m (k * rowPitch (fmtMb m.cap.fmt) + o)) j))
      ∧ SameMemory s t ∧ ∀ c x i j, (t.core c).entry x i j = (s.core c).entry x i j))
  ∧ (∀ q a b, m.onArray = true → m.begun = true → m.left = [(q, 0)] → m.opA = [(q, a)] → m.opB = [(q, b)] → m.tile < 4 →
    mapWf accZero (s.core m.eng).a = true → Completes (.kStepWrite m.owner) s (fun t =>
      (∀ i j, i < 128 → j < 128 → (t.core m.eng).entry m.tile i j
          = (kStepEntry (fmtRm m.cap.fmt) ((s.core m.eng).entry m.tile i j) (formedProducts (a.getD i []) (b.getD j []))).1)
      ∧ (∀ x i j, x ≠ m.tile → i < 128 → j < 128 → (t.core m.eng).entry x i j = (s.core m.eng).entry x i j)
      ∧ mapGet 0 (t.core m.eng).kdone m.tile = q + 1 ∧ SameMemory s t ∧ (q + 1 = m.steps → t.mat = []))))

/-! ## The XFR slot and the engines (R105, R109 to R111, R125 to R145, R341, R373, R379, R437 to R442) -/

/-- O42. The XFR slot's instructions: what each starts, on the engine bound to the slot. A slot whose transfer ended in a fault or a kill
takes no XSTEP (R131), and a transfer that a migration left on another engine keeps its slot (R226). -/
def Obligations.TransferInstructions : Prop := ∀ (xs : BitVec 3) (d : BitVec 6) (ofs : BitVec 16) (str n : BitVec 6) (gofs : BitVec 17)
    (num : BitVec 8) (tok : Tokens) (s : State),
  let eng := s.engine s.me 5
  let key := 8 * eng + xs.toNat
  let held := s.slotKey eng xs.toNat
  let pending (t : State) : Prop := ∃ f, Flies s t (.scalar d.toNat) true f ∧ f.sb = (d != 0) ∧ f.cnt = .cp
    ∧ (t.core s.me).counter .cp = (s.core s.me).counter .cp + 1
  SlotReady s 5 → s.ceMem = [] →
  (s.slotFree s.me eng xs.toNat = true → Completes (.xstart xs d ofs str tok) s (fun t =>
    let x := t.xferAt key
    pending t ∧ x.busy = true ∧ x.kind = .copy ∧ x.owner = s.me ∧ x.eng = eng ∧ x.base = (if s.ctx.reissue then (s.cur.latch 5).addr % 2 ^ 64 else 64 * ofs.toNat) ∧ x.stage = 1 ∧ x.dr = d.toNat
      ∧ x.tok = tok.tp.toNat ∧ x.mstart = 0 ∧ (∀ k, k ≠ key → t.xferAt k = s.xferAt k) ∧ Frame transfersOf s.me s t))
  ∧ (s.clusterPending s.me = false → Completes (.xgath d gofs tok) s (fun t =>
    let x := t.xferAt (8192 + (s.seq + 1))
    pending t ∧ x.busy = true ∧ x.kind = .gather ∧ x.owner = s.me ∧ x.eng = eng ∧ x.base = 32 * gofs.toNat ∧ x.dr = d.toNat
      ∧ (∀ k, k ≠ 8192 + (s.seq + 1) → t.xferAt k = s.xferAt k) ∧ Frame transfersOf s.me s t))
  ∧ (s.clusterPending s.me = false → Completes (.xcoll d gofs tok) s (fun t => ∃ m : Collect,
    pending t ∧ t.collects = s.collects ++ [m] ∧ m.owner = s.me ∧ m.eng = eng ∧ m.lid = s.lid s.me ∧ m.base = 32 * gofs.toNat
      ∧ m.started = false ∧ m.arrived = none ∧ m.dr = d.toNat ∧ Frame transfersOf s.me s t))
  ∧ (let x := s.xferAt held
    s.cur.waitsOn tok = [] → x.busy = true → x.kind = .copy → x.started = true → x.killed = false → x.fault = none → x.nsched ≠ 0 →
    Completes (.xstep xs n tok) s (fun t => (t.xferAt held).stage = min (x.stage + n.toNat + 1) x.nsched
      ∧ (t.xferAt held).moves = x.moves ∧ (t.xferAt held).mstart = x.mstart
      ∧ (∀ k, k ≠ held → t.xferAt k = s.xferAt k) ∧ Frame transfersOf s.me s t))
  ∧ (s.cur.waitsOn tok = [] → (s.xferAt held).busy = false → (s.xferAt held).killed = true →
    Completes (.xstep xs n tok) s (fun t => (t.core s.me).late = (s.core s.me).late ∧ t.xfers = s.xfers ∧ (∃ f, Flies s t .none false f)
      ∧ Frame transfersOf s.me s t))
  ∧ (s.cur.waitsOn tok = [] → (s.xferAt held).busy = false → (s.xferAt held).killed = false → (s.xferAt held).fault = none → Completes (.xstep xs n tok) s (fun t => ∃ c, (t.core s.me).late = (s.core s.me).late ++ [c]
      ∧ c.cls = 1 ∧ c.detail = 0x09 ∧ t.xfers = s.xfers ∧ Frame transfersOf s.me s t))
  ∧ ((s.xferAt held).busy = true → Completes (.xkill xs) s (fun t => t.xferAt held = { s.xferAt held with killed := true }
      ∧ (∀ k, k ≠ held → t.xferAt k = s.xferAt k) ∧ Frame noneOf s.me s t))
  ∧ Completes (.xskew d) s (fun t => ∃ f, Flies s t (.scalar d.toNat) false f ∧ f.rem = 1 ∧ f.sval = s.cur.skewValue ∧ Frame noneOf s.me s t)
  ∧ (∀ r, s.ringAt eng (64 * ofs.toNat) = some r → s.ueMem = [] → s.reads = [] → s.cur.queue = [] → s.mat = [] → num.toNat + 1 ≤ ringDiff r.wptr r.rptr →
    Completes (.rrel ofs num) s (fun t => HoldsAt t (r.at_ + 16) 4 ((r.rptr + num.toNat + 1) % 2 ^ 32)
      ∧ FrameBut (r.at_ + 16) 4 noneOf s.me s t))
  ∧ (∀ r, s.ringAt eng (64 * ofs.toNat) = some r → s.ueMem = [] → s.reads = [] → s.cur.queue = [] → s.mat = [] → ringDiff r.wptr r.rptr < num.toNat + 1 →
    Completes (.rrel ofs num) s (fun t => ∃ c, (t.core s.me).late = (s.core s.me).late ++ [c] ∧ c.cls = 8 ∧ c.detail = 0x07
      ∧ Frame noneOf s.me s t))

/-- O43. RAWAIT starts a wait on the ring that it names, and stops on a header that is not valid; INVR sets out to every holder (R109,
R110, R341, R373). -/
def Obligations.RingWaitsAndInvalidations : Prop := ∀ (d a v l : BitVec 6) (h : BitVec 16) (j : BitVec 8) (s : State),
  (isStoker s.me = false → s.ueMem = [] →
    (∀ r, s.ringAt (s.engine s.me 5) (64 * h.toNat) = some r → j.toNat < 2 ^ r.lns →
      Completes (.rawait d h j) s (fun t => (t.core s.me).waits = { (s.core s.me).waits with
          ring := some (.rawait d h j)
          ringArg := s.ctx.ipc % 2 ^ 16 + s.cur.skewOf 5 * 2 ^ 16 + s.engine s.me 5 * 2 ^ 22 }
        ∧ Frame noneOf s.me s t))
    ∧ (s.ctx.checked = false → s.ringAt (s.engine s.me 5) (64 * h.toNat) = none →
        StopsWith (.rawait d h j) s (trapAt 8 0x06 (64 * h.toNat)))
    ∧ (∀ r, s.ctx.checked = false → s.ringAt (s.engine s.me 5) (64 * h.toNat) = some r → 2 ^ r.lns ≤ j.toNat →
        StopsWith (.rawait d h j) s (trapOf 8 0x06))
    ∧ (s.ctx.checked = false → StopsWith (.invr d a v l) s (trapOf 3 0x00)))
  ∧ (let va := (s.rd v).toNat
    let len := (s.rd l).toNat
    isStoker s.me = true → s.owed.rpt = 0 → WellFormed (.invr d a v l) = true →
    (va < 2 ^ 57 → va % 4096 = 0 → len % 4096 = 0 → va + len ≤ 2 ^ 57 →
      Completes (.invr d a v l) s (fun t => ∃ (q : Invr) (f : Flight), t.invrs = s.invrs ++ [q] ∧ q.stk = s.me
        ∧ q.asid = (s.rd a).toNat % 2 ^ 16 ∧ q.va = va ∧ q.len = len ∧ (∀ n, n ∈ q.reach ↔ n < 1152) ∧ q.wait = [] ∧ q.held = 0
        ∧ q.drain = 0 ∧ q.iso = false ∧ q.flight = f.seq ∧ Flies s t (.scalar d.toNat) true f ∧ f.sb = (d != 0) ∧ Frame noneOf s.me s t))
    ∧ (s.ctx.checked = false → 2 ^ 57 ≤ va ∨ va % 4096 ≠ 0 ∨ len % 4096 ≠ 0 ∨ 2 ^ 57 < va + len →
        StopsWith (.invr d a v l) s (trapOf 2 0x01)))

/-- O44. The engines: a due move starts with the bases of its schedule entry, data read waits to be written and counts once it is
visible, a walk gives an access its addresses or its fault, and a finished transfer frees its slot and lands its done register (R105,
R130 to R134, R147).
Rings: the slot of the next move is reserved by one addition to RES, and WPTR advances past the move that it names (R136,
R137). The length of one access is the model's choice (log 21). -/
def Obligations.TransferEvents : Prop :=
  (
    ∀ (s : State) (key : Nat),
  let x := s.xferAt key
  (∀ e, key < 8192 → x.live = true → x.kind = .copy → x.ring = false → x.toks = [] → x.sched.getD x.mstart (0, 0) = (e, 0) → x.mstart < x.released →
    x.ringw = false →
    Completes (.transferMoveStart key) s (fun t => (t.xferAt key).mstart = x.mstart + 1 ∧ ∃ m ∈ (t.xferAt key).moves, m.j = x.mstart
      ∧ m.sb = wrapInt 64 ((x.w 1 : Int) + signedOf 32 (e % 2 ^ 32)) ∧ m.db = wrapInt 64 ((x.w 2 : Int) + signedOf 32 (e / 2 ^ 32 % 2 ^ 32))
      ∧ SameMemory s t))
  ∧ (∀ a m, x.live = true → x.kind = .copy → x.exp = false → x.acc = [a] → x.moves = [m] → a.move = m.j → a.host = none → s.ueMem = [] → s.hostUp = true →
    s.sched.migs = [] → (∀ d, s.dieLinkLost d = false) →
    (a.phase = 0 → 0 < a.len → Completes (.transferAccessDone key a.n) s (fun t => SameMemory s t ∧ ∃ u : State, t = (u.serve a.src).pumpAll x.holder
      ∧ (u.xferAt key).acc = [{ a with phase := 1, data := a.src.map (s.readKeyed x (if x.sk = 2 then s.keyOf x.srec else none)), host := none }]))
    ∧ (a.phase = 2 → s.writes = [] → Completes (.transferAccessDone key a.n) s (fun t => SameMemory s t
      ∧ (t.xferAt key).bytes = min (x.bytes + a.len) 0xFFFFFFFF
      ∧ (m.left = a.len → m.ring = none → (t.xferAt key).mdone = x.mdone + 1))))
  ∧ (∀ h m pas va keep bad, x.kind = .copy → x.exp = false → m.zero = false → s.nextWrite h = none → s.inFlight h < 64 →
    s.nextMove h = some (key, m) → s.engineAffords x.owner x.sk = true → s.xferFenced x.owner x.sbun false = false →
    s.resolve x x.sk x.srec ((x.nextRun m).map (x.srcOffset m)) false true = (.at_ pas va keep, bad) →
    Completes (.pageWalk h) s (fun t => SameMemory s t ∧ ∃ u : State, t = u.pumpAll h
      ∧ ∃ a ∈ (u.xferAt key).acc, a.n = s.accNo + 1 ∧ a.move = m.j ∧ a.phase = 0 ∧ a.src = pas))
  ∧ (∀ h m e bad, x.live = true → x.kind = .copy → x.exp = false → m.zero = false → s.nextWrite h = none → s.inFlight h < 64 →
    s.nextMove h = some (key, m) → s.engineAffords x.owner x.sk = true → s.xferFenced x.owner x.sbun false = false →
    s.resolve x x.sk x.srec ((x.nextRun m).map (x.srcOffset m)) false true = (.trap e, bad) →
    Completes (.pageWalk h) s (fun t => (t.xferAt key).fault = some (x.cause key m.j e) ∧ SameMemory s t))
  ∧ (x.busy = true → x.started = true → x.acc = [] → x.moves = [] → x.kind = .copy → x.steps = [] → x.killed = false → x.fault = none → x.mdone = x.total →
    8 * x.side + key % 8 = key →
    Completes (.transferComplete key) s (fun t =>
      t.core x.owner = (s.core x.owner).modFlight x.seq (fun f => { f with
        sval := BitVec.ofNat 64 (1 + min x.mdone 127 * 2 ^ 16 + x.bytes * 2 ^ 32), open_ := false, rem := 0, fault := none })
      ∧ t.xferAt key = { Xfer.idle with stage := x.stage } ∧ (∀ k, k ≠ key → t.xferAt k = s.xferAt k) ∧ SameMemory s t
      ∧ SameOthers x.owner s t))
  ∧ (x.busy = true → x.acc = [] → x.moves = [] → x.kind = .copy → x.steps = [] → x.killed = true → x.fault = none →
    Completes (.transferComplete key) s (fun t =>
      t.core x.owner = (s.core x.owner).modFlight x.seq (fun f => { f with
        sval := BitVec.ofNat 64 (1 + 2 * 2 + min x.mdone 127 * 2 ^ 16 + x.bytes * 2 ^ 32), open_ := false, rem := 0, fault := none })
      ∧ (t.xferAt key).busy = false ∧ (t.xferAt (8 * x.side + key % 8)).killed = true)))
  ∧ (
    ∀ (s : State) (key : Nat) (r : Ring),
  let x := s.xferAt key
  key < 8192 → x.live = true → x.kind = .copy → x.ring = true → s.ringOf x = .inr r → s.sched.migs = [] →
  (x.ringw = true → ringDiff r.res r.rptr ≠ 2 ^ r.lns → Completes (.ringSlotReserve key) s (fun t =>
    HoldsAt t (r.at_ + 8) 4 ((r.res + 1) % 2 ^ 32) ∧ SameBut (r.at_ + 8) 4 s t ∧ (t.xferAt key).mstart = x.mstart + 1
    ∧ ∃ m ∈ (t.xferAt key).moves, m.j = x.mstart ∧ m.ring = some r.res
      ∧ m.db = (if x.dk = 0 then 0 else r.cell * 2 ^ 22) + r.base + r.res % 2 ^ r.lns * 2 ^ r.lsz))
  ∧ (x.ringw = true → ringDiff r.res r.rptr = 2 ^ r.lns → s.ceMem = [] → (∀ h, s.pumpOne h false = none) → Leads (.ringSlotReserve key) s s)
  ∧ (∀ m, x.moves = [m] → m.left = 0 → m.ring = some r.wptr → Completes (.ringWptrAdvance key) s (fun t =>
    HoldsAt t (r.at_ + 12) 4 ((r.wptr + 1) % 2 ^ 32) ∧ SameBut (r.at_ + 12) 4 s t ∧ (t.xferAt key).mdone = x.mdone + 1
    ∧ (t.xferAt key).moves = [])))

/-- O45. Collectives: a member's arrival is recorded with its contribution, the last arrival forms every member's result, and a member
completes with its done register (R132, R143 to R145).
INVR at a holder: its translations of the run go, it acknowledges once the accesses under them have performed, and the last
acknowledgement lands sD (R110, R111). -/
def Obligations.CollectiveAndInvalidationEvents : Prop :=
  (
    ∀ (s : State) (m n : Collect),
  let elt (i : Nat) : Nat := bytesNat ((List.range 4).map (fun j =>
    (s.engineByte n.asXfer (spKey n.side (bits (n.w 1) 21 0) + (4 * i + j))).1.toNat))
  (n.started = true → n.arrived = none → n.toks = [] → s.fences = [] → s.sched.migs = [] → s.ueMem = [] → s.ceMem = [] → n.ef = 10 →
    mapGet 0 s.roundEnd n.endKey = 0 →
    (s.collects = [n] → n.table.all entryLocal = true → (∃ e ∈ n.table, e % 1024 ≠ n.lid) →
      (∀ e ∈ n.table, e % 1024 ≠ n.lid → s.absent n (e % 1024) = false
        ∧ mapGet 0 s.rounds ((1024 * n.team + e % 1024) * 65536 + n.gid) ≤ n.round) →
      Completes (.collectiveArrival n.seq) s (fun t => ∃ d : List Nat, t = { s with collects := [{ n with data := d, arrived := some s.now }] }
        ∧ d.length = n.count ∧ ∀ i, i < n.count → d.getD i 0 = elt i))
    ∧ (∀ a, s.collects = [m, n] → m.seq ≠ n.seq → m.arrived = some a → m.like n = true → m.joins n = true →
      m.lid < 1024 → n.lid < 1024 → m.lid ≠ n.lid → n.table = [m.lid, n.lid] → n.cop = 0 → n.red = 0 →
      0 < n.count → n.count ≤ 64 →
      Completes (.collectiveArrival n.seq) s (fun t => t.collects = [] ∧ SameMemory s t ∧ ∃ w1 w2 : PendWrite, t.writes = s.writes ++ [w1, w2]
        ∧ ∀ i, i < 4 * n.count →
          let sum := (m.data.getD (i / 4) 0 + elt (i / 4)) % 2 ^ 32
          w1.bytes[i]? = some (spKey m.side (bits (m.w 1) 53 32) + i, BitVec.ofNat 8 (sum / 256 ^ (i % 4)))
          ∧ w2.bytes[i]? = some (spKey n.side (bits (n.w 1) 53 32) + i, BitVec.ofNat 8 (sum / 256 ^ (i % 4))))))
  ∧ (∀ k, let x := s.xferAt (8192 + k)
    x.busy = true → x.started = true → x.kind = .collect → x.acc = [] → x.steps = [] → x.mdone = 0 → x.killed = false → x.fault = none →
    (∀ g ∈ s.ending, k ∉ g.left) →
    Completes (.collectiveComplete k) s (fun t =>
      t.core x.owner = (s.core x.owner).modFlight x.seq (fun f => { f with
        sval := BitVec.ofNat 64 (1 + 2 ^ 16 + x.bytes * 2 ^ 32), open_ := false, rem := 0, fault := none })
      ∧ t.xferAt (8192 + k) = Xfer.idle ∧ SameMemory s t ∧ SameOthers x.owner s t)))
  ∧ (
    ∀ (s : State) (q : Invr) (h : Nat), s.invrs = [q] →
  (∀ x : Transl, q.removes x = true ↔ x.asid = q.asid ∧ q.asid ≠ 0 ∧ (q.len = 0 ∨ (x.base < q.va + q.len ∧ q.va ≤ x.last)))
  ∧ (h ∈ q.reach → s.ident.fenced.contains (holderDie h) = false → s.underDropped h ((s.cached h).filter q.removes) = [] →
    Completes (.invrHolderAck q.stk h) s (fun t =>
      t.cached h = (s.cached h).filter (fun x => !q.removes x) ∧ (∀ g, g ≠ h → t.cached g = s.cached g)
      ∧ t.invrs = [{ q with reach := q.reach.filter (· != h), held := q.held + (if (s.cached h).any q.removes then 1 else 0) }]
      ∧ t = { s with tcache := t.tcache, invrs := t.invrs }))
  ∧ (∀ fly, h ∉ q.reach → q.wait = [(h, fly)] → fly.any s.stillFlying = false →
    Leads (.invrHolderAck q.stk h) s { s with invrs := [{ q with wait := [], drain := q.drain + fly.length }] })
  ∧ (q.reach = [] → q.wait = [] → Leads (.invrComplete q.stk) s
    { s.modCore q.stk (fun k => k.modFlight q.flight (fun f => { f with
        sval := BitVec.ofNat 64 (1 + (if q.iso then 2 else 0) + (if q.held = 0 then 4 else 0) + q.held * 2 ^ 16
          + min q.drain 0xFFFFFFFF * 2 ^ 32)
        open_ := false, rem := 0 })) with invrs := [] }))

/-! ## The cycle of a core (R32, R36, R45, R62 to R64, R204, R256, R320, R434, R453) -/

/-- O46. A running core issues the execution at its PC when nothing holds it, and holds or stops where something does; a core whose
hold is over issues; a WAIT ends once its counters have fallen (R34, R35, R45, R204, R205, R256, R434). The causes are those of the
bundle's decoding and of its operations' checks, in slot order. The order of holds and checks is the model's reading (log 5). -/
def Obligations.CyclesOfACore : Prop := ∀ (s : State) (c : Nat) (ops : List PendOp) (enc : List Nat) (bad : List Cause),
  (s.core c).queue = [] → (s.core c).replay = 0 → s.throttled c = false →
  let e : Execution := ⟨ops, enc, bad⟩
  (let u := s.scalarsFirst s c e
   let p := u.prepare s c enc.contains (carriesEret ops)
   s.execution c = .inr e → (s.core c).st = .run →
   (p.holdBefore c ops = 0 → p.bundleCauses ops bad = [] → p.holdAfter s c ops = 0 → Completes (.bundleIssue c) s (fun t =>
     t.ops = issueOrder ops ∧ t.ctx = { p.ctx with checked := true } ∧ t.owed = p.owed ∧ (t.core c).st = .run
     ∧ (t.core c).pc = (s.core c).pc
     ∧ (t.core c).rptLeft = (if (s.core c).rptLeft = 0 then p.owed.rpt else (s.core c).rptLeft - 1)
     ∧ (isStoker c = false → (t.core c).ebal = (s.core c).ebal - (min (p.bundleCost ops) (1000 * (s.core c).erate) : Nat))
     ∧ SameMemory s t ∧ SameOthers c s t))
   ∧ (p.holdBefore c ops = 5 → p.decodeCauses ops bad = [] → Completes (.bundleIssue c) s (fun t =>
     (t.core c).st = .hold ∧ (t.core c).waitk = 5 ∧ (t.core c).pc = (s.core c).pc ∧ t.ops = s.ops))
   ∧ (∀ x l, p.holdBefore c ops = 0 → p.bundleCauses ops bad = x :: l → (s.core c).late = [] → Leads (.bundleIssue c) s
     { u.landStop c x l.length false with ops := [], owed := Owed.none }))
  ∧ (let r := s.modCore c (fun k => { k with st := .run, waitk := 0 })
    let p := (r.scalarsFirst r c e).prepare r c enc.contains (carriesEret ops)
    r.execution c = .inr e → (s.core c).st = .hold → (s.core c).landing = false → ops ≠ [] → p.holdBefore c ops = 0 →
    p.bundleCauses ops bad = [] → p.holdAfter r c ops = 0 → Leads (.holdEnd c) s { r with agenda := .bundleIssue c :: s.agenda })
  ∧ (∀ ldl stl cpl tll : BitVec 4, (s.core c).st = .wait → (s.core c).rptLeft = 0 → (s.core c).waits = { Waits.none with op := some (.wait ldl stl cpl tll) } →
    let met : Prop := (s.core c).counter .ld ≤ ldl.toNat ∧ (s.core c).counter .st ≤ stl.toNat ∧ (s.core c).counter .cp ≤ cpl.toNat
      ∧ (s.core c).counter .tl ≤ tll.toNat
    (met → Completes (.waitEnd c) s (fun t => (t.core c).st = .run ∧ (t.core c).waitk = 0 ∧ (t.core c).waits = Waits.none
      ∧ (t.core c).pc = (s.core c).pc))
    ∧ (¬ met → Completes (.waitEnd c) s (fun t => (t.core c).st = .wait ∧ (t.core c).waitk = 1 ∧ (t.core c).waits = (s.core c).waits)))

/-- O47. Steps beside issue: a device result lands in a stopped cell, a late operation starts in its frozen cell, a `.cut` consumer
decides a lane of its producer, a barrier completes when all have arrived, and a replayed K-step comes four cycles later (R32, R36,
R63, R71, R272, R320, R453).
An operation of slot VEC, MAT or XFR that cannot start in its issue cycle, for a skew or a way to its engine, waits in its
slot's elastic buffer (R36, R37, R43). An early lane decision is the model's reading (log 7). -/
def Obligations.StepsBesideIssue : Prop :=
  (
    ∀ (s : State) (c : Nat),
  (∀ f r, (s.core c).st = .stopped ∨ (s.core c).st = .free ∨ (s.core c).st = .donor → (s.core c).flights = [f] → f.free = true →
    f.landed = false → f.rem = 0 → f.open_ = false → f.kind = 3 → f.eph = false → f.fault = none → f.dest = .scalar r → f.skewl = 0 →
    Completes (.operationResultWrite c) s (fun t => (t.core c).flights = []
      ∧ (∀ q, (t.core c).reg q = if q = r ∧ r ≠ 0 then f.sval else (s.core c).reg q) ∧ SameMemory s t ∧ SameOthers c s t))
  ∧ (∀ w xs, (s.core c).queue = [w] → (s.core c).flights = [] → s.mat = [] → w.slot = 5 → w.op = .xkill xs → w.due = 0 → w.way = 0 → w.held = false →
    w.slack < w.late → w.eng = c → (∀ p ∈ s.cores, p.1 ≠ c → ∀ v ∈ p.2.queue, v.slot = 5 → v.eng ≠ c) → Completes (.lateOperationStart c 5) s (fun t => (t.core c).queue = [] ∧ (t.core c).cyc = (s.core c).cyc
      ∧ (∀ key, key = s.slotKey w.eng xs.toNat → (s.xferAt key).busy = true → t.xferAt key = { s.xferAt key with killed := true })
      ∧ SameMemory s t ∧ SameOthers c s t))
  ∧ (∀ p q x l, (s.core c).flights = [p, q] → (s.core c).hand.held = [] → p.seq ≠ q.seq → p.eph = true → p.cutc = false → p.chain = none → q.cutc = true →
    q.landed = false → q.chain = some p.seq → p.lanes[l]? = some x → x.act = true → x.dec = false → x.at_ ≤ q.readsDigit (s.core c).cyc →
    Completes (.ephLaneDecide c l) s (fun t => OnlyCore c s t ∧ (t.core c).flights =
      [{ p with lanes := p.lanes.zipIdx.map (fun y =>
        if y.2 = l then { y.1 with dec := true, len := if y.1.cut then p.digits ((s.core c).cyc + 1) else y.1.len } else y.1) }, q]))
  ∧ (∀ scp, scp = 1 ∨ scp = 2 ∨ scp = 3 →
    let g := s.barrierGroup c scp
    (s.images = [] → g.any (fun q => mapGet false (s.core q).arrived scp) = true → g.all (fun q => s.hasArrived q scp) = true →
      Completes (.barrierComplete c scp) s (fun t => (∀ q ∈ g, mapGet false (t.core q).arrived scp = false)
        ∧ (∀ q x, x ≠ scp → mapGet false (t.core q).arrived x = mapGet false (s.core q).arrived x)
        ∧ (∀ q, q ∉ g → t.core q = s.core q) ∧ SameMemory s t))
    ∧ (g.all (fun q => s.hasArrived q scp) = false → Leads (.barrierComplete c scp) s s))
  ∧ (∀ m, s.mat = [m] → m.eng = c → m.inProgress = true →
    let n := min 4 ((s.core m.owner).slackOf 4 - (s.core m.owner).matLate)
    Completes (.timingErrorReplay c) s (fun t => t.mat = [m.again n]
      ∧ (t.core m.owner).matLate = (s.core m.owner).matLate + n ∧ (t.core m.owner).replay = (s.core m.owner).replay + (4 - n)
      ∧ mapGet 0 t.power.replays (c / 128) = mapGet 0 s.power.replays (c / 128) + 1 ∧ SameMemory s t ∧ SameOthers m.owner s t)))
  ∧ (
    ∀ (v : FieldsVA) (m : FieldsVM) (g : FieldsVG) (f : FieldsMX) (a : FieldsMT) (r : FieldsMR)
    (tl : BitVec 2) (tok : Tokens) (xs : BitVec 3) (d : BitVec 6) (ofs : BitVec 16) (str n : BitVec 6) (gofs : BitVec 17) (num : BitVec 8)
    (s : State), isStoker s.me = false → s.ctx.checked = true →
  let waits (slot : Nat) : Prop := s.ctx.slot = slot ∧ (∀ w ∈ s.cur.queue, w.slot ≠ slot)
    ∧ (s.cur.skewOf slot ≠ 0 ∨ s.oneWay s.me (s.engine s.me slot) ≠ 0)
  (waits 3 → ∀ i ∈ [Instr.vadd v, .vsub v, .vmul v, .vfma v, .vdiv v, .vsqrt v, .vrsq v, .vexp v, .vmin v, .vmax v, .vabs v, .vneg v, .vcmp v,
      .vthr v, .vsel v, .vand v, .vor v, .vxor v, .vshl v, .vshr v, .vcvt v, .vqnt v, .vamax v, .vred v, .vmov v, .vbcst v, .vperm v, .vidx v,
      .vld m, .vst m, .vgth g, .vsct g], JoinsBuffer i s 3)
  ∧ (waits 4 → ∀ i ∈ [Instr.mma f, .mmas f, .mzero tl tok, .mldacc a, .mstacc a, .mrdacc r, .mabort tl tok], JoinsBuffer i s 4)
  ∧ (waits 5 → ∀ i ∈ [Instr.xstart xs d ofs str tok, .xstep xs n tok, .xkill xs, .xgath d gofs tok, .xcoll d gofs tok, .xskew d, .rrel ofs num],
      JoinsBuffer i s 5))

/-! ## Power (R21, R22, R25, R228 to R263, R271) -/

/-- O48. Rails move one level, ECOST follows; buckets are refilled and settled; droop events, their pre-throttles, and the gating of
dies (R229, R254, R255, R257 to R260). The measured energy and ECOST of a level are free values (log 8). -/
def Obligations.PowerEvents : Prop := ∀ (s : State),
  (∀ lc, lc = toward s.power.lc s.power.goalLc → lc ≠ s.power.lc → Completes .railLevelStep s (fun t =>
    t.power.lc = lc ∧ t.power.lf = max (toward s.power.lf s.power.goalLf) lc ∧ SameMemory s t
    ∧ ∀ c i, c < 1024 → i < 5 →
        mapGet 0 (t.core c).ecost i = Config.energyCost lc (max (toward s.power.lf s.power.goalLf) lc) i % 2 ^ 32))
  ∧ (mapWf Core.reset s.cores = true → Completes .bucketRefill s (fun t => t = { s with cores := t.cores } ∧ ∀ c,
    t.core c = if c < 1024 then { s.core c with ebal := min (1000 * ((s.core c).erate : Int)) ((s.core c).ebal + (s.core c).erate) } else s.core c))
  ∧ (∀ c, c < 1024 → Completes (.bucketSettle c) s (fun t => (t.core c).charged = 0 ∧ (t.core c).ebal
      = (s.core c).ebal + (s.core c).charged - Config.measuredEnergy c (s.time / nsUnit / 10000) ∧ SameMemory s t ∧ SameOthers c s t))
  ∧ (∀ d, d < 8 → Completes (.droopEvent d) s (fun t => OnlyPower s t ∧ ∃ x ∈ t.power.droops, x.die = d ∧ x.sig = s.power.signature d 32))
  ∧ (∀ d, d < 8 → s.power.droopMatch d = true → Completes (.droopSignatureMatch d) s (fun t => SameMemory s t
      ∧ t.power = { s.power with pre := mapSet 0 s.power.pre d (max 1 (s.power.droopctl / 2 ^ 6 % 2 ^ 10) + 1) }))
  ∧ (∀ d, mapGet 0 s.power.pre d = 1 → Leads (.prethrottleEnd d) s { s with power := { s.power with pre := mapSet 0 s.power.pre d 0 } })
  ∧ (∀ i, i < 8 → s.power.ramp = none → (∀ j, j < i → s.gates (s.power.gatePlace j) = false) → s.gates (s.power.gatePlace i) = true →
    Leads (.dieGatingRamp (s.power.gatePlace i)) s { s with power := { s.power with
      ramp := some (s.power.gatePlace i, false), rampAt := s.now, gatedBy := s.power.gatePlace i :: s.power.gatedBy } })
  ∧ (∀ d l, s.power.ramp = none → s.power.gatedBy = d :: l → s.power.needed.contains d = true → s.power.hot.contains d = false →
    Completes (.dieUngatingRamp d) s (fun t => OnlyPower s t ∧ t.power.ramp = some (d, true) ∧ t.power.rampAt = s.now ∧ d ∉ t.power.gatedBy ∧ d ∉ t.power.needed))
  ∧ (∀ d up, s.power.ramp = some (d, up) → s.now < s.power.rampAt + 150000 → Leads (.dieRampEnd d) s s)
  ∧ (∀ d up, d < 8 → s.power.ramp = some (d, up) → s.power.rampAt + 150000 ≤ s.now → Completes (.dieRampEnd d) s (fun t => t.power.ramp = none
      ∧ (∀ e, e < 8 → bit t.ident.gated e = if e = d then !up else bit s.ident.gated e)
      ∧ (∀ c, c ∈ t.power.sampled ↔ c ∈ s.power.sampled ∧ c / 128 ≠ d)
      ∧ (∀ c, c ∈ t.sched.clearing ↔ c ∈ s.sched.clearing ∨ (up = true ∧ 128 * d ≤ c ∧ c < 128 * d + 128)) ∧ SameMemory s t))

/-- O49. Power-on, thermal samples with the trip and the emergency save, its end, and the loss of input power: what survives each (R21,
R25, R28, R228, R262, R263). A sample before the boot and a power-on while running change nothing (log 9, log 43); where an
image goes in a local memory is the model's choice (log 72). -/
def Obligations.PowerOnAndOff : Prop := ∀ (s : State),
  (s.ident.booted = false ∨ s.power.powered = false → Completes .powerOnReset s (fun t => t.ident.booted = true ∧ t.power.powered = true
    ∧ t.time = 0 ∧ t.power.lc = 15 ∧ t.power.lf = 15 ∧ t.power.duty = 16 ∧ t.power.target = 6000 ∧ t.power.cseq = s.power.cseq
    ∧ t.power.anchors = s.power.anchors ∧ t.firm.svnmin = s.firm.svnmin ∧ (∀ a, a < 2 ^ 52 → t.home a = s.home a)
    ∧ ∀ c, (t.core c).st = .free ∧ (t.core c).pc = 0 ∧ (t.core c).fmt = 0x40110 ∧ ∀ r, (t.core c).reg r = 0))
  ∧ (s.ident.booted = true → s.power.powered = true → Leads .powerOnReset s s)
  ∧ Completes .inputPowerLoss s (fun t => t.power.powered = false ∧ t.ident.booted = false ∧ t.sched.teams = []
    ∧ t.power.cseq = s.power.cseq ∧ t.firm.svnmin = s.firm.svnmin
    ∧ ∀ a, t.home a = if regionOf (canonical a) = .host then s.home a else 0)
  ∧ (∀ c x, c < 1024 → s.ident.booted = true → x < 4 * s.power.thsave → x < 460 → bit s.sched.thmig 8 = false →
    Completes (.thermalSample c x) s (fun t => (t.core c).celltemp.toNat = x % 1024 ∧ mapGet 0 t.power.temps c = x ∧ SameMemory s t
      ∧ SameOthers c s t ∧ t.sched = s.sched))
  ∧ (∀ c x, c < 1024 → s.ident.booted = true → 4 * s.power.thsave ≤ x → x < 460 → s.power.hot.contains (c / 128) = false →
    Completes (.thermalSample c x) s (fun t => t.power.saving = true ∧ c / 128 ∈ t.power.hot ∧ (t.core c).celltemp.toNat = x % 1024))
  ∧ (∀ c x, c < 1040 → s.ident.booted = true → 460 ≤ x → Completes (.thermalSample c x) s (fun t => t.power.powered = false
    ∧ t.ident.booted = false ∧ ∀ a, t.home a = if regionOf (canonical a) = .hbm ∨ regionOf (canonical a) = .park ∨ regionOf (canonical a) = .host
        then s.home a else 0))
  ∧ (s.power.saving = true → s.power.below ≠ 0 → s.power.below + 10000000 ≤ s.now → Completes .emergencySaveClear s (fun t =>
    t.power.saving = false ∧ t.power.hot = [] ∧ HoldsAt t journalBase 4 0 ∧ SameBut journalBase 4 s t))
  ∧ (∀ c x, s.ident.booted = false → Leads (.thermalSample c x) s s)

/-- O50. Curves: submission, verification, takeover, points, the write of UTCOFS, expiry (R230 to R235); and what the damper's evaluation
settles on: the goal met, or MISS at the least level and duty (R242). A single evaluation where a tick meets a change of
target is the model's reading (log 38, log 41). -/
def Obligations.CurvesAndDamper : Prop := ∀ (s : State),
  (∀ v, Completes (.curveSubmit v) s (fun t => OnlyPower s t
    ∧ (s.power.curveSub ≠ none → t.power = { s.power with cdrop := true })
    ∧ (s.power.curveSub = none → t.power = { s.power with curveSub := some (v / 2 ^ 6 % 2 ^ 46 * 64), cdone := false })))
  ∧ (∀ a, s.power.curveSub = some a → s.acting 0 = true → Completes .curveVerify s (fun t => OnlyPower s t ∧ t.power.curveSub = none ∧ t.power.cdone = true
    ∧ (s.hbmBytes a 3596 = none → t.power.cresult = 7)
    ∧ ∀ r, s.hbmBytes a 3596 = some r → t.power.cresult = s.recordResult r
      ∧ (s.recordResult r ≠ 0 → t.power.cseq = s.power.cseq ∧ t.power.anchors = s.power.anchors ∧ t.power.pending = s.power.pending)
      ∧ (s.recordResult r = 0 → t.power.cseq = fieldAt r 16 8)))
  ∧ (∀ c, s.power.pending = some c → (c.notBefore : Int) ≤ s.utc →
    let n := c.points.countP (fun p => decide ((p.1 : Int) ≤ s.utc))
    Completes .curveTakeover s (fun t => t.power.curve = some { c with prior := s.power.target } ∧ t.power.pending = none ∧ t.power.passed = n
      ∧ t.power.target = if n = 0 then s.power.target else min 6000 ((c.points.getD (n - 1) (0, 0)).2)))
  ∧ (∀ c, s.power.pending = some c → s.utc < c.notBefore → Leads .curveTakeover s s)
  ∧ (∀ c, s.power.curve = some c →
    let n := c.points.countP (fun p => decide ((p.1 : Int) ≤ s.utc))
    let target := if n = 0 then c.prior else min 6000 ((c.points.getD (n - 1) (0, 0)).2)
    let follows (t : State) : Prop := t.power.passed = n ∧ t.power.target = target ∧ (s.power.target < target → t.power.grade = 0)
    (n ≠ s.power.passed → Completes .curvePoint s follows) ∧ (n = s.power.passed → Leads .curvePoint s s)
    ∧ (n ≠ s.power.passed → (c.notAfter : Int) ≤ s.utc → Completes .curveExpire s follows)
    ∧ (s.utc < c.notAfter → Leads .curveExpire s s))
  ∧ (∀ v, Completes (.utcofsWrite v) s (fun t => t.power.utcofs = (BitVec.ofNat 64 v).toInt
    ∧ (s.power.curve = none → OnlyPower s t ∧ t.power = { s.power with utcofs := (BitVec.ofNat 64 v).toInt })))
  ∧ (∀ p, Completes (.damperTick p) s (fun t => t.power.corr = (Frac.of (p : Int)).sub s.power.pred ∧ t.power.pmeas = (p + 500000) / 1000000 % 2 ^ 13
    ∧ t.power.replays = [] ∧ t.power.target = s.power.target ∧ t.power.curve = s.power.curve))
  ∧ (∀ (ts : List Team) (now : Nat) (dies : List Nat → Nat) (goal corr : Frac),
    let r := evaluate ts now dies goal corr
    let least := (ts.map Team.floorLevel).foldl max 0
    least ≤ r.lc ∧ r.lc ≤ 15 ∧ 2 ≤ r.duty ∧ r.duty ≤ 16 ∧ r.lc ≤ r.lf ∧ (r.duty ≠ 16 → r.lc = least)
    ∧ (r.miss = false → (r.power.add corr).le goal = true) ∧ (r.miss = true → r.lc = least ∧ r.duty = 2))

/-- O51. Parks: the limit of a park's yield, the hamper of a parked team, and its deep park: when each acts, what it leaves, and that it changes
nothing where it does not act (R240, R247, R248, R250, R262). Where hampers and deep parks lie is the model's choice (log
40). -/
def Obligations.ParkEvents : Prop := ∀ (s : State) (id : Nat),
  (s.team id = none → Leads (.parkYieldLimit id) s s ∧ Leads (.hamperWrite id) s s ∧ Leads (.deepPark id) s s)
  ∧ (∀ t : Team, s.team id = some t →
    let parked : Prop := t.dep = .park ∨ t.dep = .emergency
    let tooLong : Prop := t.state = .leaving ∧ (parked ∨ t.dep = .variant) ∧ t.asked + 50000 ≤ s.now
    let sinks : Prop := t.state = .out ∧ parked ∧ t.hamper ≠ 0
    (tooLong → Completes (.parkYieldLimit id) s (fun u => u = { s with cores := u.cores } ∧ ∀ c,
      (c ∈ t.workers → (s.core c).st ≠ .halted → ((s.core c).st ≠ .stopped ∨ s.movingCell c = true) →
        u.core c = { s.core c with stopReq := some 3 })
      ∧ ((c ∉ t.workers ∨ (s.core c).st = .halted ∨ ((s.core c).st = .stopped ∧ s.movingCell c = false)) → u.core c = s.core c)))
    ∧ (¬ tooLong → Leads (.parkYieldLimit id) s s)
    ∧ (s.hamperDue t = true → Completes (.hamperWrite id) s (fun u => ∃ v w : Team,
      (if t.state = .leaving then s.captureTeam t else s).team id = some v ∧ u.team id = some w
      ∧ (let pa := (if t.state = .leaving then s.captureTeam t else s).parkRun v.hamperLen 4096
        if t.dep = .emergency ∧ s.isHole (pa + v.hamperLen - 1) = true then
          w = { v with state := .ended, error := 0x0C, flags := addFlags v.flags 2, ended := s.now, lastSeq := s.seq, saved := [] }
            ∧ SameMemory s u
        else w = { v with state := .out, hamper := pa, asked := 0, aged := 0 } ∧ (s.hamperKey = none → HoldsAt u pa 4 0x48504D52))
      ∧ (if t.state = .leaving then ∀ c ∈ t.cells, (u.core c).st = .free else u.cores = s.cores)))
    ∧ (s.hamperDue t = false → Leads (.hamperWrite id) s s)
    ∧ (parked → t.state = .leaving → s.hasYielded t = true → s.hamperDue t = true)
    ∧ (parked → t.state = .out → t.hamper = 0 → s.hamperDue t = true)
    ∧ (sinks → Completes (.deepPark id) s (fun u => u = { s with mem := u.mem, ueMem := u.ueMem, tcache := u.tcache, sched := u.sched }
      ∧ ∃ l, u.sched = { s.sched with deep := s.sched.deep ++ l }))
    ∧ (sinks → t.recs = [] → Leads (.deepPark id) s s)
    ∧ (∀ i r x, sinks → t.recs = [i] → s.layoutRecord t.asid i = some r → recWord r 0 % 4096 = 0 → recWord r 1 = 4096 →
      s.firmTransl t.asid (recWord r 0) = .inr x → regionOf x.pa = .hbm →
      let n := x.last - x.base + 1
      Completes (.deepPark id) s (fun u => u.cores = s.cores
        ∧ u.sched = { s.sched with deep := s.sched.deep ++ [(s.parkRun n (if x.lvl = 7 then 4096 else n), n)] }))
    ∧ (¬ sinks → Leads (.deepPark id) s s))

/-! ## Launches, teams and queues (R49, R120, R121, R176 to R203, R208, R215, R222, R223, R376) -/

/-- O52. The steps of a team: the end of its load phase, its first cycle, its end once its cells have halted and the freeing of its cells
once all is at rest, a swap, a slice that runs out, and the limit of its yield (R39, R49, R121, R192 to R194, R215, R222, R223, R376).
The order among the work of one slot is the model's reading (log 35). -/
def Obligations.TeamEvents : Prop := ∀ (s : State) (id : Nat) (t : Team), s.team id = some t →
  (∀ im c, t.state = .loading → t.saved = [] → t.cells = [c] → s.readImage t = .inr im → Completes (.loadPhaseDone id) s (fun u =>
    (u.team id).map Team.state = some .loaded ∧ SameMemory s u ∧ SameOthers c s u
    ∧ u.core c = { s.core c with imem := im, ueImem := [], ceImem := [], rcache := (u.core c).rcache }
    ∧ (t.recs = [] → (u.core c).rcache = [])))
  ∧ (∀ e, t.state = .loading → s.readImage t = .inl e → t.dep = .none → t.started = 0 → Completes (.loadPhaseDone id) s (fun u =>
    u.team id = some { t with state := .ended, started := s.now, ended := s.now, error := e.cls + e.detail * 2 ^ 8, flags := 16 }
    ∧ (∀ c ∈ t.cells, (u.core c).st = .free) ∧ SameMemory s u))
  ∧ (t.state = .resident → t.cells.any (fun c => (s.core c).st == .free) = true → t.placed + t.loadTime + 360 ≤ s.now →
    (∀ c ∈ t.workers, (s.core c).yreq = false) → Completes (.teamFirstCycle id) s (fun u => u.team id = some { t with started := if t.started = 0 then s.now else t.started }
      ∧ (∀ c ∈ t.cells, (s.core c).st = .free → (s.core c).waits = Waits.none → (s.core c).waitk = 0 → (s.core c).rptLeft = 0 →
          (u.core c).st = (if t.donorCells.contains c then .donor else .run) ∧ (u.core c).pc = (s.core c).pc ∧ (u.core c).ebal = 0)
      ∧ (∀ c ∈ t.cells, (s.core c).st ≠ .free → (u.core c).st = (s.core c).st)
      ∧ (∀ c, c ∉ t.cells → u.core c = s.core c) ∧ SameMemory s u))
  ∧ (s.allHalted t = true → Completes (.teamEnd id) s (fun u =>
    u.team id = some { t with state := .ending, error := 0, ended := s.now } ∧ u = { s with sched := u.sched }))
  ∧ (t.state = .ending → t.fault = none → s.atRest t = true → Completes (.teamEnd id) s (fun u =>
    u.team id = some { t with state := .ended, lastSeq := s.seq, saved := [] }
    ∧ (∀ c ∈ t.cells, (u.core c).st = .free) ∧ SameMemory s u))
  ∧ (s.swapDue t = true → s.sched.migs = [] → (∀ c ∈ t.cells, s.drained c = true ∧ (s.core c).quiet = true) → Completes (.swapOut id) s (fun u =>
    (u.team id).map (fun x => (x.state, x.dep)) = some (.out, .swap) ∧ (∀ c ∈ t.cells, (u.core c).st = .free) ∧ SameMemory s u))
  ∧ (t.state = .resident → s.beforeFirst t = false → t.placed + t.loadTime + max (1000 * max 16 (s.sched.slice % 2 ^ 16)) (2 * t.loadTime) ≤ s.now →
    s.wanted t = true → Completes (.sliceExpiry id) s (fun u => u.team id = some { t with state := .leaving, dep := .slice, asked := s.now }
      ∧ (∀ c ∈ t.workers, (s.core c).st ≠ .halted → (u.core c).yreq = true) ∧ SameMemory s u))
  ∧ (t.state = .leaving → t.dep = .slice → t.asked + 1000 * max 1 (s.sched.slice / 2 ^ 16 % 2 ^ 16) ≤ s.now → (∃ c ∈ t.workers, (s.core c).st = .run) →
    Completes (.yieldLimit id) s (fun u => u = { s with cores := u.cores }
      ∧ ∀ c ∈ t.workers, (s.core c).st ≠ .halted → (s.core c).st ≠ .stopped → (u.core c).stopReq = some 3))

/-- O53. A minor frame, on one launch: it is placed when its turn has come and its cells are free, which are then cleared of another
context and preset, released when it is loaded, and closed with its signal when it is over (R121, R180, R182, R191 to R193, R195, R196);
in minor frame 15 the roles that run write their heartbeats (R273). The order of the slots is the model's reading (log 35). -/
def Obligations.MinorFrames : Prop := ∀ (s : State) (t : Team), s.sched.teams = [t] →
  (s.serves = true → s.minorOf ≠ 0 → s.minorOf ≠ 15 → s.tooHot = false → s.sched.qctl = none → s.sched.bells = [] → s.sched.polls = [] → s.sched.graphs = [] →
    (∀ l, t.state = .waiting → t.id ∉ s.sched.tried → t.dep ≠ .variant → t.hasPred = false → t.graph = none → s.power.grade = 0 → s.choose t = some l →
      Completes .minorFrame s (fun u => u.sched.teams.map (fun x => (x.state, x.cells, x.placed)) = [(.loading, l, s.now)]
        ∧ (∀ c ∈ l, (u.core c).pc = t.entry ∧ (u.core c).st = .free ∧ (u.core c).ctxt = t.asid ∧ (u.core c).v = [] ∧ (u.core c).p = []
          ∧ (u.core c).a = [] ∧ ∀ i, i < 8 → (u.core c).reg (1 + i) = BitVec.ofNat 64 (t.d (12 + i)))
        ∧ (∀ c, c ∉ l → u.core c = s.core c)
        ∧ ((∀ c ∈ l, (s.core c).ctxt = 0 ∨ (s.core c).ctxt = t.asid) → SameMemory s u)
        ∧ (∀ c ∈ l, (s.core c).ctxt ≠ 0 → (s.core c).ctxt ≠ t.asid → ∀ o, o < (s.core c).spcap → u.home (spKey c o) = 0)))
    ∧ (t.state = .loaded → t.hamper = 0 → s.power.grade = 0 → Completes .minorFrame s (fun u =>
      u.sched.teams = [{ t with state := .resident, dep := .none, loadTime := s.now - t.placed, saved := [] }] ∧ SameMemory s u ∧ u.cores = s.cores))
    ∧ (t.state = .ended → t.hasPred = false → s.writes = [] →
      (t.sigAddr = 0 → Completes .minorFrame s (fun u => u.sched.teams = [{ t with state := .closed }] ∧ SameMemory s u))
      ∧ (∀ pa, t.sigAddr ≠ 0 → (regionOf pa ≠ .host ∨ s.hostUp = true) → pa % 32 = 0 → s.firmRun t.asid t.sigAddr 32 true = .inr [(pa, 32)] → Completes .minorFrame s (fun u =>
        u.sched.teams = [{ t with state := .closed }] ∧ HoldsAt u pa 8 t.value ∧ HoldsAt u (pa + 8) 8 t.started ∧ HoldsAt u (pa + 16) 8 t.ended
        ∧ HoldsAt u (pa + 24) 8 (t.error % 2 ^ 32 + (t.flags ||| 1) % 32 * 2 ^ 32) ∧ SameBut pa 32 s u))))
  ∧ (s.serves = false → s.minorOf = 15 → s.ident.booted = true → Completes .minorFrame s (fun u =>
    ∀ r, r < 3 → s.acting r = true → mapGet false u.firm.beat r = true))
  ∧ (s.serves = false → s.minorOf ≠ 15 → Leads .minorFrame s s)

/-- O54. Queues: the doorbell, and the commands of QCTL with what they change in the queue's entry, none of them while queues are not
served (R26, R183 to R186, R202, R203). -/
def Obligations.QueueCommands : Prop := ∀ (s : State) (q v : Nat), s.sched.qtbase % 64 = 0 →
  let at_ := s.sched.qtbase + 32 * q + 16
  let entry := s.queueWord q 2
  let answers (u : State) (code : Nat) : Prop := u.sched.qctl = none ∧ u.sched.qdone = true ∧ u.sched.qcode = code
  (q < 4096 → Leads (.qdbWrite q v) s { s with sched := { s.sched with
    qdb := mapSet 0 s.sched.qdb q (v % 2 ^ 32), bells := mapSet false s.sched.bells q true } })
  ∧ (s.serves = true → s.sched.qctl = some (q + 4096 * 1) → q < 4096 → Completes (.qctlEnable q) s (fun u => answers u (s.enableCode q)
      ∧ (s.enableCode q ≠ 0 → SameMemory s u)
      ∧ (s.enableCode q = 0 → HoldsAt u at_ 8 (setBits entry 34 32 1) ∧ SameBut at_ 8 s u ∧ mapGet false u.sched.bells q = true)))
  ∧ (s.serves = true → s.sched.qctl = some (q + 4096 * 3) → q < 4096 → Completes (.qctlClearSticky q) s (fun u => answers u 0
      ∧ HoldsAt u at_ 8 (setBits entry 37 35 0) ∧ SameBut at_ 8 s u))
  ∧ (s.serves = true → s.sched.qctl = some q → q < 4096 → Leads (.qctlNoAction q) s { s with sched := { s.sched with qctl := none, qdone := true, qcode := 0 } })
  ∧ (s.serves = true → s.sched.qctl = some (q + 4096 * 2) → q < 4096 → s.queueState q ≠ 1 →
      Leads (.qctlDestroy q) s { s with sched := { s.sched with qctl := none, qdone := true, qcode := 2 } })
  ∧ (∀ t : Team, s.serves = true → s.sched.qctl = some (q + 4096 * 2) → q < 4096 → s.queueState q = 1 → s.sched.teams = [t] → s.sched.graphs = [] → t.queue = q →
      t.state = .waiting → t.started = 0 → t.flags = 0 → Completes (.qctlDestroy q) s (fun u => u.sched.qctl = none
        ∧ u.sched.polls = s.sched.polls.filter (· != q) ∧ u.sched.destroying = s.sched.destroying ++ [q] ∧ HoldsAt u at_ 8 (setBits entry 34 32 2) ∧ SameBut at_ 8 s u
        ∧ u.sched.teams = [{ t with state := .ended, error := 0x0A, flags := 16, started := s.now, ended := s.now, lastSeq := s.seq, saved := [] }]))
  ∧ (s.serves = true → q ∈ s.sched.destroying → s.allClosed q = true → Completes (.queueDestroyFinish q) s (fun u =>
      (if s.sched.awaits q then answers u 0
        else u.sched.qctl = s.sched.qctl ∧ u.sched.qdone = s.sched.qdone ∧ u.sched.qcode = s.sched.qcode)
      ∧ u.sched.destroying = s.sched.destroying.filter (· != q)
      ∧ HoldsAt u at_ 8 (setBits (setBits entry 34 32 3) 31 0 (mapGet 0 s.sched.qdb q)) ∧ SameBut at_ 8 s u))
  ∧ (s.serves = false → Leads (.qctlEnable q) s s ∧ Leads (.qctlClearSticky q) s s ∧ Leads (.qctlNoAction q) s s ∧ Leads (.qctlDestroy q) s s
      ∧ Leads (.queueDestroyFinish q) s s)

/-! ## Commands to cells, key slots and the register windows (R6, R8, R102, R117, R120, R173, R179, R183, R219, R223, R224, R284) -/

/-- O55. CCMD's steps, the register images that a load phase or a stopped cell takes, and the key slots (R120, R179, R221, R225).
A replaced KEYCTL write and a step whose condition fails are the model's choice (log 9, log 37). -/
def Obligations.CommandsAndKeys : Prop := ∀ (s : State) (c v reg i : Nat),
  (s.takesRequest c = true → ((s.core c).st ≠ .stopped ∨ s.movingCell c = true) → Leads (.ccmdFstop c v) s
    (s.modCore c (fun k => { k with stopReq := some (if v / 2 ^ 8 % 2 ^ 8 ≤ 3 then v / 2 ^ 8 % 2 ^ 8 else 0) })))
  ∧ Completes (.ccmdYset c) s (fun t => OnlyCore c s t ∧ (t.core c).yreq = true
      ∧ (t.core c).ystat = (s.core c).ystat &&& ~~~(0x100000000 : Word))
  ∧ Leads (.ccmdYclr c) s (s.modCore c (fun k => { k with yreq := false }))
  ∧ Leads (.ccmdMset c v) s (s.modCore c (fun k => { k with migReq := some (v / 2 ^ 16 % 2 ^ 10) }))
  ∧ Leads (.ccmdMclr c) s (s.modCore c (fun k => { k with migReq := none }))
  ∧ (s.takesRequest c = false → Leads (.ccmdFstop c v) s s)
  ∧ (c < 1024 → s.takesImage c = true →
      Leads (.srimgWrite c 0x010 v) s (s.modCore c (fun k => { k with pc := v % 2 ^ 16 }))
      ∧ Leads (.srimgWrite c 0x040 v) s (s.modCore c (fun k => { k with fmt := BitVec.ofNat 64 v &&& 0x03F73FFF }))
      ∧ Leads (.srimgWrite c 0x033 v) s (s.modCore c (fun k => k.setImage 0x033 (BitVec.ofNat 64 v)))
      ∧ Completes (.srimgWrite c 0x05B v) s (fun t => ∀ x, x < 8 → (t.xferAt (s.slotKey c x)).stage = v % 2 ^ 64 / 2 ^ (7 * x) % 2 ^ 7
        ∧ (t.xferAt (s.slotKey c x)).busy = bit v (56 + x)))
  ∧ (c < 1024 → s.takesImage c = false → reg < 0x081 → reg ≠ 0x022 → Leads (.srimgWrite c reg v) s s)
  ∧ (c < 1024 → Completes (.srimgWrite c 0x081 v) s (fun t => OnlyCore c s t ∧ (t.core c).erate = v % 2 ^ 32
      ∧ (t.core c).ebal = min (s.core c).ebal (1000 * ((v % 2 ^ 32 : Nat) : Int))))
  ∧ Leads (.keydatWrite i v) s { s with sched := { s.sched with keydat := mapSet 0 s.sched.keydat (i % 8) (BitVec.ofNat 64 v) } }
  ∧ Leads (.keyctlLoad v) s { s with sched := { s.sched with keyctl := some (v % 128 + 256) } }
  ∧ Leads (.keyctlEmpty v) s { s with sched := { s.sched with keyctl := some (v % 128 + 512) } }
  ∧ (∀ n, n < 128 → s.keyInUse n = false →
      (s.sched.keyctl = some (n + 256) → Completes .keySlotUpdate s (fun t => OnlySched s t ∧ t.sched.keyctl = none ∧ t.sched.keydat = []
        ∧ mapGet none t.sched.key n = some ((List.range 8).foldl (fun x j => x + (mapGet 0 s.sched.keydat j).toNat * 2 ^ (64 * j)) 0)
        ∧ (∀ m, m ≠ n → mapGet none t.sched.key m = mapGet none s.sched.key m) ∧ t.sched.keyfull = true))
      ∧ (s.sched.keyctl = some (n + 512) → Completes .keySlotUpdate s (fun t => OnlySched s t ∧ t.sched.keyctl = none ∧ t.sched.keydat = []
        ∧ mapGet none t.sched.key n = none ∧ (∀ m, m ≠ n → mapGet none t.sched.key m = mapGet none s.sched.key m)
        ∧ t.sched.keyfull = false)))
  ∧ (∀ n, n < 128 → s.sched.keyctl = some (n + 256) → s.keyInUse n = true → Leads .keySlotUpdate s s)

/-- O56. The register windows: what a write keeps of a register's bits, and what a host's access reaches (R6, R8, R27, R102, R173, R179,
R183, R219, R223, R224, R254, R260, R262, R284). A host acts through steps of the agenda (log 46). -/
def Obligations.RegisterWindows : Prop := ∀ (s : State) (v : Nat),
  let sched (f : Sched → Sched) : State := { s with sched := f s.sched }
  let power (f : Power → Power) : State := { s with power := f s.power }
  (s.anyActive = false → Leads (.registerWrite 0x040 v) s (sched (fun x => { x with qtbase := v / 2 ^ 6 % 2 ^ 46 * 64 })))
  ∧ (s.anyActive = true → Leads (.registerWrite 0x040 v) s s)
  ∧ Leads (.registerWrite 0x048 v) s (sched (fun x => { x with qctl := some (v % 2 ^ 15), qdone := false }))
  ∧ Leads (.registerWrite 0x058 v) s (sched (fun x => { x with fdump := v / 2 ^ 12 % 2 ^ 40 * 4096 + v % 512 }))
  ∧ Leads (.registerWrite 0x060 v) s (sched (fun x => { x with slice := v % 2 ^ 32 }))
  ∧ Leads (.registerWrite 0x068 v) s (sched (fun x => { x with thmig := v % 512 }))
  ∧ Leads (.registerWrite 0x0B0 v) s (power (fun x => { x with thsave := v % 256 }))
  ∧ Leads (.registerWrite 0x0B8 v) s (power (fun x => { x with droopctl := v % 2 ^ 24 }))
  ∧ (gateOrderOk (v % 2 ^ 24) = true → Leads (.registerWrite 0x0A8 v) s (power (fun x => { x with gateOrder := v % 2 ^ 24 })))
  ∧ (gateOrderOk (v % 2 ^ 24) = false → Leads (.registerWrite 0x0A8 v) s s)
  ∧ (∀ i, i < 256 → Leads (.registerWrite (0x40100010000 + 8 * i) v) s (sched (fun x => { x with cx := mapSet 0 x.cx i (BitVec.ofNat 64 v
      &&& (if i % 4 = 0 then 0x0001FFFF0001FFFF else if i % 4 = 2 then 0x07FFFFFFFFFFF000 else 0x000FFFFFFFFFF000)) })))
  ∧ (∀ c, c < 1024 → Leads (.registerWrite (0x40110000010 + 4096 * c) v) s (s.modCore c (fun k => { k with lmbase := v % 65536 })))
  ∧ (∀ k n a, k < 4 → n = 2 ^ k → s.hostUp = true → s.hostReaches a n = true →
      Leads (.hostAccess k a v) s { s with firm := { s.firm with hostData := s.homeNat a n } }
      ∧ (a % n = 0 → Completes (.hostAccess (k + 4) a v) s (fun t => HoldsAt t a n (v % 256 ^ n) ∧ SameBut a n s t ∧ t.cores = s.cores)))
  ∧ (∀ k n a, k < 4 → n = 2 ^ k → s.hostUp = true → s.hostReaches a n = false → Leads (.hostAccess k a v) s s ∧ Leads (.hostAccess (k + 4) a v) s s)
  ∧ (∀ o, s.hostUp = true → o % 8 = 0 →
      Leads (.hostAccess 11 o v) s { s with firm := { s.firm with hostData := (s.hostLoad o 8).toNat } }
      ∧ (o < 0x40100000000 → Leads (.hostAccess 15 o v) s { s with agenda := s.agenda ++ [hostStep o (v % 2 ^ 64)] })
      ∧ (0x40100000000 ≤ o → Leads (.hostAccess 15 o v) s s))
  ∧ (∀ k a, s.hostUp = false → Leads (.hostAccess k a v) s
      { s with firm := { s.firm with hostHeld := s.firm.hostHeld ++ [(k, a, v)] } })
  ∧ hostStep 0x080 v = .curveSubmit v ∧ hostStep 0x098 v = .utcofsWrite v ∧ hostStep 0x0D0 v = .fwSubmit v ∧ hostStep 0x0E8 v = .quoteSubmit v
  ∧ (∀ n, n < 256 → hostStep (0x200 + 8 * n) v = .watchArm n v) ∧ (∀ q, q < 4096 → hostStep (0x10000 + 8 * q) v = .qdbWrite q v)

/-! ## Stops, yields, migrations and saved contexts (R201, R204 to R226, R330, R331) -/

/-- O57. Stops: which record they leave, who takes them, and how a reported fault ends its team (R201, R204, R205, R208, R211, R215).
The boundary at which a stop lands is the model's reading (log 32). -/
def Obligations.StopEvents : Prop := ∀ (s : State) (c : Nat),
  (∀ d, (s.core c).stopReq = some d → (s.core c).stoppable = true → (s.core c).late = [] → s.begun c = true → isStoker c = false →
    ((s.core c).st = .wait ∨ (s.core c).landing = true ∨ s.failing c = none) → Completes (.forcedStop c) s (fun t => SameMemory s t ∧ SameOthers c s t ∧ (t.core c).st = .stopped ∧ (t.core c).stopReq = none
      ∧ (t.core c).pc = (s.core c).pc ∧ t.sched = s.sched
      ∧ ∃ r, (t.core c).rec_ = some r ∧ r.cls = 0x0B ∧ r.detail = d ∧ r.pc = (s.core c).pc ∧ r.rpt = (s.core c).rptLeft))
  ∧ (∀ d x l, (s.core c).stopReq = some d → (s.core c).stoppable = true → (s.core c).late = [] → s.begun c = true → (s.core c).st ≠ .wait →
    (s.core c).landing = false → s.failing c = some (x, l) → Leads (.forcedStop c) s (s.stopBefore c x l))
  ∧ (∀ x, (s.core c).late = [x] → (s.core c).dueMore = 0 → (s.core c).stoppable = true → isStoker c = false → (s.core c).handles x.cls = false →
    Completes (.stopLands c) s (fun t => SameMemory s t ∧ SameOthers c s t ∧ (t.core c).st = .stopped ∧ (t.core c).late = []
      ∧ ∃ r, (t.core c).rec_ = some r ∧ r.cls = x.cls ∧ r.detail = x.detail ∧ r.addr = x.addr ∧ r.ipc = x.ipc ∧ r.more = 0
        ∧ ∀ u, s.teamOf c = some u → u.fault = none → s.team u.id = some u → t.team u.id = some { u with fault := some r, faultLid := r.lid }))
  ∧ (∀ x, (s.core c).late = [x] → (s.core c).stoppable = true → isStoker c = false → (s.core c).handles x.cls = true →
    Completes (.stopLands c) s (fun t => SameMemory s t ∧ SameOthers c s t ∧ (t.core c).st = .run
      ∧ (t.core c).pc = (s.core c).hand.hvec.toNat % 2 ^ 16 ∧ (t.core c).rptLeft = 0 ∧ (t.core c).latches = []
      ∧ (t.core c).hand.shadow = (s.core c).latches ∧ bit (t.core c).hand.epc.toNat 63 = true
      ∧ (t.core c).hand.epc.toNat % 2 ^ 16 = (s.core c).pc % 2 ^ 16 ∧ t.sched = s.sched))
  ∧ (16777216 ≤ (s.core c).holdCyc → (s.core c).stoppable = true → isStoker c = false → (s.core c).handles 0x0B = false →
    Completes (.holdLimit c) s (fun t => (t.core c).st = .stopped ∧ ∃ r, (t.core c).rec_ = some r ∧ r.cls = 0x0B ∧ r.detail = 1))
  ∧ (∀ x, (s.core c).late = [x] → (s.core c).st = .halted → Completes (.asyncFaultReport c) s (fun t => (t.core c).late = []
      ∧ (t.core c).st = .halted ∧ SameMemory s t ∧ SameOthers c s t ∧ ∃ r, (t.core c).rec_ = some r ∧ r.cls = x.cls ∧ r.detail = x.detail))
  ∧ (∀ x q, (s.core c).late = [x] → (s.core c).st = .stopped → (s.core c).rec_ = some q → Leads (.asyncFaultReport c) s
      (s.modCore c (fun k => { k with
        late := [], rec_ := some { q with more := min (q.more + 1) 0xFFFFFFFF }, dueMore := if k.due.isSome then k.dueMore + 1 else k.dueMore })))
  ∧ (∀ id t r, s.team id = some t → t.fault = some r → t.state = .resident → s.collects = [] →
    (∃ w ∈ t.workers, (s.core w).st ≠ .halted) → Completes (.faultTeamEnd id) s (fun u =>
      u.team id = some { t with
          state := .ending, ended := s.now, flags := addFlags t.flags 2
          error := r.cls + r.detail * 2 ^ 8 + (t.faultLid % 1024 * 2 ^ 16 + 2 ^ 26) }
      ∧ (∀ w ∈ t.workers, (s.core w).st ≠ .halted → (u.core w).stopReq = some 2) ∧ SameMemory s u))
  ∧ (∀ id t r, s.team id = some t → t.fault = some r → t.state = .ending → s.atRest t = true → s.dumpPlace t.asid = none →
    Completes (.faultTeamEnd id) s (fun u => u.team id = some { t with state := .ended, lastSeq := s.seq, saved := [] }
      ∧ (∀ w ∈ t.cells, (u.core w).st = .free) ∧ SameMemory s u))

/-- O58. Yields, migrations, saved and restored contexts, and a cell's clear (R121, R221, R222, R226, R330, R331). The middle
of a migration and a resumed image are the model's readings (log 10, log 34). -/
def Obligations.DepartureEvents : Prop := ∀ (s : State) (c : Nat),
  (s.yieldDue c = true → (s.core c).landing = false → (s.core c).forcesEpilogue = false →
    Leads (.yieldLands c) s (s.modCore c (fun k => { k with landing := true, st := .hold, waitk := 5 })))
  ∧ ((s.core c).landing = true → (s.core c).st = .hold → (s.core c).quiet = true → s.drained c = true → s.teamOf c = none →
    bit (s.core c).ystat.toNat 33 = false → Completes (.yieldLands c) s (fun t => (t.core c).st = .stopped ∧ (t.core c).yreq = false
      ∧ (t.core c).landing = false ∧ (t.core c).rec_ = none ∧ (t.core c).pc = (s.core c).pc ∧ SameMemory s t ∧ SameOthers c s t))
  ∧ (∀ n e, s.yieldDue c = true → (s.core c).ycfg.toNat / 2 ^ 32 % 8 = n → 1 ≤ n → n ≤ 6 → n ≤ (s.core c).loops.length →
    (s.core c).loops.reverse[n - 1]? = some e → Completes (.forcedEpilogue c) s (fun t => OnlyCore c s t
      ∧ (t.core c).pc = (s.core c).ycfg.toNat % 2 ^ 16 ∧ (t.core c).loops.length = n - 1
      ∧ (t.core c).ystat.toNat % 2 ^ 32 = e.index % 2 ^ 32 ∧ bit (t.core c).ystat.toNat 33 = true))
  ∧ (∀ b u, (s.core c).migReq = some b → s.teamOf c = some u → s.atIb c = true → s.movable u c = true → s.cellIdle b = true →
    (s.core c).spcap ≤ (s.core b).spcap → Leads (.migrationLands c) s
      { (s.count c 0x1F 1).modCore c (fun k => { k with st := .stopped, waitk := 0, migReq := none }) with
        sched := { s.sched with migs := s.sched.migs ++ [⟨u.id, c, b, s.now⟩] } })
  ∧ (∀ m t, s.sched.migs = [m] → m.source = c → c ≠ m.target → s.team m.team = some t → m.since * nsUnit + s.moveTime c ≤ s.time → s.writes = [] →
    s.reads = [] → Completes (.migrationComplete c) s (fun u => u.sched.migs = [] ∧ (u.core c).st = .free
      ∧ (u.core m.target).st = .run ∧ (u.core m.target).pc = (s.core c).pc ∧ (∀ r, (u.core m.target).reg r = (s.core c).reg r)
      ∧ (u.core m.target).spcap = (s.core m.target).spcap
      ∧ (u.team m.team).map Team.cells = some (t.cells.map (fun x => if x = c then m.target else x))
      ∧ mapGet 0 u.sched.lidmap (t.lmbase + t.lidOf c) = m.target))
  ∧ (∀ a b k, (s.core 1024).waits = { Waits.none with op := some (.ctxs a b), arg := k } → k % 2 ^ 64 % 2 ^ 10 = c → s.mayLeave c = true →
    Completes (.contextSaveComplete c) s (fun t => (t.core 1024).st = .run ∧ (t.core 1024).waits = Waits.none ∧ SameOthers 1024 s t
      ∧ t = { s with mem := t.mem, ueMem := t.ueMem, images := t.images, cores := t.cores }))
  ∧ (∀ a b k, (s.core 1024).waits = { Waits.none with op := some (.ctxr a b), arg := k } → k % 2 ^ 64 % 2 ^ 10 = c → k % 2 ^ 20 / 2 ^ 16 = 0 → c < 1024 →
    Completes (.contextRestoreComplete c) s (fun t => (t.core 1024).st = .run ∧ (t.core 1024).waits = Waits.none ∧ SameMemory s t
      ∧ (t.core c).st = (if (s.imageAt (k / 2 ^ 64 % 2 ^ 64) none c 0).core.st = .halted then .halted else .free)
      ∧ (t.core c).pc = (s.imageAt (k / 2 ^ 64 % 2 ^ 64) none c 0).core.pc ∧ (t.core c).spcap = (s.core c).spcap
      ∧ ∀ r, (t.core c).reg r = (s.imageAt (k / 2 ^ 64 % 2 ^ 64) none c 0).core.reg r))
  ∧ (c ∈ s.sched.clearing → Completes (.cellClearDone c) s (fun t => t.sched.clearing = s.sched.clearing.filter (· != c)
      ∧ (t.core c).st = .free ∧ (t.core c).tags = [] ∧ (t.core c).ctxt = 0 ∧ (t.core c).spcap = (s.core c).spcap
      ∧ (∀ o, o < (s.core c).spcap → t.home (spKey c o) = 0) ∧ SameBut (spKey c 0) (s.core c).spcap s t ∧ SameOthers c s t))

/-! ## Firmware (R273 to R283) -/

/-- O59. Hand-overs, heartbeats, role moves and quotes (R273, R275 to R283). A step whose condition fails changes nothing
(log 9). -/
def Obligations.FirmwareEvents : Prop := ∀ (s : State),
  (∀ v, s.firm.fbusy = true → Leads (.fwSubmit v) s { s with firm := { s.firm with fdrop := true } })
  ∧ (∀ v, s.firm.fbusy = false → v % 4 ≠ 3 → Completes (.fwSubmit v) s (fun t => OnlyFirm s t ∧ t.firm.fbusy = true ∧ t.firm.frole = v % 4
      ∧ t.firm.fwsub = some ⟨v % 4, v / 2 ^ 6 % 2 ^ 46 * 64, 1, 0, 0, 0, Image.none, Image.none, 0⟩))
  ∧ (∀ h, s.firm.fwsub = some h → h.phase = 1 → s.standbys.head? = none →
      Leads .handoverStage s { s with firm := { s.firm with fwsub := none, fbusy := false, fresult := 4 } })
  ∧ (∀ h n, s.firm.fwsub = some h → h.phase = 1 → s.standbys.head? = some n → Completes .handoverStage s (fun t => t = { s with firm := t.firm, mem := t.mem }
      ∧ t.firm.fnew = n ∧ t.firm.role = s.firm.role ∧ t.firm.images = s.firm.images
      ∧ match s.stageCheck h.role h.addr with
        | .inl e => OnlyFirm s t ∧ t.firm.fwsub = none ∧ t.firm.fbusy = false ∧ t.firm.fresult = e ∧ t.firm.meas = s.firm.meas
        | .inr im => if 1024 < s.firm.log.length + 2 then OnlyFirm s t ∧ t.firm.fwsub = none ∧ t.firm.fresult = 7 ∧ t.firm.meas = s.firm.meas
          else t.firm.log.length = s.firm.log.length + 1 ∧ t.firm.fwsub.map Handover.phase = some 3
            ∧ (∀ i, i < im.body.length → t.home (localKey (1024 + n) i) = im.body.getD i 0)
            ∧ SameBut (localKey (1024 + n) 0) im.body.length s t ∧ t.firm.fwsub.map Handover.image = some im ∧ t.firm.fwsub.map Handover.newStk = some n
            ∧ mapGet [] t.firm.meas h.role = (sha256 ((mapGet (List.replicate 32 0) s.firm.meas h.role).map BitVec.toNat
              ++ im.digest.map BitVec.toNat)).map (BitVec.ofNat 8)))
  ∧ (∀ h, s.firm.fwsub = some h → h.phase = 3 → let pa := mgmtBase + 0x200000 + h.role * 0x20000 + s.frame % 2 * 0x8000
      Completes .handoverQuiesce s (fun t => t.firm.fwsub = some { h with phase := 4, frame := s.frame } ∧ HoldsAt t pa 4 0x4B4C4248
        ∧ HoldsAt t (pa + 4) 2 h.old.layout ∧ HoldsAt t (pa + 6) 1 h.role ∧ HoldsAt t (pa + 7) 1 1 ∧ HoldsAt t (pa + 8) 8 s.frame
        ∧ SameBut pa 0x8000 s t))
  ∧ (∀ h, s.firm.fwsub = some h → h.phase = 4 → Completes .handoverAdopt s (fun t =>
      if (s.latestLayout h.role 0).any (fun l => decide (h.image.oldlay ≤ l) && decide (l ≤ h.image.layout)) then
        t.firm.fwsub = some { h with phase := 5, hbs := 0 } ∧ t.roleOf h.newStk = h.role ∧ t.roleImage h.role = h.image
          ∧ t.ident.measgen = (s.ident.measgen + 1) % 2 ^ 32 ∧ (bit s.firm.evring 0 = false → SameMemory s t)
      else t.firm.fwsub = none ∧ t.firm.fbusy = false ∧ t.firm.fresult = 5 ∧ t.firm.role = s.firm.role ∧ SameMemory s t))
  ∧ (∀ h, s.firm.fwsub = some h → h.phase = 5 → 4096 ≤ h.hbs → Completes .handoverConfirm s (fun t => t = { s with firm := t.firm, mem := t.mem, cores := t.cores }
      ∧ (∀ a, a < 2 ^ 52 → t.home a = s.home a) ∧ SameOthers (1024 + h.oldStk) s t ∧ (t.core (1024 + h.oldStk)).st = .free ∧ t.firm.fwsub = none
      ∧ t.firm.fbusy = false ∧ t.firm.fresult = 0 ∧ t.firm.role = s.firm.role
      ∧ mapGet 0 t.firm.svnmin h.role = max (mapGet 0 s.firm.svnmin h.role) h.image.svn))
  ∧ (∀ h, s.firm.fwsub = some h → h.hbs < 4096 → Leads .handoverConfirm s s)
  ∧ (∀ h, s.firm.fallback = some h → Completes .fallBack s (fun t => t.firm.fallback = none ∧ t.firm.fwsub = none ∧ t.firm.fresult = 6
      ∧ t.roleOf h.oldStk = h.role ∧ t.roleImage h.role = h.old ∧ t.ident.measgen = (s.ident.measgen + 1) % 2 ^ 32
      ∧ (bit s.firm.evring 0 = false → SameMemory s t)))
  ∧ (s.ident.booted = true → s.ident.bootfail = false → s.firm.fwsub = none → s.firm.moving = [] → s.firm.fallback = none → s.firm.fresh = [] →
    ((∀ r, r < 3 → mapGet false s.firm.beat r = true) → Completes .heartbeatCheck s (fun t => OnlyFirm s t ∧ t.firm.beat = []
      ∧ t.firm.moving = [] ∧ ∀ r, r < 3 → mapGet 0 t.firm.missed r = 0))
    ∧ (∀ r, r < 3 → (∀ q, q < 3 → mapGet false s.firm.beat q = (q != r)) → mapGet 0 s.firm.missed r = 1 →
      Completes .heartbeatCheck s (fun t => t.firm.beat = [] ∧ (∀ k, k < 6 → s.roleOf k = r → k ∈ t.firm.dead)
        ∧ (∀ n, s.standbys.head? = some n → s.roleImage r ≠ Image.none → mapGet none t.firm.moving r = some n)
        ∧ (s.standbys.head? = none ∨ s.roleImage r = Image.none → t.ident.ready = false) ∧ (∀ a, a < 2 ^ 52 → t.home a = s.home a)
        ∧ (∀ k, k < 6 → s.roleOf k = r → (t.core (1024 + k)).st = .stopped) ∧ ∀ c, c < 1024 → t.core c = s.core c)))
  ∧ (∀ r n, s.firm.moving = [(r, some n)] → bit s.firm.evring 0 = false → Completes .roleMoveTakeover s (fun t => t.roleOf n = r
      ∧ t.roleImage r = s.roleImage r ∧ t.firm.moving = [] ∧ mapGet 0 t.firm.missed r = 0 ∧ SameMemory s t ∧ t.ident.measgen = s.ident.measgen))
  ∧ (∀ v pa, s.firm.quote = some pa → Leads (.quoteSubmit v) s { s with firm := { s.firm with qdrop := true } })
  ∧ (∀ v, s.firm.quote = none → Leads (.quoteSubmit v) s
      { s with firm := { s.firm with quote := some (v / 2 ^ 12 % 2 ^ 40 * 4096), qdone := false } })
  ∧ (∀ pa, s.firm.quote = some pa → s.acting 0 = true → s.firm.sigLeft = 0 →
      Leads .quoteDone s { s with firm := { s.firm with quote := none, qdone := true, qexh := true } })
  ∧ (∀ pa, s.firm.quote = some pa → s.acting 0 = true → s.firm.sigLeft ≠ 0 → pa % 4096 = 0 → (∀ i, i < 5364 → s.isHole (pa + i) = false) →
      Completes .quoteDone s (fun t => t.firm.quote = none ∧ t.firm.qdone = true ∧ t.firm.sigLeft = s.firm.sigLeft - 1
        ∧ HoldsAt t pa 4 0x51544F51 ∧ HoldsAt t (pa + 16) 8 s.now ∧ HoldsAt t (pa + 24) 8 (1048576 - s.firm.sigLeft)
        ∧ HoldsAt t (pa + 32) 4 s.ident.measgen ∧ (∀ i, i < 32 → t.home (pa + 40 + i) = s.home (pa + i)) ∧ HoldsAt t (pa + 288) 4 0x1000000 ∧ SameBut pa 5364 s t))

/-! ## Links (R285 to R290) -/

/-- O60. The steps of a link, its watches, and the isolation of a die (R285 to R290). Retraining outcomes, the resends of a
narrowing and which accesses an isolation drops are the model's readings (log 42, log 43). -/
def Obligations.LinkEvents : Prop := ∀ (s : State) (n v : Nat),
  let l := mapGet Link.reset s.links n
  let after (t : State) : Link := mapGet Link.reset t.links n
  let changes (i : Instr) (m : Link) : Prop := Leads i s { s with links := mapSet Link.reset s.links n m }
  let armed : Word := BitVec.ofNat 64 (v % 2 + (field (mapGet 0 s.firm.watch n) 1 1 - v / 2 % 2) * 2 + v / 2 ^ 5 % 2 ^ 47 * 2 ^ 5 + v / 2 ^ 52 % 2 ^ 11 * 2 ^ 52)
  let signal := v / 2 ^ 5 % 2 ^ 47 * 32
  (n < 256 → (v % 2 = 0 ∨ s.signalDone signal = false) → Leads (.watchArm n v) s { s with firm := { s.firm with watch := mapSet 0 s.firm.watch n armed } })
  ∧ (n < 256 → v % 2 = 1 → s.signalDone signal = true → Completes (.watchArm n v) s (fun t =>
      mapGet 0 t.firm.watch n = (armed &&& ~~~(1 : Word)) ||| 2 ∧ t.firm.msgs = v / 2 ^ 52 % 2 ^ 11 :: s.firm.msgs ∧ SameMemory s t))
  ∧ (256 ≤ n → Leads (.watchArm n v) s s)
  ∧ (s.hostUp = true → Leads (.linkAccessTimeout n) s s)
  ∧ (s.hostUp = false → (s.xferAt n).busy = true → (s.xferAt n).fault = none →
      (∃ a t, a ∈ (s.xferAt n).acc ∧ a.host = some t ∧ max t (mapGet Link.reset s.links 18).since + 10000000 ≤ s.now) →
      Completes (.linkAccessTimeout n) s (fun t => (∀ a ∈ (t.xferAt n).acc, a.host = none)
        ∧ (∃ c, (t.xferAt n).fault = some c ∧ c.cls = 0x0F ∧ c.detail = 0) ∧ SameMemory s t))
  ∧ (n < 28 → l.up = true → l.held = [] → l.awaited = [] → v % 4096 = l.nextIn →
      (v / 2 ^ 14 % 2 = 1 → v / 2 ^ 28 % 16 ≤ 6 → Completes (.flitReceive n v) s (fun t => OnlyLinks s t
        ∧ (after t).got = ⟨v % 4096, v / 2 ^ 12 % 4, v / 2 ^ 32 % 2 ^ 1872, 0⟩ :: l.got
        ∧ (after t).feccor = (if v / 2 ^ 28 % 16 = 0 then l.feccor else min (l.feccor + 1) 0xFFFFFF)
        ∧ (∀ i, (after t).laneErrs i = (if l.errAt = s.now / 1000000 then l.laneErrs i else 0) + (l.errLanes v (v / 2 ^ 28 % 16)).count i) ∧ (after t).reply = some (v % 4096, true)
        ∧ (after t).nextIn = (v % 4096 + 1) % 4096
        ∧ (after t).window = if v / 2 ^ 15 % 2 = 1 then l.window.filter (fun f => f.seq != v / 2 ^ 16 % 2 ^ 12) else l.window))
      ∧ ((v / 2 ^ 14 % 2 = 0 ∨ 6 < v / 2 ^ 28 % 16) → Completes (.flitReceive n v) s (fun t => OnlyLinks s t ∧ (after t).got = l.got
        ∧ (after t).reply = some (v % 4096, false) ∧ (after t).window = l.window)))
  ∧ (∀ f, l.up = true → l.sentFlits.find? (fun f => f.seq == v % 4096) = some f →
      (f.sent < s.retryLimit → Completes (.flitNakReceive n v) s (fun t => OnlyLinks s t ∧ (after t).replay = min (l.replay + 1) 0xFFFFFFFF
        ∧ (after t).window = l.window.map (fun g => if g.seq == v % 4096 then { g with sent := g.sent + 1 } else g)))
      ∧ (s.retryLimit ≤ f.sent → Completes (.flitNakReceive n v) s (fun t => t.agenda = s.agenda ++ [.linkRetrain n])))
  ∧ (19 ≤ n → n < 27 → s.retrains n = true → Completes (.linkRetrain n) s (fun t => t.choice = s.choice + 1
      ∧ (after t).retrain = min (l.retrain + 1) 0xFFFFFFFF ∧ SameMemory s t
      ∧ (if Config.deviceChoice s.choice % 2 = 0 then (after t).up = true ∧ (after t).half = false ∧ (after t).lanes = fullLanes n
            ∧ t.agenda = s.agenda
          else (after t).up = false ∧ t.agenda = s.agenda ++ [.dieIsolation (n - 19)])))
  ∧ (n = 18 → s.retrains 18 = true → Config.deviceChoice s.choice % 2 = 0 → s.firm.sigHeld = [] → Completes (.linkRetrain 18) s (fun t =>
      (after t).up = true ∧ t.agenda = s.agenda ++ s.firm.hostHeld.map (fun a => .hostAccess a.1 a.2.1 a.2.2)
      ∧ t.firm = { s.firm with hostHeld := [], sigHeld := [] } ∧ SameMemory s t))
  ∧ (s.retrains n = false → Leads (.linkRetrain n) s s)
  ∧ (n < 28 → l.up = true → changes (.linkTrainingLost n) { l with up := false, lost := true, since := s.now })
  ∧ (∀ i, n < 28 → l.up = true → l.half = false → l.repair = none → l.spare < spareLanes n → s.laneOver n s.repairLimit = some i →
      ((∀ f ∈ l.sentFlits, f.sent = 0) → changes (.laneRepairStart n)
        { l with spare := l.spare + 1, repairs := min (l.repairs + 1) 255, repair := none, failing := none, errs := mapSet 0 l.errs i 0 })
      ∧ ((∃ f ∈ l.sentFlits, f.sent ≠ 0) →
        changes (.laneRepairStart n) { l with repair := some (l.sentFlits.map Flit.seq), failing := some i }))
  ∧ (s.laneOver n s.repairLimit = none → Leads (.laneRepairStart n) s s)
  ∧ (∀ q i, l.repair = some q → l.failing = some i → (∀ f ∈ l.window, f.seq ∉ q) → changes (.laneSpareSwap n)
      { l with spare := l.spare + 1, repairs := min (l.repairs + 1) 255, repair := none, failing := none, errs := mapSet 0 l.errs i 0 })
  ∧ (s.laneOver n s.dropLimit = none → Leads (.linkNarrow n) s s)
  ∧ (l.up = true → l.half = false → (s.laneOver n s.dropLimit).isSome = true → Completes (.linkNarrow n) s (fun t => OnlyLinks s t ∧ (after t).half = true
      ∧ (after t).lanes = l.lanes / 2 ∧ (after t).repair = none ∧ (after t).replay = min (l.replay + min 256 l.window.length) 0xFFFFFFFF))
  ∧ (n < 8 → bit s.ident.dieok n = true → n ∉ s.ident.fenced → s.writes = [] → s.collects = [] → Completes (.dieIsolation n) s (fun t =>
      t.ident.fenced = n :: s.ident.fenced ∧ bit t.ident.gated n = true ∧ t.ident.isorec = n + 8 + min (s.droppedBy n) 0xFFFFFFF * 16
      ∧ (∀ c ∈ cellsOfDie n, (t.core c).st = .free ∨ (t.core c).st = .stopped) ∧ SameMemory s t
      ∧ (∀ u : Team, s.sched.teams = [u] → u.state = .resident → (∃ c ∈ u.cells, dieOf c = n) →
          t.sched.teams.map (fun x => (x.state, x.error)) = [(.ending, 0x10F)])))
  ∧ (n ∈ s.ident.fenced → Leads (.dieIsolation n) s s)
end

