-- ==== Sys2Proof/Laws/Exec.lean ====
section
/-!
SUPPORT. Laws/Exec.lean: one lemma for each constructor: what `exec` answers is its own meaning's answer.
-/
namespace Sys2Proof.Machine

@[simp] theorem exec_nopCtl (s : State) : exec .nopCtl s = execNopCtl s := rfl
@[simp] theorem exec_br (cnd : BitVec 2) (c : BitVec 6) (tgt : BitVec 16) (s : State) : exec (.br cnd c tgt) s = execBr cnd c tgt s := rfl
@[simp] theorem exec_bri (cnd : BitVec 2) (c : BitVec 6) (b : BitVec 6) (s : State) : exec (.bri cnd c b) s = execBri cnd c b s := rfl
@[simp] theorem exec_call (d : BitVec 6) (tgt : BitVec 16) (s : State) : exec (.call d tgt) s = execCall d tgt s := rfl
@[simp] theorem exec_ret (a : BitVec 6) (s : State) : exec (.ret a) s = execRet a s := rfl
@[simp] theorem exec_loopReg (a : BitVec 6) (e : BitVec 16) (s : State) : exec (.loopReg a e) s = execLoopReg a e s := rfl
@[simp] theorem exec_loopImm (n : BitVec 7) (e : BitVec 16) (s : State) : exec (.loopImm n e) s = execLoopImm n e s := rfl
@[simp] theorem exec_lbrk (s : State) : exec .lbrk s = execLbrk s := rfl
@[simp] theorem exec_halt (s : State) : exec .halt s = execHalt s := rfl
@[simp] theorem exec_wait (ldl : BitVec 4) (stl : BitVec 4) (cpl : BitVec 4) (tll : BitVec 4) (s : State) : exec (.wait ldl stl cpl tll) s = execWait ldl stl cpl tll s := rfl
@[simp] theorem exec_waitpred (s : State) : exec .waitpred s = execWaitpred s := rfl
@[simp] theorem exec_handoff (s : State) : exec .handoff s = execHandoff s := rfl
@[simp] theorem exec_yield (s : State) : exec .yield s = execYield s := rfl
@[simp] theorem exec_trap (code : BitVec 8) (s : State) : exec (.trap code) s = execTrap code s := rfl
@[simp] theorem exec_eret (s : State) : exec .eret s = execEret s := rfl
@[simp] theorem exec_drain (ord : BitVec 3) (scp : BitVec 3) (s : State) : exec (.drain ord scp) s = execDrain ord scp s := rfl
@[simp] theorem exec_bar (scp : BitVec 3) (s : State) : exec (.bar scp) s = execBar scp s := rfl
@[simp] theorem exec_release (a : BitVec 6) (s : State) : exec (.release a) s = execRelease a s := rfl
@[simp] theorem exec_ctxs (a : BitVec 6) (b : BitVec 6) (s : State) : exec (.ctxs a b) s = execCtxs a b s := rfl
@[simp] theorem exec_ctxr (a : BitVec 6) (b : BitVec 6) (s : State) : exec (.ctxr a b) s = execCtxr a b s := rfl
@[simp] theorem exec_nopS (s : State) : exec .nopS s = execNopS s := rfl
@[simp] theorem exec_addSr (d : BitVec 6) (a : BitVec 6) (b : BitVec 6) (t : BitVec 4) (s : State) : exec (.addSr d a b t) s = execAddSr d a b t s := rfl
@[simp] theorem exec_addSi (d : BitVec 6) (a : BitVec 6) (imm : BitVec 11) (s : State) : exec (.addSi d a imm) s = execAddSi d a imm s := rfl
@[simp] theorem exec_subSr (d : BitVec 6) (a : BitVec 6) (b : BitVec 6) (t : BitVec 4) (s : State) : exec (.subSr d a b t) s = execSubSr d a b t s := rfl
@[simp] theorem exec_subSi (d : BitVec 6) (a : BitVec 6) (imm : BitVec 11) (s : State) : exec (.subSi d a imm) s = execSubSi d a imm s := rfl
@[simp] theorem exec_mulSr (d : BitVec 6) (a : BitVec 6) (b : BitVec 6) (t : BitVec 4) (s : State) : exec (.mulSr d a b t) s = execMulSr d a b t s := rfl
@[simp] theorem exec_mulSi (d : BitVec 6) (a : BitVec 6) (imm : BitVec 11) (s : State) : exec (.mulSi d a imm) s = execMulSi d a imm s := rfl
@[simp] theorem exec_mulh (d : BitVec 6) (a : BitVec 6) (b : BitVec 6) (t : BitVec 4) (s : State) : exec (.mulh d a b t) s = execMulh d a b t s := rfl
@[simp] theorem exec_div (d : BitVec 6) (a : BitVec 6) (b : BitVec 6) (t : BitVec 4) (s : State) : exec (.div d a b t) s = execDiv d a b t s := rfl
@[simp] theorem exec_rem (d : BitVec 6) (a : BitVec 6) (b : BitVec 6) (t : BitVec 4) (s : State) : exec (.rem d a b t) s = execRem d a b t s := rfl
@[simp] theorem exec_andSr (d : BitVec 6) (a : BitVec 6) (b : BitVec 6) (t : BitVec 4) (s : State) : exec (.andSr d a b t) s = execAndSr d a b t s := rfl
@[simp] theorem exec_andSi (d : BitVec 6) (a : BitVec 6) (imm : BitVec 11) (s : State) : exec (.andSi d a imm) s = execAndSi d a imm s := rfl
@[simp] theorem exec_orSr (d : BitVec 6) (a : BitVec 6) (b : BitVec 6) (t : BitVec 4) (s : State) : exec (.orSr d a b t) s = execOrSr d a b t s := rfl
@[simp] theorem exec_orSi (d : BitVec 6) (a : BitVec 6) (imm : BitVec 11) (s : State) : exec (.orSi d a imm) s = execOrSi d a imm s := rfl
@[simp] theorem exec_xorSr (d : BitVec 6) (a : BitVec 6) (b : BitVec 6) (t : BitVec 4) (s : State) : exec (.xorSr d a b t) s = execXorSr d a b t s := rfl
@[simp] theorem exec_xorSi (d : BitVec 6) (a : BitVec 6) (imm : BitVec 11) (s : State) : exec (.xorSi d a imm) s = execXorSi d a imm s := rfl
@[simp] theorem exec_andnSr (d : BitVec 6) (a : BitVec 6) (b : BitVec 6) (t : BitVec 4) (s : State) : exec (.andnSr d a b t) s = execAndnSr d a b t s := rfl
@[simp] theorem exec_andnSi (d : BitVec 6) (a : BitVec 6) (imm : BitVec 11) (s : State) : exec (.andnSi d a imm) s = execAndnSi d a imm s := rfl
@[simp] theorem exec_shlSr (d : BitVec 6) (a : BitVec 6) (b : BitVec 6) (t : BitVec 4) (s : State) : exec (.shlSr d a b t) s = execShlSr d a b t s := rfl
@[simp] theorem exec_shlSi (d : BitVec 6) (a : BitVec 6) (imm : BitVec 11) (s : State) : exec (.shlSi d a imm) s = execShlSi d a imm s := rfl
@[simp] theorem exec_shrSr (d : BitVec 6) (a : BitVec 6) (b : BitVec 6) (t : BitVec 4) (s : State) : exec (.shrSr d a b t) s = execShrSr d a b t s := rfl
@[simp] theorem exec_shrSi (d : BitVec 6) (a : BitVec 6) (imm : BitVec 11) (s : State) : exec (.shrSi d a imm) s = execShrSi d a imm s := rfl
@[simp] theorem exec_sraSr (d : BitVec 6) (a : BitVec 6) (b : BitVec 6) (t : BitVec 4) (s : State) : exec (.sraSr d a b t) s = execSraSr d a b t s := rfl
@[simp] theorem exec_sraSi (d : BitVec 6) (a : BitVec 6) (imm : BitVec 11) (s : State) : exec (.sraSi d a imm) s = execSraSi d a imm s := rfl
@[simp] theorem exec_clz (d : BitVec 6) (a : BitVec 6) (t : BitVec 4) (s : State) : exec (.clz d a t) s = execClz d a t s := rfl
@[simp] theorem exec_popc (d : BitVec 6) (a : BitVec 6) (t : BitVec 4) (s : State) : exec (.popc d a t) s = execPopc d a t s := rfl
@[simp] theorem exec_minSr (d : BitVec 6) (a : BitVec 6) (b : BitVec 6) (t : BitVec 4) (s : State) : exec (.minSr d a b t) s = execMinSr d a b t s := rfl
@[simp] theorem exec_minSi (d : BitVec 6) (a : BitVec 6) (imm : BitVec 11) (s : State) : exec (.minSi d a imm) s = execMinSi d a imm s := rfl
@[simp] theorem exec_maxSr (d : BitVec 6) (a : BitVec 6) (b : BitVec 6) (t : BitVec 4) (s : State) : exec (.maxSr d a b t) s = execMaxSr d a b t s := rfl
@[simp] theorem exec_maxSi (d : BitVec 6) (a : BitVec 6) (imm : BitVec 11) (s : State) : exec (.maxSi d a imm) s = execMaxSi d a imm s := rfl
@[simp] theorem exec_cmpSc (d : BitVec 6) (a : BitVec 6) (b : BitVec 6) (cnd : BitVec 4) (s : State) : exec (.cmpSc d a b cnd) s = execCmpSc d a b cnd s := rfl
@[simp] theorem exec_cmpSci (d : BitVec 6) (a : BitVec 6) (cnd : BitVec 4) (imm : BitVec 7) (s : State) : exec (.cmpSci d a cnd imm) s = execCmpSci d a cnd imm s := rfl
@[simp] theorem exec_sel (d : BitVec 6) (a : BitVec 6) (b : BitVec 6) (c : BitVec 5) (s : State) : exec (.sel d a b c) s = execSel d a b c s := rfl
@[simp] theorem exec_movSm (d : BitVec 6) (a : BitVec 6) (k : BitVec 3) (s : State) : exec (.movSm d a k) s = execMovSm d a k s := rfl
@[simp] theorem exec_movSwi (d : BitVec 6) (imm : BitVec 17) (s : State) : exec (.movSwi d imm) s = execMovSwi d imm s := rfl
@[simp] theorem exec_movh (d : BitVec 6) (imm : BitVec 16) (s : State) : exec (.movh d imm) s = execMovh d imm s := rfl
@[simp] theorem exec_ext (d : BitVec 6) (a : BitVec 6) (pos : BitVec 6) (len : BitVec 5) (s : State) : exec (.ext d a pos len) s = execExt d a pos len s := rfl
@[simp] theorem exec_ins (d : BitVec 6) (a : BitVec 6) (pos : BitVec 6) (len : BitVec 5) (s : State) : exec (.ins d a pos len) s = execIns d a pos len s := rfl
@[simp] theorem exec_ld (d : BitVec 6) (a : BitVec 6) (sz : BitVec 2) (sx : BitVec 1) (ord : BitVec 3) (scp : BitVec 3) (g : BitVec 1) (s : State) : exec (.ld d a sz sx ord scp g) s = execLd d a sz sx ord scp g s := rfl
@[simp] theorem exec_st (d : BitVec 6) (a : BitVec 6) (sz : BitVec 2) (ord : BitVec 3) (scp : BitVec 3) (g : BitVec 1) (s : State) : exec (.st d a sz ord scp g) s = execSt d a sz ord scp g s := rfl
@[simp] theorem exec_amo (d : BitVec 6) (a : BitVec 6) (aop : BitVec 4) (w : BitVec 1) (ord : BitVec 3) (scp : BitVec 3) (s : State) : exec (.amo d a aop w ord scp) s = execAmo d a aop w ord scp s := rfl
@[simp] theorem exec_cas (d : BitVec 6) (a : BitVec 6) (w : BitVec 1) (ords : BitVec 3) (ordf : BitVec 3) (scp : BitVec 3) (s : State) : exec (.cas d a w ords ordf scp) s = execCas d a w ords ordf scp s := rfl
@[simp] theorem exec_tagl (d : BitVec 6) (a : BitVec 6) (s : State) : exec (.tagl d a) s = execTagl d a s := rfl
@[simp] theorem exec_tags (a : BitVec 6) (b : BitVec 6) (s : State) : exec (.tags a b) s = execTags a b s := rfl
@[simp] theorem exec_tagi (a : BitVec 6) (s : State) : exec (.tagi a) s = execTagi a s := rfl
@[simp] theorem exec_mfsr (d : BitVec 6) (sys : BitVec 11) (s : State) : exec (.mfsr d sys) s = execMfsr d sys s := rfl
@[simp] theorem exec_mtsr (a : BitVec 6) (sys : BitVec 11) (s : State) : exec (.mtsr a sys) s = execMtsr a sys s := rfl
@[simp] theorem exec_qpoll (d : BitVec 6) (a : BitVec 6) (s : State) : exec (.qpoll d a) s = execQpoll d a s := rfl
@[simp] theorem exec_sigw (a : BitVec 6) (b : BitVec 6) (s : State) : exec (.sigw a b) s = execSigw a b s := rfl
@[simp] theorem exec_nopCfg (s : State) : exec .nopCfg s = execNopCfg s := rfl
@[simp] theorem exec_sfmtReg (a : BitVec 6) (s : State) : exec (.sfmtReg a) s = execSfmtReg a s := rfl
@[simp] theorem exec_sfmtField (fld : BitVec 3) (val : BitVec 4) (s : State) : exec (.sfmtField fld val) s = execSfmtField fld val s := rfl
@[simp] theorem exec_sscl (a : BitVec 6) (grp : BitVec 2) (s : State) : exec (.sscl a grp) s = execSscl a grp s := rfl
@[simp] theorem exec_sunf (a : BitVec 6) (b : BitVec 6) (s : State) : exec (.sunf a b) s = execSunf a b s := rfl
@[simp] theorem exec_sswzReg (a : BitVec 6) (s : State) : exec (.sswzReg a) s = execSswzReg a s := rfl
@[simp] theorem exec_sswzImm (v : BitVec 13) (s : State) : exec (.sswzImm v) s = execSswzImm v s := rfl
@[simp] theorem exec_sapxKnob (qk : BitVec 4) (s : State) : exec (.sapxKnob qk) s = execSapxKnob qk s := rfl
@[simp] theorem exec_sapxExplicit (ovs : BitVec 3) (ndig : BitVec 3) (theta : BitVec 8) (s : State) : exec (.sapxExplicit ovs ndig theta) s = execSapxExplicit ovs ndig theta s := rfl
@[simp] theorem exec_sbind (e : BitVec 4) (sl : BitVec 2) (s : State) : exec (.sbind e sl) s = execSbind e sl s := rfl
@[simp] theorem exec_sskew (k : BitVec 6) (sl : BitVec 2) (s : State) : exec (.sskew k sl) s = execSskew k sl s := rfl
@[simp] theorem exec_sslk (xfr : BitVec 4) (mat : BitVec 4) (vec : BitVec 4) (s : State) : exec (.sslk xfr mat vec) s = execSslk xfr mat vec s := rfl
@[simp] theorem exec_nopVec (s : State) : exec .nopVec s = execNopVec s := rfl
@[simp] theorem exec_vadd (f : FieldsVA) (s : State) : exec (.vadd f) s = execVadd f s := rfl
@[simp] theorem exec_vsub (f : FieldsVA) (s : State) : exec (.vsub f) s = execVsub f s := rfl
@[simp] theorem exec_vmul (f : FieldsVA) (s : State) : exec (.vmul f) s = execVmul f s := rfl
@[simp] theorem exec_vfma (f : FieldsVA) (s : State) : exec (.vfma f) s = execVfma f s := rfl
@[simp] theorem exec_vdiv (f : FieldsVA) (s : State) : exec (.vdiv f) s = execVdiv f s := rfl
@[simp] theorem exec_vsqrt (f : FieldsVA) (s : State) : exec (.vsqrt f) s = execVsqrt f s := rfl
@[simp] theorem exec_vrsq (f : FieldsVA) (s : State) : exec (.vrsq f) s = execVrsq f s := rfl
@[simp] theorem exec_vexp (f : FieldsVA) (s : State) : exec (.vexp f) s = execVexp f s := rfl
@[simp] theorem exec_vmin (f : FieldsVA) (s : State) : exec (.vmin f) s = execVmin f s := rfl
@[simp] theorem exec_vmax (f : FieldsVA) (s : State) : exec (.vmax f) s = execVmax f s := rfl
@[simp] theorem exec_vabs (f : FieldsVA) (s : State) : exec (.vabs f) s = execVabs f s := rfl
@[simp] theorem exec_vneg (f : FieldsVA) (s : State) : exec (.vneg f) s = execVneg f s := rfl
@[simp] theorem exec_vcmp (f : FieldsVA) (s : State) : exec (.vcmp f) s = execVcmp f s := rfl
@[simp] theorem exec_vthr (f : FieldsVA) (s : State) : exec (.vthr f) s = execVthr f s := rfl
@[simp] theorem exec_vsel (f : FieldsVA) (s : State) : exec (.vsel f) s = execVsel f s := rfl
@[simp] theorem exec_vand (f : FieldsVA) (s : State) : exec (.vand f) s = execVand f s := rfl
@[simp] theorem exec_vor (f : FieldsVA) (s : State) : exec (.vor f) s = execVor f s := rfl
@[simp] theorem exec_vxor (f : FieldsVA) (s : State) : exec (.vxor f) s = execVxor f s := rfl
@[simp] theorem exec_vshl (f : FieldsVA) (s : State) : exec (.vshl f) s = execVshl f s := rfl
@[simp] theorem exec_vshr (f : FieldsVA) (s : State) : exec (.vshr f) s = execVshr f s := rfl
@[simp] theorem exec_vcvt (f : FieldsVA) (s : State) : exec (.vcvt f) s = execVcvt f s := rfl
@[simp] theorem exec_vqnt (f : FieldsVA) (s : State) : exec (.vqnt f) s = execVqnt f s := rfl
@[simp] theorem exec_vamax (f : FieldsVA) (s : State) : exec (.vamax f) s = execVamax f s := rfl
@[simp] theorem exec_vred (f : FieldsVA) (s : State) : exec (.vred f) s = execVred f s := rfl
@[simp] theorem exec_vmov (f : FieldsVA) (s : State) : exec (.vmov f) s = execVmov f s := rfl
@[simp] theorem exec_vbcst (f : FieldsVA) (s : State) : exec (.vbcst f) s = execVbcst f s := rfl
@[simp] theorem exec_vperm (f : FieldsVA) (s : State) : exec (.vperm f) s = execVperm f s := rfl
@[simp] theorem exec_vidx (f : FieldsVA) (s : State) : exec (.vidx f) s = execVidx f s := rfl
@[simp] theorem exec_vld (f : FieldsVM) (s : State) : exec (.vld f) s = execVld f s := rfl
@[simp] theorem exec_vst (f : FieldsVM) (s : State) : exec (.vst f) s = execVst f s := rfl
@[simp] theorem exec_vgth (f : FieldsVG) (s : State) : exec (.vgth f) s = execVgth f s := rfl
@[simp] theorem exec_vsct (f : FieldsVG) (s : State) : exec (.vsct f) s = execVsct f s := rfl
@[simp] theorem exec_nopMat (s : State) : exec .nopMat s = execNopMat s := rfl
@[simp] theorem exec_mma (f : FieldsMX) (s : State) : exec (.mma f) s = execMma f s := rfl
@[simp] theorem exec_mmas (f : FieldsMX) (s : State) : exec (.mmas f) s = execMmas f s := rfl
@[simp] theorem exec_mzero (tl : BitVec 2) (tok : Tokens) (s : State) : exec (.mzero tl tok) s = execMzero tl tok s := rfl
@[simp] theorem exec_mldacc (f : FieldsMT) (s : State) : exec (.mldacc f) s = execMldacc f s := rfl
@[simp] theorem exec_mstacc (f : FieldsMT) (s : State) : exec (.mstacc f) s = execMstacc f s := rfl
@[simp] theorem exec_mrdacc (f : FieldsMR) (s : State) : exec (.mrdacc f) s = execMrdacc f s := rfl
@[simp] theorem exec_mabort (tl : BitVec 2) (tok : Tokens) (s : State) : exec (.mabort tl tok) s = execMabort tl tok s := rfl
@[simp] theorem exec_nopXfr (s : State) : exec .nopXfr s = execNopXfr s := rfl
@[simp] theorem exec_xstart (xs : BitVec 3) (dr : BitVec 6) (rofs : BitVec 16) (str : BitVec 6) (tok : Tokens) (s : State) : exec (.xstart xs dr rofs str tok) s = execXstart xs dr rofs str tok s := rfl
@[simp] theorem exec_xstep (xs : BitVec 3) (n : BitVec 6) (tok : Tokens) (s : State) : exec (.xstep xs n tok) s = execXstep xs n tok s := rfl
@[simp] theorem exec_xkill (xs : BitVec 3) (s : State) : exec (.xkill xs) s = execXkill xs s := rfl
@[simp] theorem exec_xgath (dr : BitVec 6) (gofs : BitVec 17) (tok : Tokens) (s : State) : exec (.xgath dr gofs tok) s = execXgath dr gofs tok s := rfl
@[simp] theorem exec_xcoll (dr : BitVec 6) (gofs : BitVec 17) (tok : Tokens) (s : State) : exec (.xcoll dr gofs tok) s = execXcoll dr gofs tok s := rfl
@[simp] theorem exec_xskew (d : BitVec 6) (s : State) : exec (.xskew d) s = execXskew d s := rfl
@[simp] theorem exec_rawait (d : BitVec 6) (hofs : BitVec 16) (j : BitVec 8) (s : State) : exec (.rawait d hofs j) s = execRawait d hofs j s := rfl
@[simp] theorem exec_rrel (hofs : BitVec 16) (n : BitVec 8) (s : State) : exec (.rrel hofs n) s = execRrel hofs n s := rfl
@[simp] theorem exec_invr (d : BitVec 6) (a : BitVec 6) (v : BitVec 6) (l : BitVec 6) (s : State) : exec (.invr d a v l) s = execInvr d a v l s := rfl
@[simp] theorem exec_powerOnReset (s : State) : exec .powerOnReset s = execPowerOnReset s := rfl
@[simp] theorem exec_thermalSample (cid : Nat) (sample : Nat) (s : State) : exec (.thermalSample cid sample) s = execThermalSample cid sample s := rfl
@[simp] theorem exec_emergencySaveClear (s : State) : exec .emergencySaveClear s = execEmergencySaveClear s := rfl
@[simp] theorem exec_damperTick (p : Nat) (s : State) : exec (.damperTick p) s = execDamperTick p s := rfl
@[simp] theorem exec_railLevelStep (s : State) : exec .railLevelStep s = execRailLevelStep s := rfl
@[simp] theorem exec_bucketRefill (s : State) : exec .bucketRefill s = execBucketRefill s := rfl
@[simp] theorem exec_bucketSettle (cid : Nat) (s : State) : exec (.bucketSettle cid) s = execBucketSettle cid s := rfl
@[simp] theorem exec_curveSubmit (v : Nat) (s : State) : exec (.curveSubmit v) s = execCurveSubmit v s := rfl
@[simp] theorem exec_curveVerify (s : State) : exec .curveVerify s = execCurveVerify s := rfl
@[simp] theorem exec_curveTakeover (s : State) : exec .curveTakeover s = execCurveTakeover s := rfl
@[simp] theorem exec_curvePoint (s : State) : exec .curvePoint s = execCurvePoint s := rfl
@[simp] theorem exec_curveExpire (s : State) : exec .curveExpire s = execCurveExpire s := rfl
@[simp] theorem exec_utcofsWrite (v : Nat) (s : State) : exec (.utcofsWrite v) s = execUtcofsWrite v s := rfl
@[simp] theorem exec_parkYieldLimit (team : Nat) (s : State) : exec (.parkYieldLimit team) s = execParkYieldLimit team s := rfl
@[simp] theorem exec_hamperWrite (team : Nat) (s : State) : exec (.hamperWrite team) s = execHamperWrite team s := rfl
@[simp] theorem exec_deepPark (team : Nat) (s : State) : exec (.deepPark team) s = execDeepPark team s := rfl
@[simp] theorem exec_dieGatingRamp (die : Nat) (s : State) : exec (.dieGatingRamp die) s = execDieGatingRamp die s := rfl
@[simp] theorem exec_dieUngatingRamp (die : Nat) (s : State) : exec (.dieUngatingRamp die) s = execDieUngatingRamp die s := rfl
@[simp] theorem exec_dieRampEnd (die : Nat) (s : State) : exec (.dieRampEnd die) s = execDieRampEnd die s := rfl
@[simp] theorem exec_droopEvent (die : Nat) (s : State) : exec (.droopEvent die) s = execDroopEvent die s := rfl
@[simp] theorem exec_droopSignatureMatch (die : Nat) (s : State) : exec (.droopSignatureMatch die) s = execDroopSignatureMatch die s := rfl
@[simp] theorem exec_prethrottleEnd (die : Nat) (s : State) : exec (.prethrottleEnd die) s = execPrethrottleEnd die s := rfl
@[simp] theorem exec_timingErrorReplay (cid : Nat) (s : State) : exec (.timingErrorReplay cid) s = execTimingErrorReplay cid s := rfl
@[simp] theorem exec_minorFrame (s : State) : exec .minorFrame s = execMinorFrame s := rfl
@[simp] theorem exec_loadPhaseDone (team : Nat) (s : State) : exec (.loadPhaseDone team) s = execLoadPhaseDone team s := rfl
@[simp] theorem exec_teamFirstCycle (team : Nat) (s : State) : exec (.teamFirstCycle team) s = execTeamFirstCycle team s := rfl
@[simp] theorem exec_teamEnd (team : Nat) (s : State) : exec (.teamEnd team) s = execTeamEnd team s := rfl
@[simp] theorem exec_qctlEnable (q : Nat) (s : State) : exec (.qctlEnable q) s = execQctlEnable q s := rfl
@[simp] theorem exec_qctlDestroy (q : Nat) (s : State) : exec (.qctlDestroy q) s = execQctlDestroy q s := rfl
@[simp] theorem exec_qctlClearSticky (q : Nat) (s : State) : exec (.qctlClearSticky q) s = execQctlClearSticky q s := rfl
@[simp] theorem exec_qctlNoAction (q : Nat) (s : State) : exec (.qctlNoAction q) s = execQctlNoAction q s := rfl
@[simp] theorem exec_queueDestroyFinish (q : Nat) (s : State) : exec (.queueDestroyFinish q) s = execQueueDestroyFinish q s := rfl
@[simp] theorem exec_qdbWrite (q : Nat) (v : Nat) (s : State) : exec (.qdbWrite q v) s = execQdbWrite q v s := rfl
@[simp] theorem exec_swapOut (team : Nat) (s : State) : exec (.swapOut team) s = execSwapOut team s := rfl
@[simp] theorem exec_ccmdFstop (cid : Nat) (v : Nat) (s : State) : exec (.ccmdFstop cid v) s = execCcmdFstop cid v s := rfl
@[simp] theorem exec_ccmdYset (cid : Nat) (s : State) : exec (.ccmdYset cid) s = execCcmdYset cid s := rfl
@[simp] theorem exec_ccmdYclr (cid : Nat) (s : State) : exec (.ccmdYclr cid) s = execCcmdYclr cid s := rfl
@[simp] theorem exec_ccmdMset (cid : Nat) (v : Nat) (s : State) : exec (.ccmdMset cid v) s = execCcmdMset cid v s := rfl
@[simp] theorem exec_ccmdMclr (cid : Nat) (s : State) : exec (.ccmdMclr cid) s = execCcmdMclr cid s := rfl
@[simp] theorem exec_srimgWrite (cid : Nat) (reg : Nat) (v : Nat) (s : State) : exec (.srimgWrite cid reg v) s = execSrimgWrite cid reg v s := rfl
@[simp] theorem exec_forcedStop (cid : Nat) (s : State) : exec (.forcedStop cid) s = execForcedStop cid s := rfl
@[simp] theorem exec_stopLands (cid : Nat) (s : State) : exec (.stopLands cid) s = execStopLands cid s := rfl
@[simp] theorem exec_faultTeamEnd (team : Nat) (s : State) : exec (.faultTeamEnd team) s = execFaultTeamEnd team s := rfl
@[simp] theorem exec_asyncFaultReport (cid : Nat) (s : State) : exec (.asyncFaultReport cid) s = execAsyncFaultReport cid s := rfl
@[simp] theorem exec_holdLimit (cid : Nat) (s : State) : exec (.holdLimit cid) s = execHoldLimit cid s := rfl
@[simp] theorem exec_yieldLands (cid : Nat) (s : State) : exec (.yieldLands cid) s = execYieldLands cid s := rfl
@[simp] theorem exec_forcedEpilogue (cid : Nat) (s : State) : exec (.forcedEpilogue cid) s = execForcedEpilogue cid s := rfl
@[simp] theorem exec_yieldLimit (team : Nat) (s : State) : exec (.yieldLimit team) s = execYieldLimit team s := rfl
@[simp] theorem exec_sliceExpiry (team : Nat) (s : State) : exec (.sliceExpiry team) s = execSliceExpiry team s := rfl
@[simp] theorem exec_migrationLands (cid : Nat) (s : State) : exec (.migrationLands cid) s = execMigrationLands cid s := rfl
@[simp] theorem exec_migrationComplete (cid : Nat) (s : State) : exec (.migrationComplete cid) s = execMigrationComplete cid s := rfl
@[simp] theorem exec_lateOperationStart (cid : Nat) (slot : Nat) (s : State) : exec (.lateOperationStart cid slot) s = execLateOperationStart cid slot s := rfl
@[simp] theorem exec_waitEnd (cid : Nat) (s : State) : exec (.waitEnd cid) s = execWaitEnd cid s := rfl
@[simp] theorem exec_holdEnd (cid : Nat) (s : State) : exec (.holdEnd cid) s = execHoldEnd cid s := rfl
@[simp] theorem exec_operationResultWrite (cid : Nat) (s : State) : exec (.operationResultWrite cid) s = execOperationResultWrite cid s := rfl
@[simp] theorem exec_ephLaneDecide (cid : Nat) (lane : Nat) (s : State) : exec (.ephLaneDecide cid lane) s = execEphLaneDecide cid lane s := rfl
@[simp] theorem exec_matOperationBegin (cid : Nat) (s : State) : exec (.matOperationBegin cid) s = execMatOperationBegin cid s := rfl
@[simp] theorem exec_kStepWrite (cid : Nat) (s : State) : exec (.kStepWrite cid) s = execKStepWrite cid s := rfl
@[simp] theorem exec_transferMoveStart (key : Nat) (s : State) : exec (.transferMoveStart key) s = execTransferMoveStart key s := rfl
@[simp] theorem exec_transferAccessDone (key : Nat) (n : Nat) (s : State) : exec (.transferAccessDone key n) s = execTransferAccessDone key n s := rfl
@[simp] theorem exec_pageWalk (holder : Nat) (s : State) : exec (.pageWalk holder) s = execPageWalk holder s := rfl
@[simp] theorem exec_transferComplete (key : Nat) (s : State) : exec (.transferComplete key) s = execTransferComplete key s := rfl
@[simp] theorem exec_ringSlotReserve (key : Nat) (s : State) : exec (.ringSlotReserve key) s = execRingSlotReserve key s := rfl
@[simp] theorem exec_ringWptrAdvance (key : Nat) (s : State) : exec (.ringWptrAdvance key) s = execRingWptrAdvance key s := rfl
@[simp] theorem exec_collectiveArrival (n : Nat) (s : State) : exec (.collectiveArrival n) s = execCollectiveArrival n s := rfl
@[simp] theorem exec_collectiveComplete (n : Nat) (s : State) : exec (.collectiveComplete n) s = execCollectiveComplete n s := rfl
@[simp] theorem exec_invrHolderAck (stk : Nat) (holder : Nat) (s : State) : exec (.invrHolderAck stk holder) s = execInvrHolderAck stk holder s := rfl
@[simp] theorem exec_invrComplete (stk : Nat) (s : State) : exec (.invrComplete stk) s = execInvrComplete stk s := rfl
@[simp] theorem exec_writeAdvance (n : Nat) (s : State) : exec (.writeAdvance n) s = execWriteAdvance n s := rfl
@[simp] theorem exec_remoteReadPerform (n : Nat) (s : State) : exec (.remoteReadPerform n) s = execRemoteReadPerform n s := rfl
@[simp] theorem exec_atomicExecute (n : Nat) (s : State) : exec (.atomicExecute n) s = execAtomicExecute n s := rfl
@[simp] theorem exec_accessHoldRelease (cid : Nat) (s : State) : exec (.accessHoldRelease cid) s = execAccessHoldRelease cid s := rfl
@[simp] theorem exec_barrierComplete (cid : Nat) (scp : Nat) (s : State) : exec (.barrierComplete cid scp) s = execBarrierComplete cid scp s := rfl
@[simp] theorem exec_keydatWrite (i : Nat) (v : Nat) (s : State) : exec (.keydatWrite i v) s = execKeydatWrite i v s := rfl
@[simp] theorem exec_keyctlLoad (v : Nat) (s : State) : exec (.keyctlLoad v) s = execKeyctlLoad v s := rfl
@[simp] theorem exec_keyctlEmpty (v : Nat) (s : State) : exec (.keyctlEmpty v) s = execKeyctlEmpty v s := rfl
@[simp] theorem exec_keySlotUpdate (s : State) : exec .keySlotUpdate s = execKeySlotUpdate s := rfl
@[simp] theorem exec_fwSubmit (v : Nat) (s : State) : exec (.fwSubmit v) s = execFwSubmit v s := rfl
@[simp] theorem exec_handoverStage (s : State) : exec .handoverStage s = execHandoverStage s := rfl
@[simp] theorem exec_handoverQuiesce (s : State) : exec .handoverQuiesce s = execHandoverQuiesce s := rfl
@[simp] theorem exec_handoverAdopt (s : State) : exec .handoverAdopt s = execHandoverAdopt s := rfl
@[simp] theorem exec_handoverConfirm (s : State) : exec .handoverConfirm s = execHandoverConfirm s := rfl
@[simp] theorem exec_fallBack (s : State) : exec .fallBack s = execFallBack s := rfl
@[simp] theorem exec_heartbeatCheck (s : State) : exec .heartbeatCheck s = execHeartbeatCheck s := rfl
@[simp] theorem exec_roleMoveTakeover (s : State) : exec .roleMoveTakeover s = execRoleMoveTakeover s := rfl
@[simp] theorem exec_quoteSubmit (v : Nat) (s : State) : exec (.quoteSubmit v) s = execQuoteSubmit v s := rfl
@[simp] theorem exec_quoteDone (s : State) : exec .quoteDone s = execQuoteDone s := rfl
@[simp] theorem exec_watchArm (n : Nat) (v : Nat) (s : State) : exec (.watchArm n v) s = execWatchArm n v s := rfl
@[simp] theorem exec_linkAccessTimeout (n : Nat) (s : State) : exec (.linkAccessTimeout n) s = execLinkAccessTimeout n s := rfl
@[simp] theorem exec_hostAccess (kind : Nat) (addr : Nat) (v : Nat) (s : State) : exec (.hostAccess kind addr v) s = execHostAccess kind addr v s := rfl
@[simp] theorem exec_flitReceive (link : Nat) (v : Nat) (s : State) : exec (.flitReceive link v) s = execFlitReceive link v s := rfl
@[simp] theorem exec_flitNakReceive (link : Nat) (v : Nat) (s : State) : exec (.flitNakReceive link v) s = execFlitNakReceive link v s := rfl
@[simp] theorem exec_linkRetrain (link : Nat) (s : State) : exec (.linkRetrain link) s = execLinkRetrain link s := rfl
@[simp] theorem exec_laneRepairStart (link : Nat) (s : State) : exec (.laneRepairStart link) s = execLaneRepairStart link s := rfl
@[simp] theorem exec_laneSpareSwap (link : Nat) (s : State) : exec (.laneSpareSwap link) s = execLaneSpareSwap link s := rfl
@[simp] theorem exec_linkNarrow (link : Nat) (s : State) : exec (.linkNarrow link) s = execLinkNarrow link s := rfl
@[simp] theorem exec_dieIsolation (die : Nat) (s : State) : exec (.dieIsolation die) s = execDieIsolation die s := rfl
@[simp] theorem exec_registerWrite (off : Nat) (v : Nat) (s : State) : exec (.registerWrite off v) s = execRegisterWrite off v s := rfl
@[simp] theorem exec_bundleIssue (cid : Nat) (s : State) : exec (.bundleIssue cid) s = execBundleIssue cid s := rfl
@[simp] theorem exec_inputPowerLoss (s : State) : exec .inputPowerLoss s = execInputPowerLoss s := rfl
@[simp] theorem exec_linkTrainingLost (link : Nat) (s : State) : exec (.linkTrainingLost link) s = execLinkTrainingLost link s := rfl
@[simp] theorem exec_contextSaveComplete (cid : Nat) (s : State) : exec (.contextSaveComplete cid) s = execContextSaveComplete cid s := rfl
@[simp] theorem exec_contextRestoreComplete (cid : Nat) (s : State) : exec (.contextRestoreComplete cid) s = execContextRestoreComplete cid s := rfl
@[simp] theorem exec_cellClearDone (cid : Nat) (s : State) : exec (.cellClearDone cid) s = execCellClearDone cid s := rfl

end Sys2Proof.Machine
end

