-- ==== Sys2Proof/Laws/Map.lean ====
section
/-!
SUPPORT. Laws/Map.lean: the laws of sparse data by key: a read after a write, and that every operation keeps the canonical form.
-/
namespace Sys2Proof.Machine

/-! ## Reading after writing -/

@[simp] theorem mapGet_nil {α : Type} (d : α) (k : Nat) : mapGet d [] k = d := rfl

@[simp] theorem mapGet_mapPut_same {α : Type} (d : α) (m : SMap α) (k : Nat) (v : α) : mapGet d (mapPut m k v) k = v := by
  induction m with
  | nil => simp [mapPut, mapGet]
  | cons p m ih =>
    simp only [mapPut]
    split
    · simp [mapGet]
    · split
      · simp [mapGet]
      · next he => simpa [mapGet, he] using ih

theorem mapGet_mapPut_ne {α : Type} (d : α) (m : SMap α) (k j : Nat) (v : α) (hj : j ≠ k) :
    mapGet d (mapPut m k v) j = mapGet d m j := by
  induction m with
  | nil => simp [mapPut, mapGet, hj]
  | cons p m ih =>
    simp only [mapPut]
    split
    · simp [mapGet, hj]
    · split
      · next he => simp [mapGet, hj, ← he]
      · simp only [mapGet, ih]

/-- A key that a filter on keys drops reads the default, and one that it keeps reads as before. -/
theorem mapGet_filter {α : Type} (d : α) (m : SMap α) (f : Nat → Bool) (k : Nat) :
    mapGet d (m.filter (fun p => f p.1)) k = if f k then mapGet d m k else d := by
  induction m with
  | nil => simp
  | cons p m ih =>
    by_cases hf : f p.1 = true
    · rw [List.filter_cons_of_pos (by simpa using hf)]
      simp only [mapGet, ih]
      split
      · next he => simp [he, hf]
      · rfl
    · rw [List.filter_cons_of_neg (by simpa using hf), ih]
      by_cases he : k = p.1
      · simp [he, hf]
      · simp [mapGet, he]

/-- A read after a write to the same key gives the value written. -/
@[simp] theorem mapGet_mapSet_same {α : Type} [DecidableEq α] (d : α) (m : SMap α) (k : Nat) (v : α) :
    mapGet d (mapSet d m k v) k = v := by
  unfold mapSet
  split
  · next hv => simp [mapGet_filter d m (fun n => n != k) k, hv]
  · simp

/-- A write leaves every other key alone. -/
theorem mapGet_mapSet_ne {α : Type} [DecidableEq α] (d : α) (m : SMap α) (k j : Nat) (v : α) (hj : j ≠ k) :
    mapGet d (mapSet d m k v) j = mapGet d m j := by
  unfold mapSet
  split
  · simp [mapGet_filter d m (fun n => n != k) j, hj]
  · exact mapGet_mapPut_ne d m k j v hj

/-! ## The canonical form -/

/-- Every key listed lies at or above a bound. -/
def KeysFrom {α : Type} (n : Nat) (m : SMap α) : Prop := ∀ p ∈ m, n ≤ p.1

/-- The canonical form, as a statement about every entry. -/
theorem mapWf_cons {α : Type} [DecidableEq α] (d : α) (k : Nat) (v : α) (m : SMap α) :
    mapWf d ((k, v) :: m) = true ↔ v ≠ d ∧ KeysFrom (k + 1) m ∧ mapWf d m = true := by
  induction m generalizing k v with
  | nil => simp [mapWf, KeysFrom]
  | cons p m ih =>
    obtain ⟨k', v'⟩ := p
    simp only [mapWf, Bool.and_eq_true, decide_eq_true_eq]
    constructor
    · rintro ⟨⟨hv, hk⟩, hm⟩
      refine ⟨hv, fun q hq => ?_, hm⟩
      rcases List.mem_cons.1 hq with rfl | hq
      · exact hk
      · have := ((ih k' v').1 hm).2.1 q hq
        omega
    · rintro ⟨hv, hk, hm⟩
      exact ⟨⟨hv, hk (k', v') (List.mem_cons_self ..)⟩, hm⟩

/-- A listed key keeps the others at or above a bound that it meets itself. -/
theorem KeysFrom.mapPut {α : Type} {m : SMap α} {n k : Nat} {v : α} (h : KeysFrom n m) (hk : n ≤ k) : KeysFrom n (mapPut m k v) := by
  induction m with
  | nil =>
    intro q hq
    obtain rfl := List.mem_singleton.1 hq
    exact hk
  | cons p m ih =>
    have h0 : n ≤ p.1 := h p (List.mem_cons_self ..)
    have hm : KeysFrom n m := fun q hq => h q (List.mem_cons_of_mem _ hq)
    intro q hq
    simp only [Machine.mapPut] at hq
    split at hq
    · rcases List.mem_cons.1 hq with rfl | hq
      · exact hk
      · exact h q hq
    · split at hq
      · rcases List.mem_cons.1 hq with rfl | hq
        · exact hk
        · exact hm q hq
      · rcases List.mem_cons.1 hq with rfl | hq
        · exact h0
        · exact ih hm q hq

/-- Dropping entries keeps the canonical form. -/
theorem filter_wf {α : Type} [DecidableEq α] (d : α) (m : SMap α) (f : Nat × α → Bool) (h : mapWf d m = true) :
    mapWf d (m.filter f) = true := by
  induction m with
  | nil => rfl
  | cons p m ih =>
    have hw := (mapWf_cons d p.1 p.2 m).1 h
    by_cases hf : f p = true
    · rw [List.filter_cons_of_pos hf]
      exact (mapWf_cons ..).2 ⟨hw.1, fun q hq => hw.2.1 q (List.mem_filter.1 hq).1, ih hw.2.2⟩
    · rw [List.filter_cons_of_neg hf]
      exact ih hw.2.2

/-- Listing a value other than the default keeps the canonical form. -/
theorem mapPut_wf {α : Type} [DecidableEq α] (d : α) (m : SMap α) (k : Nat) (v : α) (h : mapWf d m = true) (hv : v ≠ d) :
    mapWf d (mapPut m k v) = true := by
  induction m with
  | nil => simp [mapPut, mapWf, hv]
  | cons p m ih =>
    have hw := (mapWf_cons d p.1 p.2 m).1 h
    simp only [mapPut]
    split
    · next hk =>
      refine (mapWf_cons ..).2 ⟨hv, fun q hq => ?_, h⟩
      rcases List.mem_cons.1 hq with rfl | hq
      · exact hk
      · have := hw.2.1 q hq
        omega
    · split
      · next he => exact (mapWf_cons ..).2 ⟨hv, he ▸ hw.2.1, hw.2.2⟩
      · next hk he => exact (mapWf_cons ..).2 ⟨hw.1, hw.2.1.mapPut (by omega), ih hw.2.2⟩

/-- A write keeps the canonical form. -/
theorem mapSet_wf {α : Type} [DecidableEq α] (d : α) (m : SMap α) (k : Nat) (v : α) (h : mapWf d m = true) :
    mapWf d (mapSet d m k v) = true := by
  unfold mapSet
  split
  · exact filter_wf d m _ h
  · next hv => exact mapPut_wf d m k v h hv

/-- Several writes keep the canonical form. -/
theorem mapSetAll_wf {α : Type} [DecidableEq α] (d : α) (m : SMap α) (l : List (Nat × α)) (h : mapWf d m = true) :
    mapWf d (mapSetAll d m l) = true := by
  induction l generalizing m with
  | nil => exact h
  | cons p l ih => exact ih _ (mapSet_wf d m p.1 p.2 h)

/-- A change of one value keeps the canonical form. -/
theorem mapModify_wf {α : Type} [DecidableEq α] (d : α) (m : SMap α) (k : Nat) (f : α → α) (h : mapWf d m = true) :
    mapWf d (mapModify d m k f) = true := mapSet_wf d m k _ h

/-- A change of every value keeps the canonical form. -/
theorem mapAll_wf {α : Type} [DecidableEq α] (d : α) (m : SMap α) (f : Nat → α → α) (h : mapWf d m = true) :
    mapWf d (mapAll d m f) = true := by
  induction m with
  | nil => rfl
  | cons p m ih =>
    obtain ⟨k, v⟩ := p
    have hw := (mapWf_cons d k v m).1 h
    have hlow : KeysFrom (k + 1) (mapAll d m f) := by
      intro q hq
      obtain ⟨a, ha, rfl⟩ := List.mem_map.1 (List.mem_filter.1 hq).1
      exact hw.2.1 a ha
    by_cases hv : f k v = d
    · have hd : mapAll d ((k, v) :: m) f = mapAll d m f := by simp [mapAll, hv]
      rw [hd]
      exact ih hw.2.2
    · have hd : mapAll d ((k, v) :: m) f = (k, f k v) :: mapAll d m f := by simp [mapAll, hv]
      rw [hd]
      exact (mapWf_cons ..).2 ⟨hv, hlow, ih hw.2.2⟩

end Sys2Proof.Machine
end

