-- ==== Sys2Proof/Laws/State.lean ====
section
/-!
SUPPORT. Laws/State.lean: one lemma for each field and each named update of the state and of a core, true by definition, so that
no later proof unfolds a record update; and what reading a core or a register after a write of one gives.
-/
namespace Sys2Proof.Machine

/-! ## Updates of the state -/
@[simp] theorem State.setCore_mem (s : State) (c : Nat) (k : Core) : (s.setCore c k).mem = s.mem := rfl
@[simp] theorem State.setCore_ueMem (s : State) (c : Nat) (k : Core) : (s.setCore c k).ueMem = s.ueMem := rfl
@[simp] theorem State.setCore_ceMem (s : State) (c : Nat) (k : Core) : (s.setCore c k).ceMem = s.ceMem := rfl
@[simp] theorem State.setCore_time (s : State) (c : Nat) (k : Core) : (s.setCore c k).time = s.time := rfl
@[simp] theorem State.setCore_seq (s : State) (c : Nat) (k : Core) : (s.setCore c k).seq = s.seq := rfl
@[simp] theorem State.setCore_ctx (s : State) (c : Nat) (k : Core) : (s.setCore c k).ctx = s.ctx := rfl
@[simp] theorem State.setCore_ops (s : State) (c : Nat) (k : Core) : (s.setCore c k).ops = s.ops := rfl
@[simp] theorem State.setCore_owed (s : State) (c : Nat) (k : Core) : (s.setCore c k).owed = s.owed := rfl
@[simp] theorem State.setCore_agenda (s : State) (c : Nat) (k : Core) : (s.setCore c k).agenda = s.agenda := rfl
@[simp] theorem State.setCore_turn (s : State) (c : Nat) (k : Core) : (s.setCore c k).turn = s.turn := rfl
@[simp] theorem State.setCore_beat (s : State) (c : Nat) (k : Core) : (s.setCore c k).beat = s.beat := rfl
@[simp] theorem State.setCore_choice (s : State) (c : Nat) (k : Core) : (s.setCore c k).choice = s.choice := rfl
@[simp] theorem State.setCore_writes (s : State) (c : Nat) (k : Core) : (s.setCore c k).writes = s.writes := rfl
@[simp] theorem State.setCore_reads (s : State) (c : Nat) (k : Core) : (s.setCore c k).reads = s.reads := rfl
@[simp] theorem State.setCore_fences (s : State) (c : Nat) (k : Core) : (s.setCore c k).fences = s.fences := rfl
@[simp] theorem State.setCore_from (s : State) (c : Nat) (k : Core) : (s.setCore c k).from_ = s.from_ := rfl
@[simp] theorem State.setCore_mat (s : State) (c : Nat) (k : Core) : (s.setCore c k).mat = s.mat := rfl
@[simp] theorem State.setCore_xfers (s : State) (c : Nat) (k : Core) : (s.setCore c k).xfers = s.xfers := rfl
@[simp] theorem State.setCore_collects (s : State) (c : Nat) (k : Core) : (s.setCore c k).collects = s.collects := rfl
@[simp] theorem State.setCore_rounds (s : State) (c : Nat) (k : Core) : (s.setCore c k).rounds = s.rounds := rfl
@[simp] theorem State.setCore_groupEnd (s : State) (c : Nat) (k : Core) : (s.setCore c k).groupEnd = s.groupEnd := rfl
@[simp] theorem State.setCore_roundEnd (s : State) (c : Nat) (k : Core) : (s.setCore c k).roundEnd = s.roundEnd := rfl
@[simp] theorem State.setCore_ending (s : State) (c : Nat) (k : Core) : (s.setCore c k).ending = s.ending := rfl
@[simp] theorem State.setCore_accNo (s : State) (c : Nat) (k : Core) : (s.setCore c k).accNo = s.accNo := rfl
@[simp] theorem State.setCore_matNow (s : State) (c : Nat) (k : Core) : (s.setCore c k).matNow = s.matNow := rfl
@[simp] theorem State.setCore_taken (s : State) (c : Nat) (k : Core) : (s.setCore c k).taken = s.taken := rfl
@[simp] theorem State.setCore_images (s : State) (c : Nat) (k : Core) : (s.setCore c k).images = s.images := rfl
@[simp] theorem State.setCore_tcache (s : State) (c : Nat) (k : Core) : (s.setCore c k).tcache = s.tcache := rfl
@[simp] theorem State.setCore_invrs (s : State) (c : Nat) (k : Core) : (s.setCore c k).invrs = s.invrs := rfl
@[simp] theorem State.setCore_sched (s : State) (c : Nat) (k : Core) : (s.setCore c k).sched = s.sched := rfl
@[simp] theorem State.setCore_power (s : State) (c : Nat) (k : Core) : (s.setCore c k).power = s.power := rfl
@[simp] theorem State.setCore_firm (s : State) (c : Nat) (k : Core) : (s.setCore c k).firm = s.firm := rfl
@[simp] theorem State.setCore_links (s : State) (c : Nat) (k : Core) : (s.setCore c k).links = s.links := rfl
@[simp] theorem State.setCore_ident (s : State) (c : Nat) (k : Core) : (s.setCore c k).ident = s.ident := rfl
@[simp] theorem State.modCore_mem (s : State) (c : Nat) (f : Core → Core) : (s.modCore c f).mem = s.mem := rfl
@[simp] theorem State.modCore_ueMem (s : State) (c : Nat) (f : Core → Core) : (s.modCore c f).ueMem = s.ueMem := rfl
@[simp] theorem State.modCore_ceMem (s : State) (c : Nat) (f : Core → Core) : (s.modCore c f).ceMem = s.ceMem := rfl
@[simp] theorem State.modCore_time (s : State) (c : Nat) (f : Core → Core) : (s.modCore c f).time = s.time := rfl
@[simp] theorem State.modCore_seq (s : State) (c : Nat) (f : Core → Core) : (s.modCore c f).seq = s.seq := rfl
@[simp] theorem State.modCore_ctx (s : State) (c : Nat) (f : Core → Core) : (s.modCore c f).ctx = s.ctx := rfl
@[simp] theorem State.modCore_ops (s : State) (c : Nat) (f : Core → Core) : (s.modCore c f).ops = s.ops := rfl
@[simp] theorem State.modCore_owed (s : State) (c : Nat) (f : Core → Core) : (s.modCore c f).owed = s.owed := rfl
@[simp] theorem State.modCore_agenda (s : State) (c : Nat) (f : Core → Core) : (s.modCore c f).agenda = s.agenda := rfl
@[simp] theorem State.modCore_turn (s : State) (c : Nat) (f : Core → Core) : (s.modCore c f).turn = s.turn := rfl
@[simp] theorem State.modCore_beat (s : State) (c : Nat) (f : Core → Core) : (s.modCore c f).beat = s.beat := rfl
@[simp] theorem State.modCore_choice (s : State) (c : Nat) (f : Core → Core) : (s.modCore c f).choice = s.choice := rfl
@[simp] theorem State.modCore_writes (s : State) (c : Nat) (f : Core → Core) : (s.modCore c f).writes = s.writes := rfl
@[simp] theorem State.modCore_reads (s : State) (c : Nat) (f : Core → Core) : (s.modCore c f).reads = s.reads := rfl
@[simp] theorem State.modCore_fences (s : State) (c : Nat) (f : Core → Core) : (s.modCore c f).fences = s.fences := rfl
@[simp] theorem State.modCore_from (s : State) (c : Nat) (f : Core → Core) : (s.modCore c f).from_ = s.from_ := rfl
@[simp] theorem State.modCore_mat (s : State) (c : Nat) (f : Core → Core) : (s.modCore c f).mat = s.mat := rfl
@[simp] theorem State.modCore_xfers (s : State) (c : Nat) (f : Core → Core) : (s.modCore c f).xfers = s.xfers := rfl
@[simp] theorem State.modCore_collects (s : State) (c : Nat) (f : Core → Core) : (s.modCore c f).collects = s.collects := rfl
@[simp] theorem State.modCore_rounds (s : State) (c : Nat) (f : Core → Core) : (s.modCore c f).rounds = s.rounds := rfl
@[simp] theorem State.modCore_groupEnd (s : State) (c : Nat) (f : Core → Core) : (s.modCore c f).groupEnd = s.groupEnd := rfl
@[simp] theorem State.modCore_roundEnd (s : State) (c : Nat) (f : Core → Core) : (s.modCore c f).roundEnd = s.roundEnd := rfl
@[simp] theorem State.modCore_ending (s : State) (c : Nat) (f : Core → Core) : (s.modCore c f).ending = s.ending := rfl
@[simp] theorem State.modCore_accNo (s : State) (c : Nat) (f : Core → Core) : (s.modCore c f).accNo = s.accNo := rfl
@[simp] theorem State.modCore_matNow (s : State) (c : Nat) (f : Core → Core) : (s.modCore c f).matNow = s.matNow := rfl
@[simp] theorem State.modCore_taken (s : State) (c : Nat) (f : Core → Core) : (s.modCore c f).taken = s.taken := rfl
@[simp] theorem State.modCore_images (s : State) (c : Nat) (f : Core → Core) : (s.modCore c f).images = s.images := rfl
@[simp] theorem State.modCore_tcache (s : State) (c : Nat) (f : Core → Core) : (s.modCore c f).tcache = s.tcache := rfl
@[simp] theorem State.modCore_invrs (s : State) (c : Nat) (f : Core → Core) : (s.modCore c f).invrs = s.invrs := rfl
@[simp] theorem State.modCore_sched (s : State) (c : Nat) (f : Core → Core) : (s.modCore c f).sched = s.sched := rfl
@[simp] theorem State.modCore_power (s : State) (c : Nat) (f : Core → Core) : (s.modCore c f).power = s.power := rfl
@[simp] theorem State.modCore_firm (s : State) (c : Nat) (f : Core → Core) : (s.modCore c f).firm = s.firm := rfl
@[simp] theorem State.modCore_links (s : State) (c : Nat) (f : Core → Core) : (s.modCore c f).links = s.links := rfl
@[simp] theorem State.modCore_ident (s : State) (c : Nat) (f : Core → Core) : (s.modCore c f).ident = s.ident := rfl
@[simp] theorem State.modCur_mem (s : State) (f : Core → Core) : (s.modCur f).mem = s.mem := rfl
@[simp] theorem State.modCur_ueMem (s : State) (f : Core → Core) : (s.modCur f).ueMem = s.ueMem := rfl
@[simp] theorem State.modCur_ceMem (s : State) (f : Core → Core) : (s.modCur f).ceMem = s.ceMem := rfl
@[simp] theorem State.modCur_time (s : State) (f : Core → Core) : (s.modCur f).time = s.time := rfl
@[simp] theorem State.modCur_seq (s : State) (f : Core → Core) : (s.modCur f).seq = s.seq := rfl
@[simp] theorem State.modCur_ctx (s : State) (f : Core → Core) : (s.modCur f).ctx = s.ctx := rfl
@[simp] theorem State.modCur_ops (s : State) (f : Core → Core) : (s.modCur f).ops = s.ops := rfl
@[simp] theorem State.modCur_owed (s : State) (f : Core → Core) : (s.modCur f).owed = s.owed := rfl
@[simp] theorem State.modCur_agenda (s : State) (f : Core → Core) : (s.modCur f).agenda = s.agenda := rfl
@[simp] theorem State.modCur_turn (s : State) (f : Core → Core) : (s.modCur f).turn = s.turn := rfl
@[simp] theorem State.modCur_beat (s : State) (f : Core → Core) : (s.modCur f).beat = s.beat := rfl
@[simp] theorem State.modCur_choice (s : State) (f : Core → Core) : (s.modCur f).choice = s.choice := rfl
@[simp] theorem State.modCur_writes (s : State) (f : Core → Core) : (s.modCur f).writes = s.writes := rfl
@[simp] theorem State.modCur_reads (s : State) (f : Core → Core) : (s.modCur f).reads = s.reads := rfl
@[simp] theorem State.modCur_fences (s : State) (f : Core → Core) : (s.modCur f).fences = s.fences := rfl
@[simp] theorem State.modCur_from (s : State) (f : Core → Core) : (s.modCur f).from_ = s.from_ := rfl
@[simp] theorem State.modCur_mat (s : State) (f : Core → Core) : (s.modCur f).mat = s.mat := rfl
@[simp] theorem State.modCur_xfers (s : State) (f : Core → Core) : (s.modCur f).xfers = s.xfers := rfl
@[simp] theorem State.modCur_collects (s : State) (f : Core → Core) : (s.modCur f).collects = s.collects := rfl
@[simp] theorem State.modCur_rounds (s : State) (f : Core → Core) : (s.modCur f).rounds = s.rounds := rfl
@[simp] theorem State.modCur_groupEnd (s : State) (f : Core → Core) : (s.modCur f).groupEnd = s.groupEnd := rfl
@[simp] theorem State.modCur_roundEnd (s : State) (f : Core → Core) : (s.modCur f).roundEnd = s.roundEnd := rfl
@[simp] theorem State.modCur_ending (s : State) (f : Core → Core) : (s.modCur f).ending = s.ending := rfl
@[simp] theorem State.modCur_accNo (s : State) (f : Core → Core) : (s.modCur f).accNo = s.accNo := rfl
@[simp] theorem State.modCur_matNow (s : State) (f : Core → Core) : (s.modCur f).matNow = s.matNow := rfl
@[simp] theorem State.modCur_taken (s : State) (f : Core → Core) : (s.modCur f).taken = s.taken := rfl
@[simp] theorem State.modCur_images (s : State) (f : Core → Core) : (s.modCur f).images = s.images := rfl
@[simp] theorem State.modCur_tcache (s : State) (f : Core → Core) : (s.modCur f).tcache = s.tcache := rfl
@[simp] theorem State.modCur_invrs (s : State) (f : Core → Core) : (s.modCur f).invrs = s.invrs := rfl
@[simp] theorem State.modCur_sched (s : State) (f : Core → Core) : (s.modCur f).sched = s.sched := rfl
@[simp] theorem State.modCur_power (s : State) (f : Core → Core) : (s.modCur f).power = s.power := rfl
@[simp] theorem State.modCur_firm (s : State) (f : Core → Core) : (s.modCur f).firm = s.firm := rfl
@[simp] theorem State.modCur_links (s : State) (f : Core → Core) : (s.modCur f).links = s.links := rfl
@[simp] theorem State.modCur_ident (s : State) (f : Core → Core) : (s.modCur f).ident = s.ident := rfl
@[simp] theorem State.modTeam_cores (s : State) (id : Nat) (f : Team → Team) : (s.modTeam id f).cores = s.cores := rfl
@[simp] theorem State.modTeam_mem (s : State) (id : Nat) (f : Team → Team) : (s.modTeam id f).mem = s.mem := rfl
@[simp] theorem State.modTeam_ueMem (s : State) (id : Nat) (f : Team → Team) : (s.modTeam id f).ueMem = s.ueMem := rfl
@[simp] theorem State.modTeam_ceMem (s : State) (id : Nat) (f : Team → Team) : (s.modTeam id f).ceMem = s.ceMem := rfl
@[simp] theorem State.modTeam_time (s : State) (id : Nat) (f : Team → Team) : (s.modTeam id f).time = s.time := rfl
@[simp] theorem State.modTeam_seq (s : State) (id : Nat) (f : Team → Team) : (s.modTeam id f).seq = s.seq := rfl
@[simp] theorem State.modTeam_ctx (s : State) (id : Nat) (f : Team → Team) : (s.modTeam id f).ctx = s.ctx := rfl
@[simp] theorem State.modTeam_ops (s : State) (id : Nat) (f : Team → Team) : (s.modTeam id f).ops = s.ops := rfl
@[simp] theorem State.modTeam_owed (s : State) (id : Nat) (f : Team → Team) : (s.modTeam id f).owed = s.owed := rfl
@[simp] theorem State.modTeam_agenda (s : State) (id : Nat) (f : Team → Team) : (s.modTeam id f).agenda = s.agenda := rfl
@[simp] theorem State.modTeam_turn (s : State) (id : Nat) (f : Team → Team) : (s.modTeam id f).turn = s.turn := rfl
@[simp] theorem State.modTeam_beat (s : State) (id : Nat) (f : Team → Team) : (s.modTeam id f).beat = s.beat := rfl
@[simp] theorem State.modTeam_choice (s : State) (id : Nat) (f : Team → Team) : (s.modTeam id f).choice = s.choice := rfl
@[simp] theorem State.modTeam_writes (s : State) (id : Nat) (f : Team → Team) : (s.modTeam id f).writes = s.writes := rfl
@[simp] theorem State.modTeam_reads (s : State) (id : Nat) (f : Team → Team) : (s.modTeam id f).reads = s.reads := rfl
@[simp] theorem State.modTeam_fences (s : State) (id : Nat) (f : Team → Team) : (s.modTeam id f).fences = s.fences := rfl
@[simp] theorem State.modTeam_from (s : State) (id : Nat) (f : Team → Team) : (s.modTeam id f).from_ = s.from_ := rfl
@[simp] theorem State.modTeam_mat (s : State) (id : Nat) (f : Team → Team) : (s.modTeam id f).mat = s.mat := rfl
@[simp] theorem State.modTeam_xfers (s : State) (id : Nat) (f : Team → Team) : (s.modTeam id f).xfers = s.xfers := rfl
@[simp] theorem State.modTeam_collects (s : State) (id : Nat) (f : Team → Team) : (s.modTeam id f).collects = s.collects := rfl
@[simp] theorem State.modTeam_rounds (s : State) (id : Nat) (f : Team → Team) : (s.modTeam id f).rounds = s.rounds := rfl
@[simp] theorem State.modTeam_groupEnd (s : State) (id : Nat) (f : Team → Team) : (s.modTeam id f).groupEnd = s.groupEnd := rfl
@[simp] theorem State.modTeam_roundEnd (s : State) (id : Nat) (f : Team → Team) : (s.modTeam id f).roundEnd = s.roundEnd := rfl
@[simp] theorem State.modTeam_ending (s : State) (id : Nat) (f : Team → Team) : (s.modTeam id f).ending = s.ending := rfl
@[simp] theorem State.modTeam_accNo (s : State) (id : Nat) (f : Team → Team) : (s.modTeam id f).accNo = s.accNo := rfl
@[simp] theorem State.modTeam_matNow (s : State) (id : Nat) (f : Team → Team) : (s.modTeam id f).matNow = s.matNow := rfl
@[simp] theorem State.modTeam_taken (s : State) (id : Nat) (f : Team → Team) : (s.modTeam id f).taken = s.taken := rfl
@[simp] theorem State.modTeam_images (s : State) (id : Nat) (f : Team → Team) : (s.modTeam id f).images = s.images := rfl
@[simp] theorem State.modTeam_tcache (s : State) (id : Nat) (f : Team → Team) : (s.modTeam id f).tcache = s.tcache := rfl
@[simp] theorem State.modTeam_invrs (s : State) (id : Nat) (f : Team → Team) : (s.modTeam id f).invrs = s.invrs := rfl
@[simp] theorem State.modTeam_power (s : State) (id : Nat) (f : Team → Team) : (s.modTeam id f).power = s.power := rfl
@[simp] theorem State.modTeam_firm (s : State) (id : Nat) (f : Team → Team) : (s.modTeam id f).firm = s.firm := rfl
@[simp] theorem State.modTeam_links (s : State) (id : Nat) (f : Team → Team) : (s.modTeam id f).links = s.links := rfl
@[simp] theorem State.modTeam_ident (s : State) (id : Nat) (f : Team → Team) : (s.modTeam id f).ident = s.ident := rfl
@[simp] theorem State.setHome_cores (s : State) (pa : Nat) (b : Byte) : (s.setHome pa b).cores = s.cores := rfl
@[simp] theorem State.setHome_ueMem (s : State) (pa : Nat) (b : Byte) : (s.setHome pa b).ueMem = s.ueMem := rfl
@[simp] theorem State.setHome_ceMem (s : State) (pa : Nat) (b : Byte) : (s.setHome pa b).ceMem = s.ceMem := rfl
@[simp] theorem State.setHome_time (s : State) (pa : Nat) (b : Byte) : (s.setHome pa b).time = s.time := rfl
@[simp] theorem State.setHome_seq (s : State) (pa : Nat) (b : Byte) : (s.setHome pa b).seq = s.seq := rfl
@[simp] theorem State.setHome_ctx (s : State) (pa : Nat) (b : Byte) : (s.setHome pa b).ctx = s.ctx := rfl
@[simp] theorem State.setHome_ops (s : State) (pa : Nat) (b : Byte) : (s.setHome pa b).ops = s.ops := rfl
@[simp] theorem State.setHome_owed (s : State) (pa : Nat) (b : Byte) : (s.setHome pa b).owed = s.owed := rfl
@[simp] theorem State.setHome_agenda (s : State) (pa : Nat) (b : Byte) : (s.setHome pa b).agenda = s.agenda := rfl
@[simp] theorem State.setHome_turn (s : State) (pa : Nat) (b : Byte) : (s.setHome pa b).turn = s.turn := rfl
@[simp] theorem State.setHome_beat (s : State) (pa : Nat) (b : Byte) : (s.setHome pa b).beat = s.beat := rfl
@[simp] theorem State.setHome_choice (s : State) (pa : Nat) (b : Byte) : (s.setHome pa b).choice = s.choice := rfl
@[simp] theorem State.setHome_writes (s : State) (pa : Nat) (b : Byte) : (s.setHome pa b).writes = s.writes := rfl
@[simp] theorem State.setHome_reads (s : State) (pa : Nat) (b : Byte) : (s.setHome pa b).reads = s.reads := rfl
@[simp] theorem State.setHome_fences (s : State) (pa : Nat) (b : Byte) : (s.setHome pa b).fences = s.fences := rfl
@[simp] theorem State.setHome_from (s : State) (pa : Nat) (b : Byte) : (s.setHome pa b).from_ = s.from_ := rfl
@[simp] theorem State.setHome_mat (s : State) (pa : Nat) (b : Byte) : (s.setHome pa b).mat = s.mat := rfl
@[simp] theorem State.setHome_xfers (s : State) (pa : Nat) (b : Byte) : (s.setHome pa b).xfers = s.xfers := rfl
@[simp] theorem State.setHome_collects (s : State) (pa : Nat) (b : Byte) : (s.setHome pa b).collects = s.collects := rfl
@[simp] theorem State.setHome_rounds (s : State) (pa : Nat) (b : Byte) : (s.setHome pa b).rounds = s.rounds := rfl
@[simp] theorem State.setHome_groupEnd (s : State) (pa : Nat) (b : Byte) : (s.setHome pa b).groupEnd = s.groupEnd := rfl
@[simp] theorem State.setHome_roundEnd (s : State) (pa : Nat) (b : Byte) : (s.setHome pa b).roundEnd = s.roundEnd := rfl
@[simp] theorem State.setHome_ending (s : State) (pa : Nat) (b : Byte) : (s.setHome pa b).ending = s.ending := rfl
@[simp] theorem State.setHome_accNo (s : State) (pa : Nat) (b : Byte) : (s.setHome pa b).accNo = s.accNo := rfl
@[simp] theorem State.setHome_matNow (s : State) (pa : Nat) (b : Byte) : (s.setHome pa b).matNow = s.matNow := rfl
@[simp] theorem State.setHome_taken (s : State) (pa : Nat) (b : Byte) : (s.setHome pa b).taken = s.taken := rfl
@[simp] theorem State.setHome_images (s : State) (pa : Nat) (b : Byte) : (s.setHome pa b).images = s.images := rfl
@[simp] theorem State.setHome_tcache (s : State) (pa : Nat) (b : Byte) : (s.setHome pa b).tcache = s.tcache := rfl
@[simp] theorem State.setHome_invrs (s : State) (pa : Nat) (b : Byte) : (s.setHome pa b).invrs = s.invrs := rfl
@[simp] theorem State.setHome_sched (s : State) (pa : Nat) (b : Byte) : (s.setHome pa b).sched = s.sched := rfl
@[simp] theorem State.setHome_power (s : State) (pa : Nat) (b : Byte) : (s.setHome pa b).power = s.power := rfl
@[simp] theorem State.setHome_firm (s : State) (pa : Nat) (b : Byte) : (s.setHome pa b).firm = s.firm := rfl
@[simp] theorem State.setHome_links (s : State) (pa : Nat) (b : Byte) : (s.setHome pa b).links = s.links := rfl
@[simp] theorem State.setHome_ident (s : State) (pa : Nat) (b : Byte) : (s.setHome pa b).ident = s.ident := rfl
@[simp] theorem State.launch_mem (s : State) (c : Nat) (f : Flight) : (s.launch c f).mem = s.mem := rfl
@[simp] theorem State.launch_ueMem (s : State) (c : Nat) (f : Flight) : (s.launch c f).ueMem = s.ueMem := rfl
@[simp] theorem State.launch_ceMem (s : State) (c : Nat) (f : Flight) : (s.launch c f).ceMem = s.ceMem := rfl
@[simp] theorem State.launch_time (s : State) (c : Nat) (f : Flight) : (s.launch c f).time = s.time := rfl
@[simp] theorem State.launch_ctx (s : State) (c : Nat) (f : Flight) : (s.launch c f).ctx = s.ctx := rfl
@[simp] theorem State.launch_ops (s : State) (c : Nat) (f : Flight) : (s.launch c f).ops = s.ops := rfl
@[simp] theorem State.launch_owed (s : State) (c : Nat) (f : Flight) : (s.launch c f).owed = s.owed := rfl
@[simp] theorem State.launch_agenda (s : State) (c : Nat) (f : Flight) : (s.launch c f).agenda = s.agenda := rfl
@[simp] theorem State.launch_turn (s : State) (c : Nat) (f : Flight) : (s.launch c f).turn = s.turn := rfl
@[simp] theorem State.launch_beat (s : State) (c : Nat) (f : Flight) : (s.launch c f).beat = s.beat := rfl
@[simp] theorem State.launch_choice (s : State) (c : Nat) (f : Flight) : (s.launch c f).choice = s.choice := rfl
@[simp] theorem State.launch_writes (s : State) (c : Nat) (f : Flight) : (s.launch c f).writes = s.writes := rfl
@[simp] theorem State.launch_reads (s : State) (c : Nat) (f : Flight) : (s.launch c f).reads = s.reads := rfl
@[simp] theorem State.launch_fences (s : State) (c : Nat) (f : Flight) : (s.launch c f).fences = s.fences := rfl
@[simp] theorem State.launch_from (s : State) (c : Nat) (f : Flight) : (s.launch c f).from_ = s.from_ := rfl
@[simp] theorem State.launch_mat (s : State) (c : Nat) (f : Flight) : (s.launch c f).mat = s.mat := rfl
@[simp] theorem State.launch_xfers (s : State) (c : Nat) (f : Flight) : (s.launch c f).xfers = s.xfers := rfl
@[simp] theorem State.launch_collects (s : State) (c : Nat) (f : Flight) : (s.launch c f).collects = s.collects := rfl
@[simp] theorem State.launch_rounds (s : State) (c : Nat) (f : Flight) : (s.launch c f).rounds = s.rounds := rfl
@[simp] theorem State.launch_groupEnd (s : State) (c : Nat) (f : Flight) : (s.launch c f).groupEnd = s.groupEnd := rfl
@[simp] theorem State.launch_roundEnd (s : State) (c : Nat) (f : Flight) : (s.launch c f).roundEnd = s.roundEnd := rfl
@[simp] theorem State.launch_ending (s : State) (c : Nat) (f : Flight) : (s.launch c f).ending = s.ending := rfl
@[simp] theorem State.launch_accNo (s : State) (c : Nat) (f : Flight) : (s.launch c f).accNo = s.accNo := rfl
@[simp] theorem State.launch_matNow (s : State) (c : Nat) (f : Flight) : (s.launch c f).matNow = s.matNow := rfl
@[simp] theorem State.launch_taken (s : State) (c : Nat) (f : Flight) : (s.launch c f).taken = s.taken := rfl
@[simp] theorem State.launch_images (s : State) (c : Nat) (f : Flight) : (s.launch c f).images = s.images := rfl
@[simp] theorem State.launch_tcache (s : State) (c : Nat) (f : Flight) : (s.launch c f).tcache = s.tcache := rfl
@[simp] theorem State.launch_invrs (s : State) (c : Nat) (f : Flight) : (s.launch c f).invrs = s.invrs := rfl
@[simp] theorem State.launch_sched (s : State) (c : Nat) (f : Flight) : (s.launch c f).sched = s.sched := rfl
@[simp] theorem State.launch_power (s : State) (c : Nat) (f : Flight) : (s.launch c f).power = s.power := rfl
@[simp] theorem State.launch_firm (s : State) (c : Nat) (f : Flight) : (s.launch c f).firm = s.firm := rfl
@[simp] theorem State.launch_links (s : State) (c : Nat) (f : Flight) : (s.launch c f).links = s.links := rfl
@[simp] theorem State.launch_ident (s : State) (c : Nat) (f : Flight) : (s.launch c f).ident = s.ident := rfl

/-! ## Updates of a core -/

@[simp] theorem Core.setReg_v (k : Core) (r : Nat) (v : Word) : (k.setReg r v).v = k.v := by unfold Core.setReg; split <;> rfl
@[simp] theorem Core.setReg_p (k : Core) (r : Nat) (v : Word) : (k.setReg r v).p = k.p := by unfold Core.setReg; split <;> rfl
@[simp] theorem Core.setReg_a (k : Core) (r : Nat) (v : Word) : (k.setReg r v).a = k.a := by unfold Core.setReg; split <;> rfl
@[simp] theorem Core.setReg_pc (k : Core) (r : Nat) (v : Word) : (k.setReg r v).pc = k.pc := by unfold Core.setReg; split <;> rfl
@[simp] theorem Core.setReg_st (k : Core) (r : Nat) (v : Word) : (k.setReg r v).st = k.st := by unfold Core.setReg; split <;> rfl
@[simp] theorem Core.setReg_waitk (k : Core) (r : Nat) (v : Word) : (k.setReg r v).waitk = k.waitk := by unfold Core.setReg; split <;> rfl
@[simp] theorem Core.setReg_loops (k : Core) (r : Nat) (v : Word) : (k.setReg r v).loops = k.loops := by unfold Core.setReg; split <;> rfl
@[simp] theorem Core.setReg_rptLeft (k : Core) (r : Nat) (v : Word) : (k.setReg r v).rptLeft = k.rptLeft := by unfold Core.setReg; split <;> rfl
@[simp] theorem Core.setReg_latches (k : Core) (r : Nat) (v : Word) : (k.setReg r v).latches = k.latches := by unfold Core.setReg; split <;> rfl
@[simp] theorem Core.setReg_waits (k : Core) (r : Nat) (v : Word) : (k.setReg r v).waits = k.waits := by unfold Core.setReg; split <;> rfl
@[simp] theorem Core.setReg_popReq (k : Core) (r : Nat) (v : Word) : (k.setReg r v).popReq = k.popReq := by unfold Core.setReg; split <;> rfl
@[simp] theorem Core.setReg_slack (k : Core) (r : Nat) (v : Word) : (k.setReg r v).slack = k.slack := by unfold Core.setReg; split <;> rfl
@[simp] theorem Core.setReg_skew (k : Core) (r : Nat) (v : Word) : (k.setReg r v).skew = k.skew := by unfold Core.setReg; split <;> rfl
@[simp] theorem Core.setReg_bind (k : Core) (r : Nat) (v : Word) : (k.setReg r v).bind = k.bind := by unfold Core.setReg; split <;> rfl
@[simp] theorem Core.setReg_bindReq (k : Core) (r : Nat) (v : Word) : (k.setReg r v).bindReq = k.bindReq := by unfold Core.setReg; split <;> rfl
@[simp] theorem Core.setReg_flights (k : Core) (r : Nat) (v : Word) : (k.setReg r v).flights = k.flights := by unfold Core.setReg; split <;> rfl
@[simp] theorem Core.setReg_queue (k : Core) (r : Nat) (v : Word) : (k.setReg r v).queue = k.queue := by unfold Core.setReg; split <;> rfl
@[simp] theorem Core.setReg_skewOut (k : Core) (r : Nat) (v : Word) : (k.setReg r v).skewOut = k.skewOut := by unfold Core.setReg; split <;> rfl
@[simp] theorem Core.setReg_cyc (k : Core) (r : Nat) (v : Word) : (k.setReg r v).cyc = k.cyc := by unfold Core.setReg; split <;> rfl
@[simp] theorem Core.setReg_rcyc (k : Core) (r : Nat) (v : Word) : (k.setReg r v).rcyc = k.rcyc := by unfold Core.setReg; split <;> rfl
@[simp] theorem Core.setReg_holdCyc (k : Core) (r : Nat) (v : Word) : (k.setReg r v).holdCyc = k.holdCyc := by unfold Core.setReg; split <;> rfl
@[simp] theorem Core.setReg_waitCyc (k : Core) (r : Nat) (v : Word) : (k.setReg r v).waitCyc = k.waitCyc := by unfold Core.setReg; split <;> rfl
@[simp] theorem Core.setReg_lastIb (k : Core) (r : Nat) (v : Word) : (k.setReg r v).lastIb = k.lastIb := by unfold Core.setReg; split <;> rfl
@[simp] theorem Core.setReg_banks (k : Core) (r : Nat) (v : Word) : (k.setReg r v).banks = k.banks := by unfold Core.setReg; split <;> rfl
@[simp] theorem Core.setReg_outcnt (k : Core) (r : Nat) (v : Word) : (k.setReg r v).outcnt = k.outcnt := by unfold Core.setReg; split <;> rfl
@[simp] theorem Core.setReg_prods (k : Core) (r : Nat) (v : Word) : (k.setReg r v).prods = k.prods := by unfold Core.setReg; split <;> rfl
@[simp] theorem Core.setReg_failed (k : Core) (r : Nat) (v : Word) : (k.setReg r v).failed = k.failed := by unfold Core.setReg; split <;> rfl
@[simp] theorem Core.setReg_tokerr (k : Core) (r : Nat) (v : Word) : (k.setReg r v).tokerr = k.tokerr := by unfold Core.setReg; split <;> rfl
@[simp] theorem Core.setReg_team (k : Core) (r : Nat) (v : Word) : (k.setReg r v).team = k.team := by unfold Core.setReg; split <;> rfl
@[simp] theorem Core.setReg_lidq (k : Core) (r : Nat) (v : Word) : (k.setReg r v).lidq = k.lidq := by unfold Core.setReg; split <;> rfl
@[simp] theorem Core.setReg_predst (k : Core) (r : Nat) (v : Word) : (k.setReg r v).predst = k.predst := by unfold Core.setReg; split <;> rfl
@[simp] theorem Core.setReg_wswap (k : Core) (r : Nat) (v : Word) : (k.setReg r v).wswap = k.wswap := by unfold Core.setReg; split <;> rfl
@[simp] theorem Core.setReg_ctxasid (k : Core) (r : Nat) (v : Word) : (k.setReg r v).ctxasid = k.ctxasid := by unfold Core.setReg; split <;> rfl
@[simp] theorem Core.setReg_spcap (k : Core) (r : Nat) (v : Word) : (k.setReg r v).spcap = k.spcap := by unfold Core.setReg; split <;> rfl
@[simp] theorem Core.setReg_celltemp (k : Core) (r : Nat) (v : Word) : (k.setReg r v).celltemp = k.celltemp := by unfold Core.setReg; split <;> rfl
@[simp] theorem Core.setReg_fmt (k : Core) (r : Nat) (v : Word) : (k.setReg r v).fmt = k.fmt := by unfold Core.setReg; split <;> rfl
@[simp] theorem Core.setReg_vstat (k : Core) (r : Nat) (v : Word) : (k.setReg r v).vstat = k.vstat := by unfold Core.setReg; split <;> rfl
@[simp] theorem Core.setReg_sctab (k : Core) (r : Nat) (v : Word) : (k.setReg r v).sctab = k.sctab := by unfold Core.setReg; split <;> rfl
@[simp] theorem Core.setReg_swz (k : Core) (r : Nat) (v : Word) : (k.setReg r v).swz = k.swz := by unfold Core.setReg; split <;> rfl
@[simp] theorem Core.setReg_unf0 (k : Core) (r : Nat) (v : Word) : (k.setReg r v).unf0 = k.unf0 := by unfold Core.setReg; split <;> rfl
@[simp] theorem Core.setReg_unf1 (k : Core) (r : Nat) (v : Word) : (k.setReg r v).unf1 = k.unf1 := by unfold Core.setReg; split <;> rfl
@[simp] theorem Core.setReg_apx (k : Core) (r : Nat) (v : Word) : (k.setReg r v).apx = k.apx := by unfold Core.setReg; split <;> rfl
@[simp] theorem Core.setReg_apxcnt (k : Core) (r : Nat) (v : Word) : (k.setReg r v).apxcnt = k.apxcnt := by unfold Core.setReg; split <;> rfl
@[simp] theorem Core.setReg_shadow (k : Core) (r : Nat) (v : Word) : (k.setReg r v).shadow = k.shadow := by unfold Core.setReg; split <;> rfl
@[simp] theorem Core.setReg_tags (k : Core) (r : Nat) (v : Word) : (k.setReg r v).tags = k.tags := by unfold Core.setReg; split <;> rfl
@[simp] theorem Core.setReg_tagidx (k : Core) (r : Nat) (v : Word) : (k.setReg r v).tagidx = k.tagidx := by unfold Core.setReg; split <;> rfl
@[simp] theorem Core.setReg_rcache (k : Core) (r : Nat) (v : Word) : (k.setReg r v).rcache = k.rcache := by unfold Core.setReg; split <;> rfl
@[simp] theorem Core.setReg_rcidx (k : Core) (r : Nat) (v : Word) : (k.setReg r v).rcidx = k.rcidx := by unfold Core.setReg; split <;> rfl
@[simp] theorem Core.setReg_hand (k : Core) (r : Nat) (v : Word) : (k.setReg r v).hand = k.hand := by unfold Core.setReg; split <;> rfl
@[simp] theorem Core.setReg_rec (k : Core) (r : Nat) (v : Word) : (k.setReg r v).rec_ = k.rec_ := by unfold Core.setReg; split <;> rfl
@[simp] theorem Core.setReg_late (k : Core) (r : Nat) (v : Word) : (k.setReg r v).late = k.late := by unfold Core.setReg; split <;> rfl
@[simp] theorem Core.setReg_soon (k : Core) (r : Nat) (v : Word) : (k.setReg r v).soon = k.soon := by unfold Core.setReg; split <;> rfl
@[simp] theorem Core.setReg_due (k : Core) (r : Nat) (v : Word) : (k.setReg r v).due = k.due := by unfold Core.setReg; split <;> rfl
@[simp] theorem Core.setReg_dueMore (k : Core) (r : Nat) (v : Word) : (k.setReg r v).dueMore = k.dueMore := by unfold Core.setReg; split <;> rfl
@[simp] theorem Core.setReg_stopReq (k : Core) (r : Nat) (v : Word) : (k.setReg r v).stopReq = k.stopReq := by unfold Core.setReg; split <;> rfl
@[simp] theorem Core.setReg_yreq (k : Core) (r : Nat) (v : Word) : (k.setReg r v).yreq = k.yreq := by unfold Core.setReg; split <;> rfl
@[simp] theorem Core.setReg_migReq (k : Core) (r : Nat) (v : Word) : (k.setReg r v).migReq = k.migReq := by unfold Core.setReg; split <;> rfl
@[simp] theorem Core.setReg_landing (k : Core) (r : Nat) (v : Word) : (k.setReg r v).landing = k.landing := by unfold Core.setReg; split <;> rfl
@[simp] theorem Core.setReg_ycfg (k : Core) (r : Nat) (v : Word) : (k.setReg r v).ycfg = k.ycfg := by unfold Core.setReg; split <;> rfl
@[simp] theorem Core.setReg_ystat (k : Core) (r : Nat) (v : Word) : (k.setReg r v).ystat = k.ystat := by unfold Core.setReg; split <;> rfl
@[simp] theorem Core.setReg_evsel (k : Core) (r : Nat) (v : Word) : (k.setReg r v).evsel = k.evsel := by unfold Core.setReg; split <;> rfl
@[simp] theorem Core.setReg_evcnt (k : Core) (r : Nat) (v : Word) : (k.setReg r v).evcnt = k.evcnt := by unfold Core.setReg; split <;> rfl
@[simp] theorem Core.setReg_ebal (k : Core) (r : Nat) (v : Word) : (k.setReg r v).ebal = k.ebal := by unfold Core.setReg; split <;> rfl
@[simp] theorem Core.setReg_erate (k : Core) (r : Nat) (v : Word) : (k.setReg r v).erate = k.erate := by unfold Core.setReg; split <;> rfl
@[simp] theorem Core.setReg_ecost (k : Core) (r : Nat) (v : Word) : (k.setReg r v).ecost = k.ecost := by unfold Core.setReg; split <;> rfl
@[simp] theorem Core.setReg_charged (k : Core) (r : Nat) (v : Word) : (k.setReg r v).charged = k.charged := by unfold Core.setReg; split <;> rfl
@[simp] theorem Core.setReg_duties (k : Core) (r : Nat) (v : Word) : (k.setReg r v).duties = k.duties := by unfold Core.setReg; split <;> rfl
@[simp] theorem Core.setReg_duty (k : Core) (r : Nat) (v : Word) : (k.setReg r v).duty = k.duty := by unfold Core.setReg; split <;> rfl
@[simp] theorem Core.setReg_arrived (k : Core) (r : Nat) (v : Word) : (k.setReg r v).arrived = k.arrived := by unfold Core.setReg; split <;> rfl
@[simp] theorem Core.setReg_handoff (k : Core) (r : Nat) (v : Word) : (k.setReg r v).handoff = k.handoff := by unfold Core.setReg; split <;> rfl
@[simp] theorem Core.setReg_kdone (k : Core) (r : Nat) (v : Word) : (k.setReg r v).kdone = k.kdone := by unfold Core.setReg; split <;> rfl
@[simp] theorem Core.setReg_oldV (k : Core) (r : Nat) (v : Word) : (k.setReg r v).oldV = k.oldV := by unfold Core.setReg; split <;> rfl
@[simp] theorem Core.setReg_oldP (k : Core) (r : Nat) (v : Word) : (k.setReg r v).oldP = k.oldP := by unfold Core.setReg; split <;> rfl
@[simp] theorem Core.setReg_oldA (k : Core) (r : Nat) (v : Word) : (k.setReg r v).oldA = k.oldA := by unfold Core.setReg; split <;> rfl
@[simp] theorem Core.setReg_oldDone (k : Core) (r : Nat) (v : Word) : (k.setReg r v).oldDone = k.oldDone := by unfold Core.setReg; split <;> rfl
@[simp] theorem Core.setReg_matLate (k : Core) (r : Nat) (v : Word) : (k.setReg r v).matLate = k.matLate := by unfold Core.setReg; split <;> rfl
@[simp] theorem Core.setReg_replay (k : Core) (r : Nat) (v : Word) : (k.setReg r v).replay = k.replay := by unfold Core.setReg; split <;> rfl
@[simp] theorem Core.setReg_imem (k : Core) (r : Nat) (v : Word) : (k.setReg r v).imem = k.imem := by unfold Core.setReg; split <;> rfl
@[simp] theorem Core.setReg_ueImem (k : Core) (r : Nat) (v : Word) : (k.setReg r v).ueImem = k.ueImem := by unfold Core.setReg; split <;> rfl
@[simp] theorem Core.setReg_ceImem (k : Core) (r : Nat) (v : Word) : (k.setReg r v).ceImem = k.ceImem := by unfold Core.setReg; split <;> rfl
@[simp] theorem Core.setReg_ueTags (k : Core) (r : Nat) (v : Word) : (k.setReg r v).ueTags = k.ueTags := by unfold Core.setReg; split <;> rfl
@[simp] theorem Core.setReg_ceTags (k : Core) (r : Nat) (v : Word) : (k.setReg r v).ceTags = k.ceTags := by unfold Core.setReg; split <;> rfl
@[simp] theorem Core.setReg_ueSnap (k : Core) (r : Nat) (v : Word) : (k.setReg r v).ueSnap = k.ueSnap := by unfold Core.setReg; split <;> rfl
@[simp] theorem Core.setReg_ceSnap (k : Core) (r : Nat) (v : Word) : (k.setReg r v).ceSnap = k.ceSnap := by unfold Core.setReg; split <;> rfl
@[simp] theorem Core.setReg_ctxt (k : Core) (r : Nat) (v : Word) : (k.setReg r v).ctxt = k.ctxt := by unfold Core.setReg; split <;> rfl
@[simp] theorem Core.setReg_lmbase (k : Core) (r : Nat) (v : Word) : (k.setReg r v).lmbase = k.lmbase := by unfold Core.setReg; split <;> rfl
@[simp] theorem Core.setReg_coll (k : Core) (r : Nat) (v : Word) : (k.setReg r v).coll = k.coll := by unfold Core.setReg; split <;> rfl
@[simp] theorem Core.setPred_s (k : Core) (r : Nat) (v : Pred) : (k.setPred r v).s = k.s := by unfold Core.setPred; split <;> rfl
@[simp] theorem Core.setPred_v (k : Core) (r : Nat) (v : Pred) : (k.setPred r v).v = k.v := by unfold Core.setPred; split <;> rfl
@[simp] theorem Core.setPred_a (k : Core) (r : Nat) (v : Pred) : (k.setPred r v).a = k.a := by unfold Core.setPred; split <;> rfl
@[simp] theorem Core.setPred_pc (k : Core) (r : Nat) (v : Pred) : (k.setPred r v).pc = k.pc := by unfold Core.setPred; split <;> rfl
@[simp] theorem Core.setPred_st (k : Core) (r : Nat) (v : Pred) : (k.setPred r v).st = k.st := by unfold Core.setPred; split <;> rfl
@[simp] theorem Core.setPred_waitk (k : Core) (r : Nat) (v : Pred) : (k.setPred r v).waitk = k.waitk := by unfold Core.setPred; split <;> rfl
@[simp] theorem Core.setPred_loops (k : Core) (r : Nat) (v : Pred) : (k.setPred r v).loops = k.loops := by unfold Core.setPred; split <;> rfl
@[simp] theorem Core.setPred_rptLeft (k : Core) (r : Nat) (v : Pred) : (k.setPred r v).rptLeft = k.rptLeft := by unfold Core.setPred; split <;> rfl
@[simp] theorem Core.setPred_latches (k : Core) (r : Nat) (v : Pred) : (k.setPred r v).latches = k.latches := by unfold Core.setPred; split <;> rfl
@[simp] theorem Core.setPred_waits (k : Core) (r : Nat) (v : Pred) : (k.setPred r v).waits = k.waits := by unfold Core.setPred; split <;> rfl
@[simp] theorem Core.setPred_popReq (k : Core) (r : Nat) (v : Pred) : (k.setPred r v).popReq = k.popReq := by unfold Core.setPred; split <;> rfl
@[simp] theorem Core.setPred_slack (k : Core) (r : Nat) (v : Pred) : (k.setPred r v).slack = k.slack := by unfold Core.setPred; split <;> rfl
@[simp] theorem Core.setPred_skew (k : Core) (r : Nat) (v : Pred) : (k.setPred r v).skew = k.skew := by unfold Core.setPred; split <;> rfl
@[simp] theorem Core.setPred_bind (k : Core) (r : Nat) (v : Pred) : (k.setPred r v).bind = k.bind := by unfold Core.setPred; split <;> rfl
@[simp] theorem Core.setPred_bindReq (k : Core) (r : Nat) (v : Pred) : (k.setPred r v).bindReq = k.bindReq := by unfold Core.setPred; split <;> rfl
@[simp] theorem Core.setPred_flights (k : Core) (r : Nat) (v : Pred) : (k.setPred r v).flights = k.flights := by unfold Core.setPred; split <;> rfl
@[simp] theorem Core.setPred_queue (k : Core) (r : Nat) (v : Pred) : (k.setPred r v).queue = k.queue := by unfold Core.setPred; split <;> rfl
@[simp] theorem Core.setPred_skewOut (k : Core) (r : Nat) (v : Pred) : (k.setPred r v).skewOut = k.skewOut := by unfold Core.setPred; split <;> rfl
@[simp] theorem Core.setPred_cyc (k : Core) (r : Nat) (v : Pred) : (k.setPred r v).cyc = k.cyc := by unfold Core.setPred; split <;> rfl
@[simp] theorem Core.setPred_rcyc (k : Core) (r : Nat) (v : Pred) : (k.setPred r v).rcyc = k.rcyc := by unfold Core.setPred; split <;> rfl
@[simp] theorem Core.setPred_holdCyc (k : Core) (r : Nat) (v : Pred) : (k.setPred r v).holdCyc = k.holdCyc := by unfold Core.setPred; split <;> rfl
@[simp] theorem Core.setPred_waitCyc (k : Core) (r : Nat) (v : Pred) : (k.setPred r v).waitCyc = k.waitCyc := by unfold Core.setPred; split <;> rfl
@[simp] theorem Core.setPred_lastIb (k : Core) (r : Nat) (v : Pred) : (k.setPred r v).lastIb = k.lastIb := by unfold Core.setPred; split <;> rfl
@[simp] theorem Core.setPred_banks (k : Core) (r : Nat) (v : Pred) : (k.setPred r v).banks = k.banks := by unfold Core.setPred; split <;> rfl
@[simp] theorem Core.setPred_outcnt (k : Core) (r : Nat) (v : Pred) : (k.setPred r v).outcnt = k.outcnt := by unfold Core.setPred; split <;> rfl
@[simp] theorem Core.setPred_prods (k : Core) (r : Nat) (v : Pred) : (k.setPred r v).prods = k.prods := by unfold Core.setPred; split <;> rfl
@[simp] theorem Core.setPred_failed (k : Core) (r : Nat) (v : Pred) : (k.setPred r v).failed = k.failed := by unfold Core.setPred; split <;> rfl
@[simp] theorem Core.setPred_tokerr (k : Core) (r : Nat) (v : Pred) : (k.setPred r v).tokerr = k.tokerr := by unfold Core.setPred; split <;> rfl
@[simp] theorem Core.setPred_team (k : Core) (r : Nat) (v : Pred) : (k.setPred r v).team = k.team := by unfold Core.setPred; split <;> rfl
@[simp] theorem Core.setPred_lidq (k : Core) (r : Nat) (v : Pred) : (k.setPred r v).lidq = k.lidq := by unfold Core.setPred; split <;> rfl
@[simp] theorem Core.setPred_predst (k : Core) (r : Nat) (v : Pred) : (k.setPred r v).predst = k.predst := by unfold Core.setPred; split <;> rfl
@[simp] theorem Core.setPred_wswap (k : Core) (r : Nat) (v : Pred) : (k.setPred r v).wswap = k.wswap := by unfold Core.setPred; split <;> rfl
@[simp] theorem Core.setPred_ctxasid (k : Core) (r : Nat) (v : Pred) : (k.setPred r v).ctxasid = k.ctxasid := by unfold Core.setPred; split <;> rfl
@[simp] theorem Core.setPred_spcap (k : Core) (r : Nat) (v : Pred) : (k.setPred r v).spcap = k.spcap := by unfold Core.setPred; split <;> rfl
@[simp] theorem Core.setPred_celltemp (k : Core) (r : Nat) (v : Pred) : (k.setPred r v).celltemp = k.celltemp := by unfold Core.setPred; split <;> rfl
@[simp] theorem Core.setPred_fmt (k : Core) (r : Nat) (v : Pred) : (k.setPred r v).fmt = k.fmt := by unfold Core.setPred; split <;> rfl
@[simp] theorem Core.setPred_vstat (k : Core) (r : Nat) (v : Pred) : (k.setPred r v).vstat = k.vstat := by unfold Core.setPred; split <;> rfl
@[simp] theorem Core.setPred_sctab (k : Core) (r : Nat) (v : Pred) : (k.setPred r v).sctab = k.sctab := by unfold Core.setPred; split <;> rfl
@[simp] theorem Core.setPred_swz (k : Core) (r : Nat) (v : Pred) : (k.setPred r v).swz = k.swz := by unfold Core.setPred; split <;> rfl
@[simp] theorem Core.setPred_unf0 (k : Core) (r : Nat) (v : Pred) : (k.setPred r v).unf0 = k.unf0 := by unfold Core.setPred; split <;> rfl
@[simp] theorem Core.setPred_unf1 (k : Core) (r : Nat) (v : Pred) : (k.setPred r v).unf1 = k.unf1 := by unfold Core.setPred; split <;> rfl
@[simp] theorem Core.setPred_apx (k : Core) (r : Nat) (v : Pred) : (k.setPred r v).apx = k.apx := by unfold Core.setPred; split <;> rfl
@[simp] theorem Core.setPred_apxcnt (k : Core) (r : Nat) (v : Pred) : (k.setPred r v).apxcnt = k.apxcnt := by unfold Core.setPred; split <;> rfl
@[simp] theorem Core.setPred_shadow (k : Core) (r : Nat) (v : Pred) : (k.setPred r v).shadow = k.shadow := by unfold Core.setPred; split <;> rfl
@[simp] theorem Core.setPred_tags (k : Core) (r : Nat) (v : Pred) : (k.setPred r v).tags = k.tags := by unfold Core.setPred; split <;> rfl
@[simp] theorem Core.setPred_tagidx (k : Core) (r : Nat) (v : Pred) : (k.setPred r v).tagidx = k.tagidx := by unfold Core.setPred; split <;> rfl
@[simp] theorem Core.setPred_rcache (k : Core) (r : Nat) (v : Pred) : (k.setPred r v).rcache = k.rcache := by unfold Core.setPred; split <;> rfl
@[simp] theorem Core.setPred_rcidx (k : Core) (r : Nat) (v : Pred) : (k.setPred r v).rcidx = k.rcidx := by unfold Core.setPred; split <;> rfl
@[simp] theorem Core.setPred_hand (k : Core) (r : Nat) (v : Pred) : (k.setPred r v).hand = k.hand := by unfold Core.setPred; split <;> rfl
@[simp] theorem Core.setPred_rec (k : Core) (r : Nat) (v : Pred) : (k.setPred r v).rec_ = k.rec_ := by unfold Core.setPred; split <;> rfl
@[simp] theorem Core.setPred_late (k : Core) (r : Nat) (v : Pred) : (k.setPred r v).late = k.late := by unfold Core.setPred; split <;> rfl
@[simp] theorem Core.setPred_soon (k : Core) (r : Nat) (v : Pred) : (k.setPred r v).soon = k.soon := by unfold Core.setPred; split <;> rfl
@[simp] theorem Core.setPred_due (k : Core) (r : Nat) (v : Pred) : (k.setPred r v).due = k.due := by unfold Core.setPred; split <;> rfl
@[simp] theorem Core.setPred_dueMore (k : Core) (r : Nat) (v : Pred) : (k.setPred r v).dueMore = k.dueMore := by unfold Core.setPred; split <;> rfl
@[simp] theorem Core.setPred_stopReq (k : Core) (r : Nat) (v : Pred) : (k.setPred r v).stopReq = k.stopReq := by unfold Core.setPred; split <;> rfl
@[simp] theorem Core.setPred_yreq (k : Core) (r : Nat) (v : Pred) : (k.setPred r v).yreq = k.yreq := by unfold Core.setPred; split <;> rfl
@[simp] theorem Core.setPred_migReq (k : Core) (r : Nat) (v : Pred) : (k.setPred r v).migReq = k.migReq := by unfold Core.setPred; split <;> rfl
@[simp] theorem Core.setPred_landing (k : Core) (r : Nat) (v : Pred) : (k.setPred r v).landing = k.landing := by unfold Core.setPred; split <;> rfl
@[simp] theorem Core.setPred_ycfg (k : Core) (r : Nat) (v : Pred) : (k.setPred r v).ycfg = k.ycfg := by unfold Core.setPred; split <;> rfl
@[simp] theorem Core.setPred_ystat (k : Core) (r : Nat) (v : Pred) : (k.setPred r v).ystat = k.ystat := by unfold Core.setPred; split <;> rfl
@[simp] theorem Core.setPred_evsel (k : Core) (r : Nat) (v : Pred) : (k.setPred r v).evsel = k.evsel := by unfold Core.setPred; split <;> rfl
@[simp] theorem Core.setPred_evcnt (k : Core) (r : Nat) (v : Pred) : (k.setPred r v).evcnt = k.evcnt := by unfold Core.setPred; split <;> rfl
@[simp] theorem Core.setPred_ebal (k : Core) (r : Nat) (v : Pred) : (k.setPred r v).ebal = k.ebal := by unfold Core.setPred; split <;> rfl
@[simp] theorem Core.setPred_erate (k : Core) (r : Nat) (v : Pred) : (k.setPred r v).erate = k.erate := by unfold Core.setPred; split <;> rfl
@[simp] theorem Core.setPred_ecost (k : Core) (r : Nat) (v : Pred) : (k.setPred r v).ecost = k.ecost := by unfold Core.setPred; split <;> rfl
@[simp] theorem Core.setPred_charged (k : Core) (r : Nat) (v : Pred) : (k.setPred r v).charged = k.charged := by unfold Core.setPred; split <;> rfl
@[simp] theorem Core.setPred_duties (k : Core) (r : Nat) (v : Pred) : (k.setPred r v).duties = k.duties := by unfold Core.setPred; split <;> rfl
@[simp] theorem Core.setPred_duty (k : Core) (r : Nat) (v : Pred) : (k.setPred r v).duty = k.duty := by unfold Core.setPred; split <;> rfl
@[simp] theorem Core.setPred_arrived (k : Core) (r : Nat) (v : Pred) : (k.setPred r v).arrived = k.arrived := by unfold Core.setPred; split <;> rfl
@[simp] theorem Core.setPred_handoff (k : Core) (r : Nat) (v : Pred) : (k.setPred r v).handoff = k.handoff := by unfold Core.setPred; split <;> rfl
@[simp] theorem Core.setPred_kdone (k : Core) (r : Nat) (v : Pred) : (k.setPred r v).kdone = k.kdone := by unfold Core.setPred; split <;> rfl
@[simp] theorem Core.setPred_oldV (k : Core) (r : Nat) (v : Pred) : (k.setPred r v).oldV = k.oldV := by unfold Core.setPred; split <;> rfl
@[simp] theorem Core.setPred_oldP (k : Core) (r : Nat) (v : Pred) : (k.setPred r v).oldP = k.oldP := by unfold Core.setPred; split <;> rfl
@[simp] theorem Core.setPred_oldA (k : Core) (r : Nat) (v : Pred) : (k.setPred r v).oldA = k.oldA := by unfold Core.setPred; split <;> rfl
@[simp] theorem Core.setPred_oldDone (k : Core) (r : Nat) (v : Pred) : (k.setPred r v).oldDone = k.oldDone := by unfold Core.setPred; split <;> rfl
@[simp] theorem Core.setPred_matLate (k : Core) (r : Nat) (v : Pred) : (k.setPred r v).matLate = k.matLate := by unfold Core.setPred; split <;> rfl
@[simp] theorem Core.setPred_replay (k : Core) (r : Nat) (v : Pred) : (k.setPred r v).replay = k.replay := by unfold Core.setPred; split <;> rfl
@[simp] theorem Core.setPred_imem (k : Core) (r : Nat) (v : Pred) : (k.setPred r v).imem = k.imem := by unfold Core.setPred; split <;> rfl
@[simp] theorem Core.setPred_ueImem (k : Core) (r : Nat) (v : Pred) : (k.setPred r v).ueImem = k.ueImem := by unfold Core.setPred; split <;> rfl
@[simp] theorem Core.setPred_ceImem (k : Core) (r : Nat) (v : Pred) : (k.setPred r v).ceImem = k.ceImem := by unfold Core.setPred; split <;> rfl
@[simp] theorem Core.setPred_ueTags (k : Core) (r : Nat) (v : Pred) : (k.setPred r v).ueTags = k.ueTags := by unfold Core.setPred; split <;> rfl
@[simp] theorem Core.setPred_ceTags (k : Core) (r : Nat) (v : Pred) : (k.setPred r v).ceTags = k.ceTags := by unfold Core.setPred; split <;> rfl
@[simp] theorem Core.setPred_ueSnap (k : Core) (r : Nat) (v : Pred) : (k.setPred r v).ueSnap = k.ueSnap := by unfold Core.setPred; split <;> rfl
@[simp] theorem Core.setPred_ceSnap (k : Core) (r : Nat) (v : Pred) : (k.setPred r v).ceSnap = k.ceSnap := by unfold Core.setPred; split <;> rfl
@[simp] theorem Core.setPred_ctxt (k : Core) (r : Nat) (v : Pred) : (k.setPred r v).ctxt = k.ctxt := by unfold Core.setPred; split <;> rfl
@[simp] theorem Core.setPred_lmbase (k : Core) (r : Nat) (v : Pred) : (k.setPred r v).lmbase = k.lmbase := by unfold Core.setPred; split <;> rfl
@[simp] theorem Core.setPred_coll (k : Core) (r : Nat) (v : Pred) : (k.setPred r v).coll = k.coll := by unfold Core.setPred; split <;> rfl
@[simp] theorem Core.setLane_s (k : Core) (r l : Nat) (v : Lane) : (k.setLane r l v).s = k.s := rfl
@[simp] theorem Core.setLane_p (k : Core) (r l : Nat) (v : Lane) : (k.setLane r l v).p = k.p := rfl
@[simp] theorem Core.setLane_a (k : Core) (r l : Nat) (v : Lane) : (k.setLane r l v).a = k.a := rfl
@[simp] theorem Core.setLane_pc (k : Core) (r l : Nat) (v : Lane) : (k.setLane r l v).pc = k.pc := rfl
@[simp] theorem Core.setLane_st (k : Core) (r l : Nat) (v : Lane) : (k.setLane r l v).st = k.st := rfl
@[simp] theorem Core.setLane_waitk (k : Core) (r l : Nat) (v : Lane) : (k.setLane r l v).waitk = k.waitk := rfl
@[simp] theorem Core.setLane_loops (k : Core) (r l : Nat) (v : Lane) : (k.setLane r l v).loops = k.loops := rfl
@[simp] theorem Core.setLane_rptLeft (k : Core) (r l : Nat) (v : Lane) : (k.setLane r l v).rptLeft = k.rptLeft := rfl
@[simp] theorem Core.setLane_latches (k : Core) (r l : Nat) (v : Lane) : (k.setLane r l v).latches = k.latches := rfl
@[simp] theorem Core.setLane_waits (k : Core) (r l : Nat) (v : Lane) : (k.setLane r l v).waits = k.waits := rfl
@[simp] theorem Core.setLane_popReq (k : Core) (r l : Nat) (v : Lane) : (k.setLane r l v).popReq = k.popReq := rfl
@[simp] theorem Core.setLane_slack (k : Core) (r l : Nat) (v : Lane) : (k.setLane r l v).slack = k.slack := rfl
@[simp] theorem Core.setLane_skew (k : Core) (r l : Nat) (v : Lane) : (k.setLane r l v).skew = k.skew := rfl
@[simp] theorem Core.setLane_bind (k : Core) (r l : Nat) (v : Lane) : (k.setLane r l v).bind = k.bind := rfl
@[simp] theorem Core.setLane_bindReq (k : Core) (r l : Nat) (v : Lane) : (k.setLane r l v).bindReq = k.bindReq := rfl
@[simp] theorem Core.setLane_flights (k : Core) (r l : Nat) (v : Lane) : (k.setLane r l v).flights = k.flights := rfl
@[simp] theorem Core.setLane_queue (k : Core) (r l : Nat) (v : Lane) : (k.setLane r l v).queue = k.queue := rfl
@[simp] theorem Core.setLane_skewOut (k : Core) (r l : Nat) (v : Lane) : (k.setLane r l v).skewOut = k.skewOut := rfl
@[simp] theorem Core.setLane_cyc (k : Core) (r l : Nat) (v : Lane) : (k.setLane r l v).cyc = k.cyc := rfl
@[simp] theorem Core.setLane_rcyc (k : Core) (r l : Nat) (v : Lane) : (k.setLane r l v).rcyc = k.rcyc := rfl
@[simp] theorem Core.setLane_holdCyc (k : Core) (r l : Nat) (v : Lane) : (k.setLane r l v).holdCyc = k.holdCyc := rfl
@[simp] theorem Core.setLane_waitCyc (k : Core) (r l : Nat) (v : Lane) : (k.setLane r l v).waitCyc = k.waitCyc := rfl
@[simp] theorem Core.setLane_lastIb (k : Core) (r l : Nat) (v : Lane) : (k.setLane r l v).lastIb = k.lastIb := rfl
@[simp] theorem Core.setLane_banks (k : Core) (r l : Nat) (v : Lane) : (k.setLane r l v).banks = k.banks := rfl
@[simp] theorem Core.setLane_outcnt (k : Core) (r l : Nat) (v : Lane) : (k.setLane r l v).outcnt = k.outcnt := rfl
@[simp] theorem Core.setLane_prods (k : Core) (r l : Nat) (v : Lane) : (k.setLane r l v).prods = k.prods := rfl
@[simp] theorem Core.setLane_failed (k : Core) (r l : Nat) (v : Lane) : (k.setLane r l v).failed = k.failed := rfl
@[simp] theorem Core.setLane_tokerr (k : Core) (r l : Nat) (v : Lane) : (k.setLane r l v).tokerr = k.tokerr := rfl
@[simp] theorem Core.setLane_team (k : Core) (r l : Nat) (v : Lane) : (k.setLane r l v).team = k.team := rfl
@[simp] theorem Core.setLane_lidq (k : Core) (r l : Nat) (v : Lane) : (k.setLane r l v).lidq = k.lidq := rfl
@[simp] theorem Core.setLane_predst (k : Core) (r l : Nat) (v : Lane) : (k.setLane r l v).predst = k.predst := rfl
@[simp] theorem Core.setLane_wswap (k : Core) (r l : Nat) (v : Lane) : (k.setLane r l v).wswap = k.wswap := rfl
@[simp] theorem Core.setLane_ctxasid (k : Core) (r l : Nat) (v : Lane) : (k.setLane r l v).ctxasid = k.ctxasid := rfl
@[simp] theorem Core.setLane_spcap (k : Core) (r l : Nat) (v : Lane) : (k.setLane r l v).spcap = k.spcap := rfl
@[simp] theorem Core.setLane_celltemp (k : Core) (r l : Nat) (v : Lane) : (k.setLane r l v).celltemp = k.celltemp := rfl
@[simp] theorem Core.setLane_fmt (k : Core) (r l : Nat) (v : Lane) : (k.setLane r l v).fmt = k.fmt := rfl
@[simp] theorem Core.setLane_vstat (k : Core) (r l : Nat) (v : Lane) : (k.setLane r l v).vstat = k.vstat := rfl
@[simp] theorem Core.setLane_sctab (k : Core) (r l : Nat) (v : Lane) : (k.setLane r l v).sctab = k.sctab := rfl
@[simp] theorem Core.setLane_swz (k : Core) (r l : Nat) (v : Lane) : (k.setLane r l v).swz = k.swz := rfl
@[simp] theorem Core.setLane_unf0 (k : Core) (r l : Nat) (v : Lane) : (k.setLane r l v).unf0 = k.unf0 := rfl
@[simp] theorem Core.setLane_unf1 (k : Core) (r l : Nat) (v : Lane) : (k.setLane r l v).unf1 = k.unf1 := rfl
@[simp] theorem Core.setLane_apx (k : Core) (r l : Nat) (v : Lane) : (k.setLane r l v).apx = k.apx := rfl
@[simp] theorem Core.setLane_apxcnt (k : Core) (r l : Nat) (v : Lane) : (k.setLane r l v).apxcnt = k.apxcnt := rfl
@[simp] theorem Core.setLane_shadow (k : Core) (r l : Nat) (v : Lane) : (k.setLane r l v).shadow = k.shadow := rfl
@[simp] theorem Core.setLane_tags (k : Core) (r l : Nat) (v : Lane) : (k.setLane r l v).tags = k.tags := rfl
@[simp] theorem Core.setLane_tagidx (k : Core) (r l : Nat) (v : Lane) : (k.setLane r l v).tagidx = k.tagidx := rfl
@[simp] theorem Core.setLane_rcache (k : Core) (r l : Nat) (v : Lane) : (k.setLane r l v).rcache = k.rcache := rfl
@[simp] theorem Core.setLane_rcidx (k : Core) (r l : Nat) (v : Lane) : (k.setLane r l v).rcidx = k.rcidx := rfl
@[simp] theorem Core.setLane_hand (k : Core) (r l : Nat) (v : Lane) : (k.setLane r l v).hand = k.hand := rfl
@[simp] theorem Core.setLane_rec (k : Core) (r l : Nat) (v : Lane) : (k.setLane r l v).rec_ = k.rec_ := rfl
@[simp] theorem Core.setLane_late (k : Core) (r l : Nat) (v : Lane) : (k.setLane r l v).late = k.late := rfl
@[simp] theorem Core.setLane_soon (k : Core) (r l : Nat) (v : Lane) : (k.setLane r l v).soon = k.soon := rfl
@[simp] theorem Core.setLane_due (k : Core) (r l : Nat) (v : Lane) : (k.setLane r l v).due = k.due := rfl
@[simp] theorem Core.setLane_dueMore (k : Core) (r l : Nat) (v : Lane) : (k.setLane r l v).dueMore = k.dueMore := rfl
@[simp] theorem Core.setLane_stopReq (k : Core) (r l : Nat) (v : Lane) : (k.setLane r l v).stopReq = k.stopReq := rfl
@[simp] theorem Core.setLane_yreq (k : Core) (r l : Nat) (v : Lane) : (k.setLane r l v).yreq = k.yreq := rfl
@[simp] theorem Core.setLane_migReq (k : Core) (r l : Nat) (v : Lane) : (k.setLane r l v).migReq = k.migReq := rfl
@[simp] theorem Core.setLane_landing (k : Core) (r l : Nat) (v : Lane) : (k.setLane r l v).landing = k.landing := rfl
@[simp] theorem Core.setLane_ycfg (k : Core) (r l : Nat) (v : Lane) : (k.setLane r l v).ycfg = k.ycfg := rfl
@[simp] theorem Core.setLane_ystat (k : Core) (r l : Nat) (v : Lane) : (k.setLane r l v).ystat = k.ystat := rfl
@[simp] theorem Core.setLane_evsel (k : Core) (r l : Nat) (v : Lane) : (k.setLane r l v).evsel = k.evsel := rfl
@[simp] theorem Core.setLane_evcnt (k : Core) (r l : Nat) (v : Lane) : (k.setLane r l v).evcnt = k.evcnt := rfl
@[simp] theorem Core.setLane_ebal (k : Core) (r l : Nat) (v : Lane) : (k.setLane r l v).ebal = k.ebal := rfl
@[simp] theorem Core.setLane_erate (k : Core) (r l : Nat) (v : Lane) : (k.setLane r l v).erate = k.erate := rfl
@[simp] theorem Core.setLane_ecost (k : Core) (r l : Nat) (v : Lane) : (k.setLane r l v).ecost = k.ecost := rfl
@[simp] theorem Core.setLane_charged (k : Core) (r l : Nat) (v : Lane) : (k.setLane r l v).charged = k.charged := rfl
@[simp] theorem Core.setLane_duties (k : Core) (r l : Nat) (v : Lane) : (k.setLane r l v).duties = k.duties := rfl
@[simp] theorem Core.setLane_duty (k : Core) (r l : Nat) (v : Lane) : (k.setLane r l v).duty = k.duty := rfl
@[simp] theorem Core.setLane_arrived (k : Core) (r l : Nat) (v : Lane) : (k.setLane r l v).arrived = k.arrived := rfl
@[simp] theorem Core.setLane_handoff (k : Core) (r l : Nat) (v : Lane) : (k.setLane r l v).handoff = k.handoff := rfl
@[simp] theorem Core.setLane_kdone (k : Core) (r l : Nat) (v : Lane) : (k.setLane r l v).kdone = k.kdone := rfl
@[simp] theorem Core.setLane_oldV (k : Core) (r l : Nat) (v : Lane) : (k.setLane r l v).oldV = k.oldV := rfl
@[simp] theorem Core.setLane_oldP (k : Core) (r l : Nat) (v : Lane) : (k.setLane r l v).oldP = k.oldP := rfl
@[simp] theorem Core.setLane_oldA (k : Core) (r l : Nat) (v : Lane) : (k.setLane r l v).oldA = k.oldA := rfl
@[simp] theorem Core.setLane_oldDone (k : Core) (r l : Nat) (v : Lane) : (k.setLane r l v).oldDone = k.oldDone := rfl
@[simp] theorem Core.setLane_matLate (k : Core) (r l : Nat) (v : Lane) : (k.setLane r l v).matLate = k.matLate := rfl
@[simp] theorem Core.setLane_replay (k : Core) (r l : Nat) (v : Lane) : (k.setLane r l v).replay = k.replay := rfl
@[simp] theorem Core.setLane_imem (k : Core) (r l : Nat) (v : Lane) : (k.setLane r l v).imem = k.imem := rfl
@[simp] theorem Core.setLane_ueImem (k : Core) (r l : Nat) (v : Lane) : (k.setLane r l v).ueImem = k.ueImem := rfl
@[simp] theorem Core.setLane_ceImem (k : Core) (r l : Nat) (v : Lane) : (k.setLane r l v).ceImem = k.ceImem := rfl
@[simp] theorem Core.setLane_ueTags (k : Core) (r l : Nat) (v : Lane) : (k.setLane r l v).ueTags = k.ueTags := rfl
@[simp] theorem Core.setLane_ceTags (k : Core) (r l : Nat) (v : Lane) : (k.setLane r l v).ceTags = k.ceTags := rfl
@[simp] theorem Core.setLane_ueSnap (k : Core) (r l : Nat) (v : Lane) : (k.setLane r l v).ueSnap = k.ueSnap := rfl
@[simp] theorem Core.setLane_ceSnap (k : Core) (r l : Nat) (v : Lane) : (k.setLane r l v).ceSnap = k.ceSnap := rfl
@[simp] theorem Core.setLane_ctxt (k : Core) (r l : Nat) (v : Lane) : (k.setLane r l v).ctxt = k.ctxt := rfl
@[simp] theorem Core.setLane_lmbase (k : Core) (r l : Nat) (v : Lane) : (k.setLane r l v).lmbase = k.lmbase := rfl
@[simp] theorem Core.setLane_coll (k : Core) (r l : Nat) (v : Lane) : (k.setLane r l v).coll = k.coll := rfl
@[simp] theorem Core.setEntry_s (k : Core) (t i j : Nat) (v : AccEntry) : (k.setEntry t i j v).s = k.s := rfl
@[simp] theorem Core.setEntry_v (k : Core) (t i j : Nat) (v : AccEntry) : (k.setEntry t i j v).v = k.v := rfl
@[simp] theorem Core.setEntry_p (k : Core) (t i j : Nat) (v : AccEntry) : (k.setEntry t i j v).p = k.p := rfl
@[simp] theorem Core.setEntry_pc (k : Core) (t i j : Nat) (v : AccEntry) : (k.setEntry t i j v).pc = k.pc := rfl
@[simp] theorem Core.setEntry_st (k : Core) (t i j : Nat) (v : AccEntry) : (k.setEntry t i j v).st = k.st := rfl
@[simp] theorem Core.setEntry_waitk (k : Core) (t i j : Nat) (v : AccEntry) : (k.setEntry t i j v).waitk = k.waitk := rfl
@[simp] theorem Core.setEntry_loops (k : Core) (t i j : Nat) (v : AccEntry) : (k.setEntry t i j v).loops = k.loops := rfl
@[simp] theorem Core.setEntry_rptLeft (k : Core) (t i j : Nat) (v : AccEntry) : (k.setEntry t i j v).rptLeft = k.rptLeft := rfl
@[simp] theorem Core.setEntry_latches (k : Core) (t i j : Nat) (v : AccEntry) : (k.setEntry t i j v).latches = k.latches := rfl
@[simp] theorem Core.setEntry_waits (k : Core) (t i j : Nat) (v : AccEntry) : (k.setEntry t i j v).waits = k.waits := rfl
@[simp] theorem Core.setEntry_popReq (k : Core) (t i j : Nat) (v : AccEntry) : (k.setEntry t i j v).popReq = k.popReq := rfl
@[simp] theorem Core.setEntry_slack (k : Core) (t i j : Nat) (v : AccEntry) : (k.setEntry t i j v).slack = k.slack := rfl
@[simp] theorem Core.setEntry_skew (k : Core) (t i j : Nat) (v : AccEntry) : (k.setEntry t i j v).skew = k.skew := rfl
@[simp] theorem Core.setEntry_bind (k : Core) (t i j : Nat) (v : AccEntry) : (k.setEntry t i j v).bind = k.bind := rfl
@[simp] theorem Core.setEntry_bindReq (k : Core) (t i j : Nat) (v : AccEntry) : (k.setEntry t i j v).bindReq = k.bindReq := rfl
@[simp] theorem Core.setEntry_flights (k : Core) (t i j : Nat) (v : AccEntry) : (k.setEntry t i j v).flights = k.flights := rfl
@[simp] theorem Core.setEntry_queue (k : Core) (t i j : Nat) (v : AccEntry) : (k.setEntry t i j v).queue = k.queue := rfl
@[simp] theorem Core.setEntry_skewOut (k : Core) (t i j : Nat) (v : AccEntry) : (k.setEntry t i j v).skewOut = k.skewOut := rfl
@[simp] theorem Core.setEntry_cyc (k : Core) (t i j : Nat) (v : AccEntry) : (k.setEntry t i j v).cyc = k.cyc := rfl
@[simp] theorem Core.setEntry_rcyc (k : Core) (t i j : Nat) (v : AccEntry) : (k.setEntry t i j v).rcyc = k.rcyc := rfl
@[simp] theorem Core.setEntry_holdCyc (k : Core) (t i j : Nat) (v : AccEntry) : (k.setEntry t i j v).holdCyc = k.holdCyc := rfl
@[simp] theorem Core.setEntry_waitCyc (k : Core) (t i j : Nat) (v : AccEntry) : (k.setEntry t i j v).waitCyc = k.waitCyc := rfl
@[simp] theorem Core.setEntry_lastIb (k : Core) (t i j : Nat) (v : AccEntry) : (k.setEntry t i j v).lastIb = k.lastIb := rfl
@[simp] theorem Core.setEntry_banks (k : Core) (t i j : Nat) (v : AccEntry) : (k.setEntry t i j v).banks = k.banks := rfl
@[simp] theorem Core.setEntry_outcnt (k : Core) (t i j : Nat) (v : AccEntry) : (k.setEntry t i j v).outcnt = k.outcnt := rfl
@[simp] theorem Core.setEntry_prods (k : Core) (t i j : Nat) (v : AccEntry) : (k.setEntry t i j v).prods = k.prods := rfl
@[simp] theorem Core.setEntry_failed (k : Core) (t i j : Nat) (v : AccEntry) : (k.setEntry t i j v).failed = k.failed := rfl
@[simp] theorem Core.setEntry_tokerr (k : Core) (t i j : Nat) (v : AccEntry) : (k.setEntry t i j v).tokerr = k.tokerr := rfl
@[simp] theorem Core.setEntry_team (k : Core) (t i j : Nat) (v : AccEntry) : (k.setEntry t i j v).team = k.team := rfl
@[simp] theorem Core.setEntry_lidq (k : Core) (t i j : Nat) (v : AccEntry) : (k.setEntry t i j v).lidq = k.lidq := rfl
@[simp] theorem Core.setEntry_predst (k : Core) (t i j : Nat) (v : AccEntry) : (k.setEntry t i j v).predst = k.predst := rfl
@[simp] theorem Core.setEntry_wswap (k : Core) (t i j : Nat) (v : AccEntry) : (k.setEntry t i j v).wswap = k.wswap := rfl
@[simp] theorem Core.setEntry_ctxasid (k : Core) (t i j : Nat) (v : AccEntry) : (k.setEntry t i j v).ctxasid = k.ctxasid := rfl
@[simp] theorem Core.setEntry_spcap (k : Core) (t i j : Nat) (v : AccEntry) : (k.setEntry t i j v).spcap = k.spcap := rfl
@[simp] theorem Core.setEntry_celltemp (k : Core) (t i j : Nat) (v : AccEntry) : (k.setEntry t i j v).celltemp = k.celltemp := rfl
@[simp] theorem Core.setEntry_fmt (k : Core) (t i j : Nat) (v : AccEntry) : (k.setEntry t i j v).fmt = k.fmt := rfl
@[simp] theorem Core.setEntry_vstat (k : Core) (t i j : Nat) (v : AccEntry) : (k.setEntry t i j v).vstat = k.vstat := rfl
@[simp] theorem Core.setEntry_sctab (k : Core) (t i j : Nat) (v : AccEntry) : (k.setEntry t i j v).sctab = k.sctab := rfl
@[simp] theorem Core.setEntry_swz (k : Core) (t i j : Nat) (v : AccEntry) : (k.setEntry t i j v).swz = k.swz := rfl
@[simp] theorem Core.setEntry_unf0 (k : Core) (t i j : Nat) (v : AccEntry) : (k.setEntry t i j v).unf0 = k.unf0 := rfl
@[simp] theorem Core.setEntry_unf1 (k : Core) (t i j : Nat) (v : AccEntry) : (k.setEntry t i j v).unf1 = k.unf1 := rfl
@[simp] theorem Core.setEntry_apx (k : Core) (t i j : Nat) (v : AccEntry) : (k.setEntry t i j v).apx = k.apx := rfl
@[simp] theorem Core.setEntry_apxcnt (k : Core) (t i j : Nat) (v : AccEntry) : (k.setEntry t i j v).apxcnt = k.apxcnt := rfl
@[simp] theorem Core.setEntry_shadow (k : Core) (t i j : Nat) (v : AccEntry) : (k.setEntry t i j v).shadow = k.shadow := rfl
@[simp] theorem Core.setEntry_tags (k : Core) (t i j : Nat) (v : AccEntry) : (k.setEntry t i j v).tags = k.tags := rfl
@[simp] theorem Core.setEntry_tagidx (k : Core) (t i j : Nat) (v : AccEntry) : (k.setEntry t i j v).tagidx = k.tagidx := rfl
@[simp] theorem Core.setEntry_rcache (k : Core) (t i j : Nat) (v : AccEntry) : (k.setEntry t i j v).rcache = k.rcache := rfl
@[simp] theorem Core.setEntry_rcidx (k : Core) (t i j : Nat) (v : AccEntry) : (k.setEntry t i j v).rcidx = k.rcidx := rfl
@[simp] theorem Core.setEntry_hand (k : Core) (t i j : Nat) (v : AccEntry) : (k.setEntry t i j v).hand = k.hand := rfl
@[simp] theorem Core.setEntry_rec (k : Core) (t i j : Nat) (v : AccEntry) : (k.setEntry t i j v).rec_ = k.rec_ := rfl
@[simp] theorem Core.setEntry_late (k : Core) (t i j : Nat) (v : AccEntry) : (k.setEntry t i j v).late = k.late := rfl
@[simp] theorem Core.setEntry_soon (k : Core) (t i j : Nat) (v : AccEntry) : (k.setEntry t i j v).soon = k.soon := rfl
@[simp] theorem Core.setEntry_due (k : Core) (t i j : Nat) (v : AccEntry) : (k.setEntry t i j v).due = k.due := rfl
@[simp] theorem Core.setEntry_dueMore (k : Core) (t i j : Nat) (v : AccEntry) : (k.setEntry t i j v).dueMore = k.dueMore := rfl
@[simp] theorem Core.setEntry_stopReq (k : Core) (t i j : Nat) (v : AccEntry) : (k.setEntry t i j v).stopReq = k.stopReq := rfl
@[simp] theorem Core.setEntry_yreq (k : Core) (t i j : Nat) (v : AccEntry) : (k.setEntry t i j v).yreq = k.yreq := rfl
@[simp] theorem Core.setEntry_migReq (k : Core) (t i j : Nat) (v : AccEntry) : (k.setEntry t i j v).migReq = k.migReq := rfl
@[simp] theorem Core.setEntry_landing (k : Core) (t i j : Nat) (v : AccEntry) : (k.setEntry t i j v).landing = k.landing := rfl
@[simp] theorem Core.setEntry_ycfg (k : Core) (t i j : Nat) (v : AccEntry) : (k.setEntry t i j v).ycfg = k.ycfg := rfl
@[simp] theorem Core.setEntry_ystat (k : Core) (t i j : Nat) (v : AccEntry) : (k.setEntry t i j v).ystat = k.ystat := rfl
@[simp] theorem Core.setEntry_evsel (k : Core) (t i j : Nat) (v : AccEntry) : (k.setEntry t i j v).evsel = k.evsel := rfl
@[simp] theorem Core.setEntry_evcnt (k : Core) (t i j : Nat) (v : AccEntry) : (k.setEntry t i j v).evcnt = k.evcnt := rfl
@[simp] theorem Core.setEntry_ebal (k : Core) (t i j : Nat) (v : AccEntry) : (k.setEntry t i j v).ebal = k.ebal := rfl
@[simp] theorem Core.setEntry_erate (k : Core) (t i j : Nat) (v : AccEntry) : (k.setEntry t i j v).erate = k.erate := rfl
@[simp] theorem Core.setEntry_ecost (k : Core) (t i j : Nat) (v : AccEntry) : (k.setEntry t i j v).ecost = k.ecost := rfl
@[simp] theorem Core.setEntry_charged (k : Core) (t i j : Nat) (v : AccEntry) : (k.setEntry t i j v).charged = k.charged := rfl
@[simp] theorem Core.setEntry_duties (k : Core) (t i j : Nat) (v : AccEntry) : (k.setEntry t i j v).duties = k.duties := rfl
@[simp] theorem Core.setEntry_duty (k : Core) (t i j : Nat) (v : AccEntry) : (k.setEntry t i j v).duty = k.duty := rfl
@[simp] theorem Core.setEntry_arrived (k : Core) (t i j : Nat) (v : AccEntry) : (k.setEntry t i j v).arrived = k.arrived := rfl
@[simp] theorem Core.setEntry_handoff (k : Core) (t i j : Nat) (v : AccEntry) : (k.setEntry t i j v).handoff = k.handoff := rfl
@[simp] theorem Core.setEntry_kdone (k : Core) (t i j : Nat) (v : AccEntry) : (k.setEntry t i j v).kdone = k.kdone := rfl
@[simp] theorem Core.setEntry_oldV (k : Core) (t i j : Nat) (v : AccEntry) : (k.setEntry t i j v).oldV = k.oldV := rfl
@[simp] theorem Core.setEntry_oldP (k : Core) (t i j : Nat) (v : AccEntry) : (k.setEntry t i j v).oldP = k.oldP := rfl
@[simp] theorem Core.setEntry_oldA (k : Core) (t i j : Nat) (v : AccEntry) : (k.setEntry t i j v).oldA = k.oldA := rfl
@[simp] theorem Core.setEntry_oldDone (k : Core) (t i j : Nat) (v : AccEntry) : (k.setEntry t i j v).oldDone = k.oldDone := rfl
@[simp] theorem Core.setEntry_matLate (k : Core) (t i j : Nat) (v : AccEntry) : (k.setEntry t i j v).matLate = k.matLate := rfl
@[simp] theorem Core.setEntry_replay (k : Core) (t i j : Nat) (v : AccEntry) : (k.setEntry t i j v).replay = k.replay := rfl
@[simp] theorem Core.setEntry_imem (k : Core) (t i j : Nat) (v : AccEntry) : (k.setEntry t i j v).imem = k.imem := rfl
@[simp] theorem Core.setEntry_ueImem (k : Core) (t i j : Nat) (v : AccEntry) : (k.setEntry t i j v).ueImem = k.ueImem := rfl
@[simp] theorem Core.setEntry_ceImem (k : Core) (t i j : Nat) (v : AccEntry) : (k.setEntry t i j v).ceImem = k.ceImem := rfl
@[simp] theorem Core.setEntry_ueTags (k : Core) (t i j : Nat) (v : AccEntry) : (k.setEntry t i j v).ueTags = k.ueTags := rfl
@[simp] theorem Core.setEntry_ceTags (k : Core) (t i j : Nat) (v : AccEntry) : (k.setEntry t i j v).ceTags = k.ceTags := rfl
@[simp] theorem Core.setEntry_ueSnap (k : Core) (t i j : Nat) (v : AccEntry) : (k.setEntry t i j v).ueSnap = k.ueSnap := rfl
@[simp] theorem Core.setEntry_ceSnap (k : Core) (t i j : Nat) (v : AccEntry) : (k.setEntry t i j v).ceSnap = k.ceSnap := rfl
@[simp] theorem Core.setEntry_ctxt (k : Core) (t i j : Nat) (v : AccEntry) : (k.setEntry t i j v).ctxt = k.ctxt := rfl
@[simp] theorem Core.setEntry_lmbase (k : Core) (t i j : Nat) (v : AccEntry) : (k.setEntry t i j v).lmbase = k.lmbase := rfl
@[simp] theorem Core.setEntry_coll (k : Core) (t i j : Nat) (v : AccEntry) : (k.setEntry t i j v).coll = k.coll := rfl
@[simp] theorem Core.setLatch_s (k : Core) (n : Nat) (l : Latch) : (k.setLatch n l).s = k.s := rfl
@[simp] theorem Core.setLatch_v (k : Core) (n : Nat) (l : Latch) : (k.setLatch n l).v = k.v := rfl
@[simp] theorem Core.setLatch_p (k : Core) (n : Nat) (l : Latch) : (k.setLatch n l).p = k.p := rfl
@[simp] theorem Core.setLatch_a (k : Core) (n : Nat) (l : Latch) : (k.setLatch n l).a = k.a := rfl
@[simp] theorem Core.setLatch_pc (k : Core) (n : Nat) (l : Latch) : (k.setLatch n l).pc = k.pc := rfl
@[simp] theorem Core.setLatch_st (k : Core) (n : Nat) (l : Latch) : (k.setLatch n l).st = k.st := rfl
@[simp] theorem Core.setLatch_waitk (k : Core) (n : Nat) (l : Latch) : (k.setLatch n l).waitk = k.waitk := rfl
@[simp] theorem Core.setLatch_loops (k : Core) (n : Nat) (l : Latch) : (k.setLatch n l).loops = k.loops := rfl
@[simp] theorem Core.setLatch_rptLeft (k : Core) (n : Nat) (l : Latch) : (k.setLatch n l).rptLeft = k.rptLeft := rfl
@[simp] theorem Core.setLatch_waits (k : Core) (n : Nat) (l : Latch) : (k.setLatch n l).waits = k.waits := rfl
@[simp] theorem Core.setLatch_popReq (k : Core) (n : Nat) (l : Latch) : (k.setLatch n l).popReq = k.popReq := rfl
@[simp] theorem Core.setLatch_slack (k : Core) (n : Nat) (l : Latch) : (k.setLatch n l).slack = k.slack := rfl
@[simp] theorem Core.setLatch_skew (k : Core) (n : Nat) (l : Latch) : (k.setLatch n l).skew = k.skew := rfl
@[simp] theorem Core.setLatch_bind (k : Core) (n : Nat) (l : Latch) : (k.setLatch n l).bind = k.bind := rfl
@[simp] theorem Core.setLatch_bindReq (k : Core) (n : Nat) (l : Latch) : (k.setLatch n l).bindReq = k.bindReq := rfl
@[simp] theorem Core.setLatch_flights (k : Core) (n : Nat) (l : Latch) : (k.setLatch n l).flights = k.flights := rfl
@[simp] theorem Core.setLatch_queue (k : Core) (n : Nat) (l : Latch) : (k.setLatch n l).queue = k.queue := rfl
@[simp] theorem Core.setLatch_skewOut (k : Core) (n : Nat) (l : Latch) : (k.setLatch n l).skewOut = k.skewOut := rfl
@[simp] theorem Core.setLatch_cyc (k : Core) (n : Nat) (l : Latch) : (k.setLatch n l).cyc = k.cyc := rfl
@[simp] theorem Core.setLatch_rcyc (k : Core) (n : Nat) (l : Latch) : (k.setLatch n l).rcyc = k.rcyc := rfl
@[simp] theorem Core.setLatch_holdCyc (k : Core) (n : Nat) (l : Latch) : (k.setLatch n l).holdCyc = k.holdCyc := rfl
@[simp] theorem Core.setLatch_waitCyc (k : Core) (n : Nat) (l : Latch) : (k.setLatch n l).waitCyc = k.waitCyc := rfl
@[simp] theorem Core.setLatch_lastIb (k : Core) (n : Nat) (l : Latch) : (k.setLatch n l).lastIb = k.lastIb := rfl
@[simp] theorem Core.setLatch_banks (k : Core) (n : Nat) (l : Latch) : (k.setLatch n l).banks = k.banks := rfl
@[simp] theorem Core.setLatch_outcnt (k : Core) (n : Nat) (l : Latch) : (k.setLatch n l).outcnt = k.outcnt := rfl
@[simp] theorem Core.setLatch_prods (k : Core) (n : Nat) (l : Latch) : (k.setLatch n l).prods = k.prods := rfl
@[simp] theorem Core.setLatch_failed (k : Core) (n : Nat) (l : Latch) : (k.setLatch n l).failed = k.failed := rfl
@[simp] theorem Core.setLatch_tokerr (k : Core) (n : Nat) (l : Latch) : (k.setLatch n l).tokerr = k.tokerr := rfl
@[simp] theorem Core.setLatch_team (k : Core) (n : Nat) (l : Latch) : (k.setLatch n l).team = k.team := rfl
@[simp] theorem Core.setLatch_lidq (k : Core) (n : Nat) (l : Latch) : (k.setLatch n l).lidq = k.lidq := rfl
@[simp] theorem Core.setLatch_predst (k : Core) (n : Nat) (l : Latch) : (k.setLatch n l).predst = k.predst := rfl
@[simp] theorem Core.setLatch_wswap (k : Core) (n : Nat) (l : Latch) : (k.setLatch n l).wswap = k.wswap := rfl
@[simp] theorem Core.setLatch_ctxasid (k : Core) (n : Nat) (l : Latch) : (k.setLatch n l).ctxasid = k.ctxasid := rfl
@[simp] theorem Core.setLatch_spcap (k : Core) (n : Nat) (l : Latch) : (k.setLatch n l).spcap = k.spcap := rfl
@[simp] theorem Core.setLatch_celltemp (k : Core) (n : Nat) (l : Latch) : (k.setLatch n l).celltemp = k.celltemp := rfl
@[simp] theorem Core.setLatch_fmt (k : Core) (n : Nat) (l : Latch) : (k.setLatch n l).fmt = k.fmt := rfl
@[simp] theorem Core.setLatch_vstat (k : Core) (n : Nat) (l : Latch) : (k.setLatch n l).vstat = k.vstat := rfl
@[simp] theorem Core.setLatch_sctab (k : Core) (n : Nat) (l : Latch) : (k.setLatch n l).sctab = k.sctab := rfl
@[simp] theorem Core.setLatch_swz (k : Core) (n : Nat) (l : Latch) : (k.setLatch n l).swz = k.swz := rfl
@[simp] theorem Core.setLatch_unf0 (k : Core) (n : Nat) (l : Latch) : (k.setLatch n l).unf0 = k.unf0 := rfl
@[simp] theorem Core.setLatch_unf1 (k : Core) (n : Nat) (l : Latch) : (k.setLatch n l).unf1 = k.unf1 := rfl
@[simp] theorem Core.setLatch_apx (k : Core) (n : Nat) (l : Latch) : (k.setLatch n l).apx = k.apx := rfl
@[simp] theorem Core.setLatch_apxcnt (k : Core) (n : Nat) (l : Latch) : (k.setLatch n l).apxcnt = k.apxcnt := rfl
@[simp] theorem Core.setLatch_shadow (k : Core) (n : Nat) (l : Latch) : (k.setLatch n l).shadow = k.shadow := rfl
@[simp] theorem Core.setLatch_tags (k : Core) (n : Nat) (l : Latch) : (k.setLatch n l).tags = k.tags := rfl
@[simp] theorem Core.setLatch_tagidx (k : Core) (n : Nat) (l : Latch) : (k.setLatch n l).tagidx = k.tagidx := rfl
@[simp] theorem Core.setLatch_rcache (k : Core) (n : Nat) (l : Latch) : (k.setLatch n l).rcache = k.rcache := rfl
@[simp] theorem Core.setLatch_rcidx (k : Core) (n : Nat) (l : Latch) : (k.setLatch n l).rcidx = k.rcidx := rfl
@[simp] theorem Core.setLatch_hand (k : Core) (n : Nat) (l : Latch) : (k.setLatch n l).hand = k.hand := rfl
@[simp] theorem Core.setLatch_rec (k : Core) (n : Nat) (l : Latch) : (k.setLatch n l).rec_ = k.rec_ := rfl
@[simp] theorem Core.setLatch_late (k : Core) (n : Nat) (l : Latch) : (k.setLatch n l).late = k.late := rfl
@[simp] theorem Core.setLatch_soon (k : Core) (n : Nat) (l : Latch) : (k.setLatch n l).soon = k.soon := rfl
@[simp] theorem Core.setLatch_due (k : Core) (n : Nat) (l : Latch) : (k.setLatch n l).due = k.due := rfl
@[simp] theorem Core.setLatch_dueMore (k : Core) (n : Nat) (l : Latch) : (k.setLatch n l).dueMore = k.dueMore := rfl
@[simp] theorem Core.setLatch_stopReq (k : Core) (n : Nat) (l : Latch) : (k.setLatch n l).stopReq = k.stopReq := rfl
@[simp] theorem Core.setLatch_yreq (k : Core) (n : Nat) (l : Latch) : (k.setLatch n l).yreq = k.yreq := rfl
@[simp] theorem Core.setLatch_migReq (k : Core) (n : Nat) (l : Latch) : (k.setLatch n l).migReq = k.migReq := rfl
@[simp] theorem Core.setLatch_landing (k : Core) (n : Nat) (l : Latch) : (k.setLatch n l).landing = k.landing := rfl
@[simp] theorem Core.setLatch_ycfg (k : Core) (n : Nat) (l : Latch) : (k.setLatch n l).ycfg = k.ycfg := rfl
@[simp] theorem Core.setLatch_ystat (k : Core) (n : Nat) (l : Latch) : (k.setLatch n l).ystat = k.ystat := rfl
@[simp] theorem Core.setLatch_evsel (k : Core) (n : Nat) (l : Latch) : (k.setLatch n l).evsel = k.evsel := rfl
@[simp] theorem Core.setLatch_evcnt (k : Core) (n : Nat) (l : Latch) : (k.setLatch n l).evcnt = k.evcnt := rfl
@[simp] theorem Core.setLatch_ebal (k : Core) (n : Nat) (l : Latch) : (k.setLatch n l).ebal = k.ebal := rfl
@[simp] theorem Core.setLatch_erate (k : Core) (n : Nat) (l : Latch) : (k.setLatch n l).erate = k.erate := rfl
@[simp] theorem Core.setLatch_ecost (k : Core) (n : Nat) (l : Latch) : (k.setLatch n l).ecost = k.ecost := rfl
@[simp] theorem Core.setLatch_charged (k : Core) (n : Nat) (l : Latch) : (k.setLatch n l).charged = k.charged := rfl
@[simp] theorem Core.setLatch_duties (k : Core) (n : Nat) (l : Latch) : (k.setLatch n l).duties = k.duties := rfl
@[simp] theorem Core.setLatch_duty (k : Core) (n : Nat) (l : Latch) : (k.setLatch n l).duty = k.duty := rfl
@[simp] theorem Core.setLatch_arrived (k : Core) (n : Nat) (l : Latch) : (k.setLatch n l).arrived = k.arrived := rfl
@[simp] theorem Core.setLatch_handoff (k : Core) (n : Nat) (l : Latch) : (k.setLatch n l).handoff = k.handoff := rfl
@[simp] theorem Core.setLatch_kdone (k : Core) (n : Nat) (l : Latch) : (k.setLatch n l).kdone = k.kdone := rfl
@[simp] theorem Core.setLatch_oldV (k : Core) (n : Nat) (l : Latch) : (k.setLatch n l).oldV = k.oldV := rfl
@[simp] theorem Core.setLatch_oldP (k : Core) (n : Nat) (l : Latch) : (k.setLatch n l).oldP = k.oldP := rfl
@[simp] theorem Core.setLatch_oldA (k : Core) (n : Nat) (l : Latch) : (k.setLatch n l).oldA = k.oldA := rfl
@[simp] theorem Core.setLatch_oldDone (k : Core) (n : Nat) (l : Latch) : (k.setLatch n l).oldDone = k.oldDone := rfl
@[simp] theorem Core.setLatch_matLate (k : Core) (n : Nat) (l : Latch) : (k.setLatch n l).matLate = k.matLate := rfl
@[simp] theorem Core.setLatch_replay (k : Core) (n : Nat) (l : Latch) : (k.setLatch n l).replay = k.replay := rfl
@[simp] theorem Core.setLatch_imem (k : Core) (n : Nat) (l : Latch) : (k.setLatch n l).imem = k.imem := rfl
@[simp] theorem Core.setLatch_ueImem (k : Core) (n : Nat) (l : Latch) : (k.setLatch n l).ueImem = k.ueImem := rfl
@[simp] theorem Core.setLatch_ceImem (k : Core) (n : Nat) (l : Latch) : (k.setLatch n l).ceImem = k.ceImem := rfl
@[simp] theorem Core.setLatch_ueTags (k : Core) (n : Nat) (l : Latch) : (k.setLatch n l).ueTags = k.ueTags := rfl
@[simp] theorem Core.setLatch_ceTags (k : Core) (n : Nat) (l : Latch) : (k.setLatch n l).ceTags = k.ceTags := rfl
@[simp] theorem Core.setLatch_ueSnap (k : Core) (n : Nat) (l : Latch) : (k.setLatch n l).ueSnap = k.ueSnap := rfl
@[simp] theorem Core.setLatch_ceSnap (k : Core) (n : Nat) (l : Latch) : (k.setLatch n l).ceSnap = k.ceSnap := rfl
@[simp] theorem Core.setLatch_ctxt (k : Core) (n : Nat) (l : Latch) : (k.setLatch n l).ctxt = k.ctxt := rfl
@[simp] theorem Core.setLatch_lmbase (k : Core) (n : Nat) (l : Latch) : (k.setLatch n l).lmbase = k.lmbase := rfl
@[simp] theorem Core.setLatch_coll (k : Core) (n : Nat) (l : Latch) : (k.setLatch n l).coll = k.coll := rfl
@[simp] theorem Core.addLate_s (k : Core) (x : Cause) : (k.addLate x).s = k.s := rfl
@[simp] theorem Core.addLate_v (k : Core) (x : Cause) : (k.addLate x).v = k.v := rfl
@[simp] theorem Core.addLate_p (k : Core) (x : Cause) : (k.addLate x).p = k.p := rfl
@[simp] theorem Core.addLate_a (k : Core) (x : Cause) : (k.addLate x).a = k.a := rfl
@[simp] theorem Core.addLate_pc (k : Core) (x : Cause) : (k.addLate x).pc = k.pc := rfl
@[simp] theorem Core.addLate_st (k : Core) (x : Cause) : (k.addLate x).st = k.st := rfl
@[simp] theorem Core.addLate_waitk (k : Core) (x : Cause) : (k.addLate x).waitk = k.waitk := rfl
@[simp] theorem Core.addLate_loops (k : Core) (x : Cause) : (k.addLate x).loops = k.loops := rfl
@[simp] theorem Core.addLate_rptLeft (k : Core) (x : Cause) : (k.addLate x).rptLeft = k.rptLeft := rfl
@[simp] theorem Core.addLate_latches (k : Core) (x : Cause) : (k.addLate x).latches = k.latches := rfl
@[simp] theorem Core.addLate_waits (k : Core) (x : Cause) : (k.addLate x).waits = k.waits := rfl
@[simp] theorem Core.addLate_popReq (k : Core) (x : Cause) : (k.addLate x).popReq = k.popReq := rfl
@[simp] theorem Core.addLate_slack (k : Core) (x : Cause) : (k.addLate x).slack = k.slack := rfl
@[simp] theorem Core.addLate_skew (k : Core) (x : Cause) : (k.addLate x).skew = k.skew := rfl
@[simp] theorem Core.addLate_bind (k : Core) (x : Cause) : (k.addLate x).bind = k.bind := rfl
@[simp] theorem Core.addLate_bindReq (k : Core) (x : Cause) : (k.addLate x).bindReq = k.bindReq := rfl
@[simp] theorem Core.addLate_flights (k : Core) (x : Cause) : (k.addLate x).flights = k.flights := rfl
@[simp] theorem Core.addLate_queue (k : Core) (x : Cause) : (k.addLate x).queue = k.queue := rfl
@[simp] theorem Core.addLate_skewOut (k : Core) (x : Cause) : (k.addLate x).skewOut = k.skewOut := rfl
@[simp] theorem Core.addLate_cyc (k : Core) (x : Cause) : (k.addLate x).cyc = k.cyc := rfl
@[simp] theorem Core.addLate_rcyc (k : Core) (x : Cause) : (k.addLate x).rcyc = k.rcyc := rfl
@[simp] theorem Core.addLate_holdCyc (k : Core) (x : Cause) : (k.addLate x).holdCyc = k.holdCyc := rfl
@[simp] theorem Core.addLate_waitCyc (k : Core) (x : Cause) : (k.addLate x).waitCyc = k.waitCyc := rfl
@[simp] theorem Core.addLate_lastIb (k : Core) (x : Cause) : (k.addLate x).lastIb = k.lastIb := rfl
@[simp] theorem Core.addLate_banks (k : Core) (x : Cause) : (k.addLate x).banks = k.banks := rfl
@[simp] theorem Core.addLate_outcnt (k : Core) (x : Cause) : (k.addLate x).outcnt = k.outcnt := rfl
@[simp] theorem Core.addLate_prods (k : Core) (x : Cause) : (k.addLate x).prods = k.prods := rfl
@[simp] theorem Core.addLate_failed (k : Core) (x : Cause) : (k.addLate x).failed = k.failed := rfl
@[simp] theorem Core.addLate_tokerr (k : Core) (x : Cause) : (k.addLate x).tokerr = k.tokerr := rfl
@[simp] theorem Core.addLate_team (k : Core) (x : Cause) : (k.addLate x).team = k.team := rfl
@[simp] theorem Core.addLate_lidq (k : Core) (x : Cause) : (k.addLate x).lidq = k.lidq := rfl
@[simp] theorem Core.addLate_predst (k : Core) (x : Cause) : (k.addLate x).predst = k.predst := rfl
@[simp] theorem Core.addLate_wswap (k : Core) (x : Cause) : (k.addLate x).wswap = k.wswap := rfl
@[simp] theorem Core.addLate_ctxasid (k : Core) (x : Cause) : (k.addLate x).ctxasid = k.ctxasid := rfl
@[simp] theorem Core.addLate_spcap (k : Core) (x : Cause) : (k.addLate x).spcap = k.spcap := rfl
@[simp] theorem Core.addLate_celltemp (k : Core) (x : Cause) : (k.addLate x).celltemp = k.celltemp := rfl
@[simp] theorem Core.addLate_fmt (k : Core) (x : Cause) : (k.addLate x).fmt = k.fmt := rfl
@[simp] theorem Core.addLate_vstat (k : Core) (x : Cause) : (k.addLate x).vstat = k.vstat := rfl
@[simp] theorem Core.addLate_sctab (k : Core) (x : Cause) : (k.addLate x).sctab = k.sctab := rfl
@[simp] theorem Core.addLate_swz (k : Core) (x : Cause) : (k.addLate x).swz = k.swz := rfl
@[simp] theorem Core.addLate_unf0 (k : Core) (x : Cause) : (k.addLate x).unf0 = k.unf0 := rfl
@[simp] theorem Core.addLate_unf1 (k : Core) (x : Cause) : (k.addLate x).unf1 = k.unf1 := rfl
@[simp] theorem Core.addLate_apx (k : Core) (x : Cause) : (k.addLate x).apx = k.apx := rfl
@[simp] theorem Core.addLate_apxcnt (k : Core) (x : Cause) : (k.addLate x).apxcnt = k.apxcnt := rfl
@[simp] theorem Core.addLate_shadow (k : Core) (x : Cause) : (k.addLate x).shadow = k.shadow := rfl
@[simp] theorem Core.addLate_tags (k : Core) (x : Cause) : (k.addLate x).tags = k.tags := rfl
@[simp] theorem Core.addLate_tagidx (k : Core) (x : Cause) : (k.addLate x).tagidx = k.tagidx := rfl
@[simp] theorem Core.addLate_rcache (k : Core) (x : Cause) : (k.addLate x).rcache = k.rcache := rfl
@[simp] theorem Core.addLate_rcidx (k : Core) (x : Cause) : (k.addLate x).rcidx = k.rcidx := rfl
@[simp] theorem Core.addLate_hand (k : Core) (x : Cause) : (k.addLate x).hand = k.hand := rfl
@[simp] theorem Core.addLate_rec (k : Core) (x : Cause) : (k.addLate x).rec_ = k.rec_ := rfl
@[simp] theorem Core.addLate_soon (k : Core) (x : Cause) : (k.addLate x).soon = k.soon := rfl
@[simp] theorem Core.addLate_due (k : Core) (x : Cause) : (k.addLate x).due = k.due := rfl
@[simp] theorem Core.addLate_dueMore (k : Core) (x : Cause) : (k.addLate x).dueMore = k.dueMore := rfl
@[simp] theorem Core.addLate_stopReq (k : Core) (x : Cause) : (k.addLate x).stopReq = k.stopReq := rfl
@[simp] theorem Core.addLate_yreq (k : Core) (x : Cause) : (k.addLate x).yreq = k.yreq := rfl
@[simp] theorem Core.addLate_migReq (k : Core) (x : Cause) : (k.addLate x).migReq = k.migReq := rfl
@[simp] theorem Core.addLate_landing (k : Core) (x : Cause) : (k.addLate x).landing = k.landing := rfl
@[simp] theorem Core.addLate_ycfg (k : Core) (x : Cause) : (k.addLate x).ycfg = k.ycfg := rfl
@[simp] theorem Core.addLate_ystat (k : Core) (x : Cause) : (k.addLate x).ystat = k.ystat := rfl
@[simp] theorem Core.addLate_evsel (k : Core) (x : Cause) : (k.addLate x).evsel = k.evsel := rfl
@[simp] theorem Core.addLate_evcnt (k : Core) (x : Cause) : (k.addLate x).evcnt = k.evcnt := rfl
@[simp] theorem Core.addLate_ebal (k : Core) (x : Cause) : (k.addLate x).ebal = k.ebal := rfl
@[simp] theorem Core.addLate_erate (k : Core) (x : Cause) : (k.addLate x).erate = k.erate := rfl
@[simp] theorem Core.addLate_ecost (k : Core) (x : Cause) : (k.addLate x).ecost = k.ecost := rfl
@[simp] theorem Core.addLate_charged (k : Core) (x : Cause) : (k.addLate x).charged = k.charged := rfl
@[simp] theorem Core.addLate_duties (k : Core) (x : Cause) : (k.addLate x).duties = k.duties := rfl
@[simp] theorem Core.addLate_duty (k : Core) (x : Cause) : (k.addLate x).duty = k.duty := rfl
@[simp] theorem Core.addLate_arrived (k : Core) (x : Cause) : (k.addLate x).arrived = k.arrived := rfl
@[simp] theorem Core.addLate_handoff (k : Core) (x : Cause) : (k.addLate x).handoff = k.handoff := rfl
@[simp] theorem Core.addLate_kdone (k : Core) (x : Cause) : (k.addLate x).kdone = k.kdone := rfl
@[simp] theorem Core.addLate_oldV (k : Core) (x : Cause) : (k.addLate x).oldV = k.oldV := rfl
@[simp] theorem Core.addLate_oldP (k : Core) (x : Cause) : (k.addLate x).oldP = k.oldP := rfl
@[simp] theorem Core.addLate_oldA (k : Core) (x : Cause) : (k.addLate x).oldA = k.oldA := rfl
@[simp] theorem Core.addLate_oldDone (k : Core) (x : Cause) : (k.addLate x).oldDone = k.oldDone := rfl
@[simp] theorem Core.addLate_matLate (k : Core) (x : Cause) : (k.addLate x).matLate = k.matLate := rfl
@[simp] theorem Core.addLate_replay (k : Core) (x : Cause) : (k.addLate x).replay = k.replay := rfl
@[simp] theorem Core.addLate_imem (k : Core) (x : Cause) : (k.addLate x).imem = k.imem := rfl
@[simp] theorem Core.addLate_ueImem (k : Core) (x : Cause) : (k.addLate x).ueImem = k.ueImem := rfl
@[simp] theorem Core.addLate_ceImem (k : Core) (x : Cause) : (k.addLate x).ceImem = k.ceImem := rfl
@[simp] theorem Core.addLate_ueTags (k : Core) (x : Cause) : (k.addLate x).ueTags = k.ueTags := rfl
@[simp] theorem Core.addLate_ceTags (k : Core) (x : Cause) : (k.addLate x).ceTags = k.ceTags := rfl
@[simp] theorem Core.addLate_ueSnap (k : Core) (x : Cause) : (k.addLate x).ueSnap = k.ueSnap := rfl
@[simp] theorem Core.addLate_ceSnap (k : Core) (x : Cause) : (k.addLate x).ceSnap = k.ceSnap := rfl
@[simp] theorem Core.addLate_ctxt (k : Core) (x : Cause) : (k.addLate x).ctxt = k.ctxt := rfl
@[simp] theorem Core.addLate_lmbase (k : Core) (x : Cause) : (k.addLate x).lmbase = k.lmbase := rfl
@[simp] theorem Core.addLate_coll (k : Core) (x : Cause) : (k.addLate x).coll = k.coll := rfl

/-! ## Reading after writing -/

@[simp] theorem State.core_setCore_same (s : State) (c : Nat) (k : Core) : (s.setCore c k).core c = k := mapGet_mapSet_same _ _ _ _

theorem State.core_setCore_ne (s : State) (c d : Nat) (k : Core) (hd : d ≠ c) : (s.setCore c k).core d = s.core d :=
  mapGet_mapSet_ne _ _ _ _ _ hd

@[simp] theorem State.core_modCore_same (s : State) (c : Nat) (f : Core → Core) : (s.modCore c f).core c = f (s.core c) :=
  State.core_setCore_same s c _

theorem State.core_modCore_ne (s : State) (c d : Nat) (f : Core → Core) (hd : d ≠ c) : (s.modCore c f).core d = s.core d :=
  State.core_setCore_ne s c d _ hd

/-- A change of one core keeps the cores in their canonical form. -/
theorem State.modCore_coresWf (s : State) (c : Nat) (f : Core → Core) (h : mapWf Core.reset s.cores = true) :
    mapWf Core.reset (s.modCore c f).cores = true := mapSet_wf _ _ _ _ h

@[simp] theorem Core.reg_zero (k : Core) : k.reg 0 = 0 := rfl

@[simp] theorem Core.setReg_zero (k : Core) (v : Word) : k.setReg 0 v = k := rfl

theorem Core.reg_setReg_same (k : Core) (r : Nat) (v : Word) (hr : r ≠ 0) : (k.setReg r v).reg r = v := by
  unfold Core.reg Core.setReg
  rw [if_neg hr, if_neg hr]
  exact mapGet_mapSet_same _ _ _ _

theorem Core.reg_setReg_ne (k : Core) (r q : Nat) (v : Word) (hq : q ≠ r) : (k.setReg r v).reg q = k.reg q := by
  unfold Core.setReg
  split
  · rfl
  · unfold Core.reg
    split
    · rfl
    · exact mapGet_mapSet_ne _ _ _ _ _ hq

@[simp] theorem Core.pred_zero (k : Core) : k.pred 0 = BitVec.allOnes 128 := rfl

@[simp] theorem Core.setPred_zero (k : Core) (v : Pred) : k.setPred 0 v = k := rfl

theorem Core.pred_setPred_same (k : Core) (r : Nat) (v : Pred) (hr : r ≠ 0) : (k.setPred r v).pred r = v := by
  unfold Core.pred Core.setPred
  rw [if_neg hr, if_neg hr]
  exact mapGet_mapSet_same _ _ _ _

theorem Core.pred_setPred_ne (k : Core) (r q : Nat) (v : Pred) (hq : q ≠ r) : (k.setPred r v).pred q = k.pred q := by
  unfold Core.setPred
  split
  · rfl
  · unfold Core.pred
    split
    · rfl
    · exact mapGet_mapSet_ne _ _ _ _ _ hq

@[simp] theorem Core.lane_setLane_same (k : Core) (r l : Nat) (v : Lane) : (k.setLane r l v).lane r l = v :=
  mapGet_mapSet_same _ _ _ _

theorem Core.lane_setLane_ne (k : Core) (r l q m : Nat) (v : Lane) (hd : 128 * q + m ≠ 128 * r + l) :
    (k.setLane r l v).lane q m = k.lane q m := mapGet_mapSet_ne _ _ _ _ _ hd

@[simp] theorem Core.latch_setLatch_same (k : Core) (n : Nat) (l : Latch) : (k.setLatch n l).latch n = l := mapGet_mapSet_same _ _ _ _

theorem Core.latch_setLatch_ne (k : Core) (n m : Nat) (l : Latch) (h : m ≠ n) : (k.setLatch n l).latch m = k.latch m :=
  mapGet_mapSet_ne _ _ _ _ _ h

@[simp] theorem State.home_setHome_same (s : State) (a : Nat) (b : Byte) : (s.setHome a b).home a = b := mapGet_mapSet_same _ _ _ _

/-- A write of one byte leaves every byte alone whose home is another. -/
theorem State.home_setHome_ne (s : State) (a c : Nat) (b : Byte) (h : canonical c ≠ canonical a) : (s.setHome a b).home c = s.home c :=
  mapGet_mapSet_ne _ _ _ _ _ h

end Sys2Proof.Machine
end

