-- ==== Sys2Proof/Laws/Memory.lean ====
section
/-!
SUPPORT. Laws/Memory.lean: every operation that writes memory keeps its canonical form, and what a read gives after it.
-/
namespace Sys2Proof.Machine

/-! ## The canonical form -/

theorem State.setHome_wf (s : State) (a : Nat) (b : Byte) (h : mapWf 0 s.mem = true) : mapWf 0 (s.setHome a b).mem = true :=
  mapSet_wf _ _ _ _ h

theorem State.setHomes_wf (s : State) (l : List (Nat × Byte)) (h : mapWf 0 s.mem = true) : mapWf 0 (s.setHomes l).mem = true := by
  unfold State.setHomes
  induction l generalizing s with
  | nil => exact h
  | cons p l ih => exact ih _ (s.setHome_wf p.1 p.2 h)

theorem State.setHomeNat_wf (s : State) (pa n x : Nat) (h : mapWf 0 s.mem = true) : mapWf 0 (s.setHomeNat pa n x).mem = true :=
  s.setHomes_wf _ h

theorem State.zeroRun_wf (s : State) (pa n : Nat) (h : mapWf 0 s.mem = true) : mapWf 0 (s.zeroRun pa n).mem = true :=
  filter_wf 0 s.mem _ h

theorem State.setKeyedBlock_wf (s : State) (k : Nat) (l : List (Nat × Byte)) (b : Nat) (h : mapWf 0 s.mem = true) :
    mapWf 0 (s.setKeyedBlock k l b).mem = true := s.setHomes_wf _ h

theorem State.putHome_wf (s : State) (key : Option Nat) (l : List (Nat × Byte)) (h : mapWf 0 s.mem = true) :
    mapWf 0 (s.putHome key l).mem = true := by
  unfold State.putHome
  split
  · exact s.setHomes_wf l h
  · next k =>
    generalize blocksOf l = bs
    induction bs generalizing s with
    | nil => exact h
    | cons b bs ih =>
      rw [List.foldl_cons]
      exact ih (s.setKeyedBlock k l b) (s.setKeyedBlock_wf k l b h)

theorem State.writeRun_wf (s : State) (pa n : Nat) (l : List (Nat × Byte)) (key : Option Nat) (h : mapWf 0 s.mem = true) :
    mapWf 0 (s.writeRun pa n l key).mem = true := by
  unfold State.writeRun
  split
  · exact State.setHomes_wf _ _ (s.zeroRun_wf pa n h)
  · exact State.putHome_wf _ _ _ (s.zeroRun_wf pa n h)

theorem State.storePlain_wf (s : State) (pa n x : Nat) (h : mapWf 0 s.mem = true) : mapWf 0 (s.storePlain pa n x).mem = true :=
  s.setHomeNat_wf pa n x h

theorem State.countDie_mem (s : State) (die src n : Nat) : (s.countDie die src n).mem = s.mem := by
  unfold State.countDie
  split <;> rfl

theorem State.count_mem (s : State) (c src n : Nat) : (s.count c src n).mem = s.mem := by
  unfold State.count
  split
  · rfl
  · rw [State.countDie_mem]
    rfl

/-- Corrected errors leave memory as it reads (R95). -/
theorem State.correct_mem (s : State) (c : Nat) (l : List Nat) : (s.correct c l).mem = s.mem := by
  unfold State.correct
  split
  · rfl
  · exact s.count_mem c 0x15 l.length

theorem State.scrub_mem (s : State) (pa n : Nat) : (s.scrub pa n).mem = s.mem := s.correct_mem _ _

theorem State.scrubAll_mem (s : State) (l : List (Nat × Nat)) : (s.scrubAll l).mem = s.mem := by
  have h : ∀ (l : List (Nat × Nat)) (s : State), (l.foldl (fun s p => s.scrub p.1 p.2) s).mem = s.mem := by
    intro l
    induction l with
    | nil => intro s; rfl
    | cons p l ih => intro s; exact (ih _).trans (s.scrub_mem p.1 p.2)
  unfold State.scrubAll
  split
  · rfl
  · exact h l s

theorem State.rewrite_mem (s : State) (l : List (Nat × Byte)) : (s.rewrite l).mem = s.mem := by
  unfold State.rewrite
  split
  · rfl
  · exact State.scrubAll_mem _ _

theorem State.stokerWrite_wf (s : State) (stk pa n x : Nat) (h : mapWf 0 s.mem = true) :
    mapWf 0 (s.stokerWrite stk pa n x).mem = true := by
  unfold State.stokerWrite
  split
  · exact h
  · exact State.storePlain_wf _ pa n x (by rw [s.rewrite_mem]; exact h)

/-! ## What a memory operation changes: memory alone -/

/-- A run of bytes written changes memory and nothing else. -/
theorem State.setHomes_only (s : State) (l : List (Nat × Byte)) : s.setHomes l = { s with mem := (s.setHomes l).mem } := by
  unfold State.setHomes
  induction l generalizing s with
  | nil => rfl
  | cons p l ih => exact ih (s.setHome p.1 p.2)

/-- A store at home changes memory and its error marks alone. -/
theorem State.storePlain_only (s : State) (pa n x : Nat) :
    s.storePlain pa n x = { s with mem := (s.storePlain pa n x).mem, ueMem := (s.storePlain pa n x).ueMem } := by
  unfold State.storePlain State.setHomeNat
  rw [s.setHomes_only]

theorem State.putHome_only (s : State) (key : Option Nat) (l : List (Nat × Byte)) :
    s.putHome key l = { s with mem := (s.putHome key l).mem } := by
  unfold State.putHome
  split
  · exact s.setHomes_only l
  · next k =>
    generalize blocksOf l = bs
    induction bs generalizing s with
    | nil => rfl
    | cons b bs ih =>
      have h := ih (s.setKeyedBlock k l b)
      have g : s.setKeyedBlock k l b = { s with mem := (s.setKeyedBlock k l b).mem } := s.setHomes_only _
      rw [List.foldl_cons]
      exact h.trans (by rw [g])

/-! ## What a read gives after a write -/

/-- A byte whose home none of the written bytes names reads as before. -/
theorem State.home_setHomes_ne (s : State) (l : List (Nat × Byte)) (a : Nat) (h : ∀ p ∈ l, canonical a ≠ canonical p.1) :
    (s.setHomes l).home a = s.home a := by
  unfold State.setHomes
  induction l generalizing s with
  | nil => rfl
  | cons p l ih =>
    rw [List.foldl_cons, ih _ (fun q hq => h q (List.mem_cons_of_mem _ hq))]
    exact State.home_setHome_ne _ _ _ _ (h p List.mem_cons_self)

/-- A byte whose home a written byte names, and none after it, reads as that one. -/
theorem State.home_setHomes_mem (s : State) (l r : List (Nat × Byte)) (p : Nat × Byte) (a : Nat) (ha : canonical a = canonical p.1)
    (h : ∀ q ∈ r, canonical a ≠ canonical q.1) : (s.setHomes (l ++ p :: r)).home a = p.2 := by
  have e : s.setHomes (l ++ p :: r) = (((s.setHomes l).setHome p.1 p.2).setHomes r) := by
    unfold State.setHomes
    rw [List.foldl_append]
    rfl
  rw [e, State.home_setHomes_ne _ _ _ h]
  unfold State.home
  rw [ha]
  exact State.home_setHome_same _ _ _

/-- A zeroed run reads zero. -/
theorem State.home_zeroRun (s : State) (pa n a : Nat) :
    (s.zeroRun pa n).home a = if inRun pa n (canonical a) then 0 else s.home a := by
  have h := mapGet_filter (0 : Byte) s.mem (fun k => !inRun pa n k) (canonical a)
  refine h.trans ?_
  cases inRun pa n (canonical a) <;> rfl

end Sys2Proof.Machine
end

