-- ==== Sys2Proof/Laws/Ops.lean ====
section
/-!
SUPPORT. Laws/Ops.lean: for each shared operation, what it can do: the checks at issue, results that join those in flight, latches,
transfers of control, event counters, stops and the return from a handler.
-/
namespace Sys2Proof.Machine

/-! ## Checks at issue -/

/-- An instruction behind its checks runs, or stops its core with the trap that a failed one names; nothing else. -/
theorem State.guarded_cases (s : State) (i : Instr) (check : Option Trap) (k : State → State) :
    (s.guarded i check k = .next (k s) ∧ (s.ctx.checked = true ∨ check = none))
    ∨ ∃ t, check = some t ∧ s.ctx.checked = false ∧ s.guarded i check k = .next (s.stopAtIssue (s.issueCause i t)) := by
  unfold State.guarded
  split
  · next h => exact .inl ⟨rfl, .inl h⟩
  · next h =>
    cases check with
    | none => exact .inl ⟨rfl, .inr rfl⟩
    | some t => exact .inr ⟨t, rfl, by simpa using h, rfl⟩

theorem State.guarded_none (s : State) (i : Instr) (k : State → State) : s.guarded i none k = .next (k s) := by
  unfold State.guarded
  split <;> rfl

theorem State.guarded_checked (s : State) (i : Instr) (check : Option Trap) (k : State → State) (h : s.ctx.checked = true) :
    s.guarded i check k = .next (k s) := by
  unfold State.guarded
  rw [if_pos h]

theorem State.guarded_some (s : State) (i : Instr) (t : Trap) (k : State → State) (h : s.ctx.checked = false) :
    s.guarded i (some t) k = .next (s.stopAtIssue (s.issueCause i t)) := by
  unfold State.guarded
  rw [if_neg (by simp [h])]

/-! ## Results in flight -/

/-- A result that joins those in flight changes that list of one core and the issue number, and nothing else. -/
theorem State.launch_only (s : State) (c : Nat) (f : Flight) :
    s.launch c f = { s with cores := (s.launch c f).cores, seq := s.seq + 1 } := rfl

@[simp] theorem State.launch_core_same (s : State) (c : Nat) (f : Flight) :
    (s.launch c f).core c = { s.core c with flights := (s.core c).flights ++ [f] } := State.core_setCore_same s c _

theorem State.launch_core_ne (s : State) (c d : Nat) (f : Flight) (h : d ≠ c) : (s.launch c f).core d = s.core d :=
  State.core_setCore_ne s c d _ h

@[simp] theorem State.launch_home (s : State) (c : Nat) (f : Flight) (a : Nat) : (s.launch c f).home a = s.home a := rfl

/-- A scalar result of the executing instruction: the flight that joins. -/
theorem State.scalarResult_flights (s : State) (i : Instr) (d : BitVec 6) (rem : Nat) (v : Word) :
    ((s.scalarResult i d rem v).core s.ctx.cid).flights
      = (s.core s.ctx.cid).flights ++ [{ s.newFlight i 3 (.scalar d.toNat) rem with sval := v }] := by
  unfold State.scalarResult
  rw [State.launch_core_same]

theorem State.scalarPending_flights (s : State) (i : Instr) (d : BitVec 6) (rem : Nat) (v : Word) :
    ((s.scalarPending i d rem v).core s.ctx.cid).flights
      = (s.core s.ctx.cid).flights ++ [{ s.newFlight i 3 (.scalar d.toNat) rem with sval := v, sb := true }] := by
  unfold State.scalarPending
  rw [State.launch_core_same]

/-! ## Latches and transfers of control -/

/-- The latch of the executing slot takes the operation at the execution that encodes it, and only then. -/
theorem State.latchOp_cases (s : State) (i : Instr) (addr k0 row0 : Nat) :
    (s.ctx.reissue = true ∧ s.latchOp i addr k0 row0 = s)
    ∨ (s.ctx.reissue = false ∧ s.latchOp i addr k0 row0 = s.modCur (fun k => k.setLatch s.ctx.slot ⟨some i, addr, k0, row0⟩)) := by
  unfold State.latchOp
  cases h : s.ctx.reissue
  · exact .inr ⟨rfl, rfl⟩
  · exact .inl ⟨rfl, rfl⟩

@[simp] theorem State.latchOp_home (s : State) (i : Instr) (addr k0 row0 a : Nat) : (s.latchOp i addr k0 row0).home a = s.home a := by
  unfold State.latchOp
  split <;> rfl

@[simp] theorem State.latchOp_ctx (s : State) (i : Instr) (addr k0 row0 : Nat) : (s.latchOp i addr k0 row0).ctx = s.ctx := by
  unfold State.latchOp
  split <;> rfl

@[simp] theorem State.latchOp_seq (s : State) (i : Instr) (addr k0 row0 : Nat) : (s.latchOp i addr k0 row0).seq = s.seq := by
  unfold State.latchOp
  split <;> rfl

theorem State.latchOp_core_ne (s : State) (i : Instr) (addr k0 row0 d : Nat) (h : d ≠ s.ctx.cid) :
    (s.latchOp i addr k0 row0).core d = s.core d := by
  unfold State.latchOp
  split
  · rfl
  · exact State.core_setCore_ne s _ d _ h

/-- A latch set changes the core's latches alone. -/
theorem State.latchOp_core_same (s : State) (i : Instr) (addr k0 row0 : Nat) :
    (s.latchOp i addr k0 row0).core s.ctx.cid
      = { s.core s.ctx.cid with latches := ((s.latchOp i addr k0 row0).core s.ctx.cid).latches } := by
  unfold State.latchOp
  split
  · rfl
  · unfold State.modCur State.modCore
    rw [State.core_setCore_same]
    rfl

/-- A transfer of control changes the pc and the remaining count of the executing core, and the bundle's own advance. -/
theorem State.jump_core_same (s : State) (n : Nat) :
    (s.jump n).core s.ctx.cid = { s.core s.ctx.cid with pc := n % 2 ^ 16, rptLeft := 0 } :=
  State.core_setCore_same s _ _

theorem State.jump_core_ne (s : State) (n d : Nat) (h : d ≠ s.ctx.cid) : (s.jump n).core d = s.core d :=
  State.core_setCore_ne s _ d _ h

@[simp] theorem State.jump_owed (s : State) (n : Nat) : (s.jump n).owed = { s.owed with advance := false } := rfl

@[simp] theorem State.jump_home (s : State) (n a : Nat) : (s.jump n).home a = s.home a := rfl

/-! ## Event counters -/

/-- Counting changes the event counters of a core alone. -/
theorem Core.bump_only (k : Core) (src n : Nat) : k.bump src n = { k with evsel := (k.bump src n).evsel, evcnt := (k.bump src n).evcnt } := by
  unfold Core.bump
  split
  · rfl
  · generalize List.range 8 = l
    induction l generalizing k with
    | nil => rfl
    | cons i l ih =>
      rw [List.foldl_cons]
      exact (ih (Core.bumpOne src n k i)).trans rfl

@[simp] theorem State.countDie_core (s : State) (d src n c : Nat) : (s.countDie d src n).core c = s.core c := by
  unfold State.countDie
  split <;> rfl

@[simp] theorem State.countDie_home (s : State) (d src n a : Nat) : (s.countDie d src n).home a = s.home a := by
  unfold State.countDie
  split <;> rfl

@[simp] theorem State.count_home (s : State) (c src n a : Nat) : (s.count c src n).home a = s.home a := by
  unfold State.count
  split
  · rfl
  · rw [State.countDie_home]
    rfl

theorem State.count_core_ne (s : State) (c src n d : Nat) (h : d ≠ c) : (s.count c src n).core d = s.core d := by
  unfold State.count
  split
  · rfl
  · rw [State.countDie_core]
    exact State.core_setCore_ne s c d _ h

/-- What counting leaves of the core itself: everything but its event counters. -/
theorem State.count_core_same (s : State) (c src n : Nat) :
    (s.count c src n).core c = { s.core c with evsel := ((s.count c src n).core c).evsel, evcnt := ((s.count c src n).core c).evcnt } := by
  unfold State.count
  split
  · rfl
  · rw [State.countDie_core]
    unfold State.modCore
    rw [State.core_setCore_same]
    exact Core.bump_only _ _ _

theorem State.count_sched (s : State) (c src n : Nat) : (s.count c src n).sched = s.sched := by
  unfold State.count State.countDie
  split
  · rfl
  · split <;> rfl

/-! ## Stops and the user handler -/

/-- A stop lands in one of three ways: on a stoker, in the user handler, or in STATE 5. -/
theorem State.landStop_core (s : State) (c : Nat) (x : Cause) (more : Nat) (forced : Bool) :
    ((s.landStop c x more forced).core c).st = .stopped ∧ ((s.landStop c x more forced).core c).late = []
    ∨ ((s.landStop c x more forced).core c).st = .run ∧ ((s.landStop c x more forced).core c).late = []
      ∧ isStoker c = false ∧ forced = false := by
  have hs (t : State) (k : Core) : (t.setCore c k).core c = k := State.core_setCore_same t c k
  have hf (t : State) (g : Firm) : ({ t with firm := g } : State).core c = t.core c := rfl
  have ht (t : State) (g : Team → Team) (id : Nat) : (t.modTeam id g).core c = t.core c := rfl
  unfold State.landStop
  simp only []
  split
  · left
    rw [hf, State.modCore, hs]
    exact ⟨rfl, rfl⟩
  · next hk =>
    split
    · next hh =>
      right
      simp only [Bool.and_eq_true, Bool.not_eq_true'] at hh
      rw [State.modCore, hs]
      exact ⟨rfl, rfl, by simpa using hk, hh.1⟩
    · left
      split
      · rw [State.modCore, hs]
        exact ⟨rfl, rfl⟩
      · split
        · rw [ht, State.modCore, hs]
          exact ⟨rfl, rfl⟩
        · rw [State.modCore, hs]
          exact ⟨rfl, rfl⟩

/-- ERET's effect on the core: pc, count, latches and wait state come back, and the held entries replay (R212). -/
theorem Core.leaveHandler_pc (k : Core) : k.leaveHandler.pc = field k.hand.epc 15 0 := rfl
theorem Core.leaveHandler_latches (k : Core) : k.leaveHandler.latches = k.hand.shadow := rfl
theorem Core.leaveHandler_flights (k : Core) : k.leaveHandler.flights = k.hand.held.map (Flight.replay k.handlerCycles) ++ k.flights := rfl

/-- Taking the handler saves what ERET restores (R211). -/
theorem Core.enterHandler_shadow (k : Core) (r : FaultRec) (n : Nat) : (k.enterHandler r n).hand.shadow = k.latches := rfl
theorem Core.enterHandler_pc (k : Core) (r : FaultRec) (n : Nat) : (k.enterHandler r n).pc = field k.hand.hvec 15 0 := rfl
theorem Core.enterHandler_waits (k : Core) (r : FaultRec) (n : Nat) : (k.enterHandler r n).hand.waits = k.waits := rfl

end Sys2Proof.Machine
end

