-- ==== Sys2Proof/Tests/Slice0.lean ====
section
/-!
SUPPORT. Tests/Slice0.lean: tests of encodings, well-formedness and single steps, and witnesses of the hypotheses of the statements.
-/
namespace Sys2Proof.Tests
open Sys2Proof Sys2Proof.Machine

/-! ## Payload words that the reference entries write out (R316 to R442) -/

/-- CTL: R320, R324, R330, R331, R334, R375, R378, R398, R434. -/
theorem test_decode_ctl :
    decode .c32 0x02842400 = .ok (.bri 2 4 9) ∧ decode .c32 0x0F400000 = .ok (.bar 2) ∧ decode .c32 0x11051800 = .ok (.ctxs 5 6)
    ∧ decode .c32 0x12051800 = .ok (.ctxr 5 6) ∧ decode .c32 0x0E8C0000 = .ok (.drain 4 3) ∧ decode .c32 0x10140000 = .ok (.release 20)
    ∧ decode .c32 0x043F0000 = .ok (.ret 63) ∧ decode .c32 0x0C00002A = .ok (.trap 0x2A)
    ∧ decode .c32 0x08FF0F00 = .ok (.wait 15 15 0 15) := by decide

/-- SA and SB, arithmetic and logic: R327, R332, R337, R356, R363, R367, R370, R371, R377, R383, R385, R394, R439. -/
theorem test_decode_scalar :
    decode .s32 0x0E0E4814 = .ok (.clz 7 9 10) ∧ decode .s32 0x0F0E481E = .ok (.popc 7 9 15) ∧ decode .s32 0x052EA30C = .ok (.div 23 20 24 6)
    ∧ decode .s32 0x062EA30C = .ok (.rem 23 20 24 6) ∧ decode .s32 0x168E4987 = .ok (.ext 7 9 12 7)
    ∧ decode .s32 0x178E4D03 = .ok (.ins 7 9 40 3) ∧ decode .s32 0x118627F9 = .ok (.maxSi 3 4 0x7F9)
    ∧ decode .s32 0x100620B4 = .ok (.minSr 3 4 5 10) ∧ decode .s32 0x158A4567 = .ok (.movh 5 0x4567)
    ∧ decode .s32 0x030A188C = .ok (.mulSr 5 3 4 6) ∧ decode .s32 0x080A189E = .ok (.orSr 5 3 4 15)
    ∧ decode .s32 0x130A1886 = .ok (.sel 5 3 4 6) ∧ decode .s32 0x0B8A1804 = .ok (.shlSi 5 3 4)
    ∧ decode .s32 0x020A188C = .ok (.subSr 5 3 4 6) ∧ decode .s32 0x028A1801 = .ok (.subSi 5 3 1)
    ∧ decode .s32 0x090A189E = .ok (.xorSr 5 3 4 15) ∧ decode .s32 0x098A1FFF = .ok (.xorSi 5 3 0x7FF)
    ∧ decode .s32 0x120C1066 = .ok (.cmpSc 6 2 3 6) := by decide

/-- SA and SB, memory and special registers: R344, R357, R366, R372, R386, R391. -/
theorem test_decode_scalar_memory :
    decode .s32 0x202CAD0C = .ok (.ld 22 21 2 1 0 3 0) ∧ decode .s32 0x20182528 = .ok (.ld 12 4 2 1 1 2 0)
    ∧ decode .s32 0x212EAC0C = .ok (.st 23 21 2 0 3 0) ∧ decode .s32 0x21000E4E = .ok (.st 0 1 3 2 3 1)
    ∧ decode .s32 0x300E0040 = .ok (.mfsr 7 0x040) ∧ decode .s32 0x31004840 = .ok (.mtsr 9 0x040)
    ∧ decode .s32 0x3228A800 = .ok (.qpoll 20 21) ∧ decode .s32 0x3300A300 = .ok (.sigw 20 24) := by decide

/-- CFG: R381, R382, R384, R387 to R390, R395. -/
theorem test_decode_cfg :
    decode .g32 0x05800009 = .ok (.sapxKnob 9) ∧ decode .g32 0x05812378 = .ok (.sapxExplicit 4 3 120)
    ∧ decode .g32 0x0680000D = .ok (.sbind 3 1) ∧ decode .g32 0x01120000 = .ok (.sfmtReg 9) ∧ decode .g32 0x01B10000 = .ok (.sfmtField 3 1)
    ∧ decode .g32 0x02120002 = .ok (.sscl 9 2) ∧ decode .g32 0x07800071 = .ok (.sskew 28 1) ∧ decode .g32 0x08800044 = .ok (.sslk 0 4 4)
    ∧ decode .g32 0x04800A5B = .ok (.sswzImm 0xA5B) ∧ decode .g32 0x03125000 = .ok (.sunf 9 10) := by decide

/-- VEC, layout VA: R402 to R430. -/
theorem test_decode_vector :
    decode .v64 0x0100_0000_C108_0040 = .ok (.vadd ⟨3, 1, 2, 0, 0, 0, 1, 0, 0, 0⟩)
    ∧ decode .v64 0x0200_0002_8108_0042 = .ok (.vsub ⟨10, 1, 2, 0, 0, 0, 1, 0, 1, 0⟩)
    ∧ decode .v64 0x0300_0000_C108_0040 = .ok (.vmul ⟨3, 1, 2, 0, 0, 0, 1, 0, 0, 0⟩)
    ∧ decode .v64 0x0400_0001_0108_3040 = .ok (.vfma ⟨4, 1, 2, 3, 0, 0, 1, 0, 0, 0⟩)
    ∧ decode .v64 0x0500_0000_C108_0040 = .ok (.vdiv ⟨3, 1, 2, 0, 0, 0, 1, 0, 0, 0⟩)
    ∧ decode .v64 0x0600_0000_C100_0040 = .ok (.vsqrt ⟨3, 1, 0, 0, 0, 0, 1, 0, 0, 0⟩)
    ∧ decode .v64 0x0800_0000_C100_0044 = .ok (.vexp ⟨3, 1, 0, 0, 0, 0, 1, 1, 0, 0⟩)
    ∧ decode .v64 0x0A00_0000_C108_0040 = .ok (.vmax ⟨3, 1, 2, 0, 0, 0, 1, 0, 0, 0⟩)
    ∧ decode .v64 0x0B00_0000_8100_0040 = .ok (.vabs ⟨2, 1, 0, 0, 0, 0, 1, 0, 0, 0⟩)
    ∧ decode .v64 0x0C00_0000_8100_0040 = .ok (.vneg ⟨2, 1, 0, 0, 0, 0, 1, 0, 0, 0⟩)
    ∧ decode .v64 0x0D00_0000_8108_2040 = .ok (.vcmp ⟨2, 1, 2, 2, 0, 0, 1, 0, 0, 0⟩)
    ∧ decode .v64 0x0E00_0002_C110_0441 = .ok (.vthr ⟨11, 1, 4, 0, 1, 0, 1, 0, 0, 1⟩)
    ∧ decode .v64 0x0F00_0000_C108_4000 = .ok (.vsel ⟨3, 1, 2, 4, 0, 0, 0, 0, 0, 0⟩)
    ∧ decode .v64 0x1000_0000_810C_0078 = .ok (.vand ⟨2, 1, 3, 0, 0, 0, 1, 14, 0, 0⟩)
    ∧ decode .v64 0x1100_0000_810C_0078 = .ok (.vor ⟨2, 1, 3, 0, 0, 0, 1, 14, 0, 0⟩)
    ∧ decode .v64 0x1400_0000_C108_0058 = .ok (.vshr ⟨3, 1, 2, 0, 0, 0, 1, 6, 0, 0⟩)
    ∧ decode .v64 0x1500_0001_4604_0044 = .ok (.vcvt ⟨5, 6, 1, 0, 0, 0, 1, 1, 0, 0⟩)
    ∧ decode .v64 0x1600_0001_0308_0048 = .ok (.vqnt ⟨4, 3, 2, 0, 0, 0, 1, 2, 0, 0⟩)
    ∧ decode .v64 0x1700_0001_4400_0040 = .ok (.vamax ⟨5, 4, 0, 0, 0, 0, 1, 0, 0, 0⟩)
    ∧ decode .v64 0x1800_0001_8500_0140 = .ok (.vred ⟨6, 5, 0, 0, 0, 2, 1, 0, 0, 0⟩)
    ∧ decode .v64 0x1900_0000_C100_0000 = .ok (.vmov ⟨3, 1, 0, 0, 0, 0, 0, 0, 0, 0⟩)
    ∧ decode .v64 0x1A00_0001_C024_0040 = .ok (.vbcst ⟨7, 0, 9, 0, 0, 0, 1, 0, 0, 0⟩)
    ∧ decode .v64 0x1B00_0001_461C_0000 = .ok (.vperm ⟨5, 6, 7, 0, 0, 0, 0, 0, 0, 0⟩)
    ∧ decode .v64 0x1C00_0002_4000_0000 = .ok (.vidx ⟨9, 0, 0, 0, 0, 0, 0, 0, 0, 0⟩) := by decide

/-- VEC, layouts VM and VG: R414, R415, R432, R433. -/
theorem test_decode_vector_memory :
    decode .v64 0x2028_8000_8308_0402 = .ok (.vld ⟨2, 0, 1, 1, 0, 4, 0x010, 2, ⟨5, 2, 0, 0⟩⟩)
    ∧ decode .v64 0x2100_0000_8008_0408 = .ok (.vst ⟨2, 0, 0, 0, 0, 4, 0x010, 8, ⟨0, 0, 0, 0⟩⟩)
    ∧ decode .v64 0x2200_0000_C00A_3000 = .ok (.vgth ⟨3, 0, 0, 0, 0, 5, 6, ⟨0, 0, 0, 0⟩⟩)
    ∧ decode .v64 0x2300_0000_C00A_3000 = .ok (.vsct ⟨3, 0, 0, 0, 0, 5, 6, ⟨0, 0, 0, 0⟩⟩) := by decide

/-- MAT: R355, R359, R364, R365, R368. -/
theorem test_decode_matrix :
    decode .m64 0x0118_0004_1184_0000 = .ok (.mma ⟨1, 1, 6, 0x1000, 0, ⟨3, 0, 0, 0⟩⟩)
    ∧ decode .m64 0x0300_0000_0000_0000 = .ok (.mzero 0 ⟨0, 0, 0, 0⟩) ∧ decode .m64 0x0700_0004_0000_0000 = .ok (.mabort 1 ⟨0, 0, 0, 0⟩)
    ∧ decode .m64 0x0600_0004_8242_8000 = .ok (.mrdacc ⟨1, 8, 9, 5, 0, ⟨0, 0, 0, 0⟩⟩)
    ∧ decode .m64 0x0500_0004_4000_8000 = .ok (.mstacc ⟨1, 1, 0x0200, 0, ⟨0, 0, 0, 0⟩⟩) := by decide

/-- XFR: R341, R373, R379, R437, R438, R440 to R442. -/
theorem test_decode_transfer :
    decode .x64 0x0130_0002_A600_8000 = .ok (.xstart 1 20 0xC010 0 ⟨6, 0, 0, 0⟩) ∧ decode .x64 0x0238_0002_1000_0000 = .ok (.xstep 1 2 ⟨7, 0, 0, 0⟩)
    ∧ decode .x64 0x0300_0002_0000_0000 = .ok (.xkill 1) ∧ decode .x64 0x0420_0000_6020_0000 = .ok (.xgath 12 0x800 ⟨4, 0, 0, 0⟩)
    ∧ decode .x64 0x0500_0000_6820_0400 = .ok (.xcoll 13 0x801 ⟨0, 0, 0, 0⟩) ∧ decode .x64 0x0600_0000_7000_0000 = .ok (.xskew 14)
    ∧ decode .x64 0x0700_0000_6600_0008 = .ok (.rawait 12 0xC000 1) ∧ decode .x64 0x0800_0000_0600_0008 = .ok (.rrel 0xC000 1)
    ∧ decode .x64 0x0900_0000_A2AB_2E00 = .ok (.invr 20 21 22 23) := by decide

/-- What R322 and R300 refuse: BR without a condition but with a register, a reserved bit, chain distance 0, and CHS = 3 of VADD. -/
theorem test_decode_refuses :
    decode .c32 0x01050000 = .bad .encoding ∧ decode .g32 0x00000001 = .bad .encoding
    ∧ decode .v64 (0x0100_0000_C108_0040 + 2 ^ 10) = .ok (.vadd ⟨3, 1, 2, 0, 1, 0, 1, 0, 0, 0⟩)
    ∧ decode .v64 (0x0100_0000_C008_0040 + 2 ^ 10) = .bad .chain ∧ decode .v64 (0x0100_0000_C108_0040 + 3 * 2 ^ 10) = .bad .chain := by decide

/-! ## WellFormed: one ill-formed term for each check, and one that passes -/

/-- A VA operand set of the tests: v3 ← v1, v2 in FP32. -/
def va : FieldsVA := ⟨3, 1, 2, 0, 0, 0, 1, 0, 0, 0⟩

theorem test_illformed_control :
    WellFormed (.br 0 5 0) = false ∧ WellFormed (.bri 0 5 6) = false ∧ WellFormed (.br 1 5 0) = true := by decide

theorem test_illformed_scalar :
    WellFormed (.cmpSc 1 2 3 10) = false ∧ WellFormed (.cmpSci 1 2 15 0) = false ∧ WellFormed (.movSm 1 0 7) = false
    ∧ WellFormed (.movSm 1 2 3) = false ∧ WellFormed (.ext 1 2 40 24) = false ∧ WellFormed (.ins 1 2 63 1) = false
    ∧ WellFormed (.ext 1 2 40 23) = true ∧ WellFormed (.movSm 1 0 6) = true := by decide

theorem test_illformed_memory :
    WellFormed (.ld 1 2 3 1 0 0 0) = false ∧ WellFormed (.amo 1 2 9 0 0 0) = false ∧ WellFormed (.cas 1 2 0 0 0 0) = false
    ∧ WellFormed (.sigw 1 2) = false ∧ WellFormed (.cas 2 2 0 0 0 0) = true := by decide

theorem test_illformed_cfg :
    WellFormed (.sfmtField 5 0) = false ∧ WellFormed (.sfmtField 3 4) = false ∧ WellFormed (.sfmtField 4 8) = false
    ∧ WellFormed (.sskew 1 3) = false ∧ WellFormed (.sfmtField 4 7) = true := by decide

theorem test_illformed_vector :
    WellFormed (.vadd { va with c := 1 }) = false ∧ WellFormed (.vadd { va with chs := 3 }) = false
    ∧ WellFormed (.vadd { va with chs := 1, a := 16 }) = false ∧ WellFormed (.vadd { va with td := 0, t := 1 }) = false
    ∧ WellFormed (.vadd { va with cut := 1 }) = false ∧ WellFormed (.vmin { va with eph := 1 }) = false
    ∧ WellFormed (.vsqrt va) = false ∧ WellFormed (.vcmp { va with d := 8 }) = false ∧ WellFormed (.vcmp { va with c := 10 }) = false
    ∧ WellFormed (.vsel { va with td := 0, c := 8 }) = false ∧ WellFormed (.vcvt { va with b := 5 }) = false
    ∧ WellFormed (.vcvt { va with c := 16 }) = false ∧ WellFormed (.vqnt { va with p := 1 }) = false ∧ WellFormed (.vmov va) = false
    ∧ WellFormed (.vbcst va) = false ∧ WellFormed (.vperm va) = false ∧ WellFormed (.vidx va) = false ∧ WellFormed (.vadd va) = true := by
  decide

theorem test_illformed_lanes :
    WellFormed (.vld ⟨1, 0, 3, 0, 0, 1, 0, 0, noTokens⟩) = false ∧ WellFormed (.vld ⟨1, 0, 0, 1, 0, 1, 0, 0, noTokens⟩) = false
    ∧ WellFormed (.vst ⟨1, 0, 1, 1, 0, 1, 0, 0, noTokens⟩) = false ∧ WellFormed (.vgth ⟨1, 0, 3, 0, 0, 1, 1, noTokens⟩) = false
    ∧ WellFormed (.vsct ⟨1, 0, 2, 1, 0, 1, 1, noTokens⟩) = false ∧ WellFormed (.mldacc ⟨0, 1, 0, 0, noTokens⟩) = false
    ∧ WellFormed (.vld ⟨1, 0, 2, 1, 0, 1, 0, 0, noTokens⟩) = true := by decide

/-! ## States of the tests -/

/-- A module that runs, with every die ungated and in order, its stacks of HBM4 in place, and the link to the host trained. -/
def running : State := { State.reset with
  ident := { Ident.reset with booted := true, ready := true, gated := 0, dieok := 255, hbmok := 0xFFFF },
  links := [(18, { Link.reset with up := true })] }
/-- No link of it has lost its training. -/
theorem links_trained (d : Nat) : running.dieLinkLost d = false := by
  have h : ¬ 19 + d = 18 := by omega
  simp [State.dieLinkLost, running, mapGet, h, Link.reset]
/-- A released team of cells 0 and 1 of the running module, in context 5. -/
def pair : Team := { Team.new 1 0 0 none 5 0 0 with desc := List.replicate 20 0, size := 2, cells := [0, 1], state := .resident }
/-- The running module with that team, and cell 0 as given, whose slot SA executes. -/
def cell (k : Core) : State := { running with
  cores := [(0, k)], sched := { running.sched with teams := [pair], nextId := 2 }, ctx := ⟨0, 1, 7, 0, false, false, []⟩ }
/-- A core that runs. -/
def idle : Core := { Core.reset with st := .run, rcyc := 1 }
/-- The running module with stoker 0 as given, whose slot SA executes. -/
def stoker (k : Core) : State := { running with cores := [(1024, k)], ctx := ⟨1024, 1, 7, 0, false, false, []⟩ }
/-- The state with another slot executing. -/
def inSlot (s : State) (n : Nat) : State := { s with ctx := { s.ctx with slot := n } }
/-- A cell whose scalar registers 1 and 2 hold values. -/
def regs (x y : Word) : State := cell { idle with s := mapSetAll 0 [] [(1, x), (2, y)] }

/-! ## Witnesses: states and operands that meet the hypotheses of each statement, clause by clause -/

/-- DecodeOfEncode: one instruction of each format. -/
theorem witness_DecodeOfEncode :
    (WellFormed (.bri 3 63 1) = true ∧ (encode .c32 (.bri 3 63 1)).isSome = true)
    ∧ (WellFormed (.ext 1 2 63 0) = true ∧ (encode .s32 (.ext 1 2 63 0)).isSome = true)
    ∧ (WellFormed (.sskew 63 2) = true ∧ (encode .g32 (.sskew 63 2)).isSome = true)
    ∧ (WellFormed (.vadd va) = true ∧ (encode .v64 (.vadd va)).isSome = true)
    ∧ (WellFormed (.mzero 3 ⟨31, 0, 1, 2⟩) = true ∧ (encode .m64 (.mzero 3 ⟨31, 0, 1, 2⟩)).isSome = true)
    ∧ (WellFormed (.xskew 63) = true ∧ (encode .x64 (.xskew 63)).isSome = true) := by decide

/-- EncodeOfDecode. -/
theorem witness_EncodeOfDecode : 0x11051800 < 2 ^ 32 ∧ decode .c32 0x11051800 = .ok (.ctxs 5 6)
    ∧ 0x0300000200000000 < 2 ^ 64 ∧ decode .x64 0x0300000200000000 = .ok (.xkill 1) := by decide

/-- ArithmeticResults, BitResults: the first and last types of each class. -/
theorem witness_types : (4 ≤ (4 : BitVec 4).toNat ∧ (4 : BitVec 4).toNat ≤ 11) ∧ (4 ≤ (11 : BitVec 4).toNat ∧ (11 : BitVec 4).toNat ≤ 11)
    ∧ 4 ≤ (15 : BitVec 4).toNat ∧ ¬ (4 ≤ (3 : BitVec 4).toNat) ∧ ¬ ((12 : BitVec 4).toNat ≤ 11) := by decide

/-- DivideResults: every width, with a divisor that is not zero in its type, and one that is. -/
theorem witness_DivideResults :
    (formatWidth 4 = 8 ∧ formatWidth 5 = 16 ∧ formatWidth 6 = 32 ∧ formatWidth 11 = 64)
    ∧ valueIn 4 ((regs 7 0x1FF).rd 2) ≠ 0 ∧ valueIn 4 ((regs 7 0x100).rd 2) = 0 := by decide

/-- ChoiceResults: a condition that holds and one that does not, SEL both ways, a loop index in use and one above the depth, and a
field that ends at bit 63. -/
theorem witness_ChoiceResults :
    ((9 : BitVec 4).toNat < 10 ∧ Condition 9 ((regs 7 7).rd 1) ((regs 7 7).rd 2) ∧ ¬ Condition 8 ((regs 7 7).rd 1) ((regs 7 7).rd 2))
    ∧ (regs 7 0).rd 1 ≠ 0 ∧ (regs 7 0).rd 2 = 0
    ∧ (cell { idle with loops := [⟨2, 5, 0, 9⟩] }).cur.loops.reverse[0]? = some ⟨2, 5, 0, 9⟩
    ∧ (cell { idle with loops := [⟨2, 5, 0, 9⟩] }).cur.loops.length ≤ 1 ∧ (40 : BitVec 6).toNat + (23 : BitVec 5).toNat < 64 := by
  refine ⟨⟨by decide, ?_, ?_⟩, by decide⟩
  · change ((regs 7 7).rd 2).toNat ≤ ((regs 7 7).rd 1).toNat
    decide
  · change ¬ ((regs 7 7).rd 2).toNat < ((regs 7 7).rd 1).toNat
    decide

/-- ScalarAndControlChecksStop: the checks are still to be made; a repeat, a full loop stack, an end before the next bundle, an empty
stack, a handler, reserved orders and scopes, and a stoker. -/
theorem witness_ScalarAndControlChecksStop :
    (regs 0 0).ctx.checked = false ∧ ¬ LogicType 3 ∧ ¬ ArithType 12 ∧ 10 ≤ (10 : BitVec 4).toNat ∧ 64 ≤ (63 : BitVec 6).toNat + (1 : BitVec 5).toNat
    ∧ ({ regs 0 0 with owed := ⟨false, true, 9, 1, false, none, false⟩ } : State).owed.rpt ≠ 0
    ∧ 6 ≤ (cell { idle with loops := List.replicate 6 ⟨0, 1, 0, 9⟩ }).cur.loops.length ∧ (regs 0 0).owed.rpt = 0
    ∧ (regs 0 0).cur.loops.length < 6 ∧ (8 : BitVec 16).toNat < ({ regs 0 0 with owed := ⟨true, true, 9, 0, false, none, false⟩ } : State).owed.next
    ∧ (regs 0 0).cur.loops = [] ∧ (cell { idle with hand := { idle.hand with epc := 0x8000000000000000 } }).cur.inHandler = true
    ∧ isStoker (regs 0 0).me = false ∧ (regs 0 0).cur.inHandler = false ∧ isStoker (stoker idle).me = true
    ∧ (stoker idle).ctx.checked = false := by
  refine ⟨rfl, by unfold LogicType; decide, by unfold ArithType; decide, ?_⟩
  decide

/-- TransfersOfControl: each condition, taken and not taken. -/
theorem witness_TransfersOfControl : (regs 0 5).owed.rpt = 0 ∧ (regs 0 5).rd 1 = 0 ∧ (regs 0 5).rd 2 ≠ 0
    ∧ ((regs 0x8000000000000000 5).rd 1).toInt < 0 ∧ ¬ ((regs 0 5).rd 2).toInt < 0 := by decide

/-- LoopPushesOrSkips: under another loop whose END is not this bundle's, counts of 0 and not, and a header at END. -/
theorem witness_LoopPushesOrSkips :
    let s : State := { cell { idle with
        loops := [⟨0, 3, 1, 50⟩], imem := [(40, 0xA0000000)], s := mapSetAll 0 [] [(1, 4), (2, 0x100000000)] } with
      owed := ⟨true, true, 2, 0, false, none, false⟩ }
    s.owed.rpt = 0 ∧ s.cur.loops.length < 6 ∧ s.owed.next ≤ (40 : BitVec 16).toNat
    ∧ (∀ x l, s.cur.loops = x :: l → x.stop ≠ s.cur.pc ∧ (40 : BitVec 16).toNat ≤ x.stop)
    ∧ (s.rd 1).toNat % 2 ^ 32 ≠ 0 ∧ (s.rd 2).toNat % 2 ^ 32 = 0
    ∧ s.codeWord s.me 40 / 2 ^ 28 = 10 ∧ s.codeWord s.me 40 % 2 ^ 12 = 0 := by
  refine ⟨by decide, by decide, by decide, ?_, by decide, by decide, by decide, by decide⟩
  intro x l h
  have e : x = ⟨0, 3, 1, 50⟩ := (List.cons.inj h).1.symm
  subst e
  decide

/-- BundleEnd: no loop; a loop that ends elsewhere; one that ends here and goes on, and one that is over; LBRK, and SBIND. -/
theorem witness_BundleEnd :
    idle.popReq = false ∧ idle.bindReq = none ∧ idle.loops = []
    ∧ ({ idle with loops := [⟨0, 3, 1, 50⟩] } : Core).loops = ⟨0, 3, 1, 50⟩ :: [] ∧ (50 : Nat) ≠ 40
    ∧ (1 : Nat) + 1 < 3 ∧ (3 : Nat) ≤ 2 + 1 ∧ (cell { idle with loops := [⟨0, 3, 1, 50⟩] }).cur.loops ≠ []
    ∧ ({ idle with popReq := true } : Core).popReq = true ∧ ({ idle with bindReq := some (15, 2) } : Core).bindReq = some (15, 2) := by decide

/-- HaltsStopsAndEret: a cell and a stoker, with and without a request to yield, inside and outside a handler. -/
theorem witness_HaltsStopsAndEret :
    isStoker (cell idle).me = false ∧ (cell idle).owed.rpt = 0 ∧ (cell idle).cur.inHandler = false
    ∧ isStoker (stoker idle).me = true ∧ (stoker idle).owed.rpt = 0 ∧ (stoker idle).cur.inHandler = false
    ∧ (cell { idle with yreq := true }).cur.yreq = true ∧ (cell idle).cur.yreq = false
    ∧ (cell { idle with hand := { idle.hand with epc := 0x8000000000000000, wk := 1 } }).cur.inHandler = true
    ∧ (cell { idle with hand := { idle.hand with epc := 0x8000000000000000, wk := 1 } }).cur.hand.wk ≠ 0 ∧ idle.hand.wk = 0 := by decide

/-- WaitsAndFences: a wait that the bundle began, with its condition met and not met. -/
theorem witness_WaitsAndFences :
    let w : Waits := { Waits.none with op := some (.wait 15 15 0 15) }
    let s := cell { idle with waits := w }
    let t := cell { idle with waits := w, outcnt := [(2, 1)] }
    (s.core 0).waits.op = some (.wait 15 15 0 15) ∧ (s.core 0).st = .run ∧ (s.core 0).rptLeft = 0 ∧ (s.core 0).waits.op.isSome = true ∧ (s.core 0).waits.ring = none
    ∧ (s.core 0).waits.ringArg = 0 ∧ s.waitOver 0 = true ∧ t.waitOver 0 = false
    ∧ ((cell { idle with waits := { Waits.none with op := some .waitpred } }).core 0).waits.op = some .waitpred := by decide

/-- A stoker's team that RELEASE names by its context and cells: loaded, of one cell. -/
def loadedOne : Team := { pair with cells := [3], size := 1, state := .loaded }
/-- The running module, stoker 0 with its release list of one CID, and that team loaded. -/
def releasing : State := { stoker { idle with s := [(1, 0x40)] } with
  mem := [(localKey 1024 0x40, 1), (localKey 1024 0x48, 3)], sched := { running.sched with teams := [loadedOne] } }
/-- The same with cell 3 stopped, its team resident, and an image of it at address 0x10000. -/
def imaging (kind : Word) : State := { stoker { idle with s := mapSetAll 0 [] [(1, 3 + kind * 0x20000), (2, 0x10000)] } with
  cores := [(3, { idle with st := .stopped }), (1024, { idle with s := mapSetAll 0 [] [(1, 3 + kind * 0x20000), (2, 0x10000)] })]
  mem := mapSetAll 0 [] [(0x10000, 0x49), (0x10001, 0x43), (0x10002, 0x39), (0x10003, 0x4C), (0x10004, 1), (0x10006, 1), (0x1000A, 3), (0x1000C, 5)]
  sched := { running.sched with teams := [{ pair with cells := [3], size := 1 }] } }

/-- StokerControl: a release list that names a loaded team, a context to save, and an image to restore. -/
theorem witness_StokerControl :
    releasing.releaseCheck (releasing.rd 1) = none ∧ releasing.releasable (releasing.releaseList ((releasing.rd 1).toNat % 2 ^ 63)) = some loadedOne
    ∧ releasing.team loadedOne.id = some loadedOne ∧ loadedOne.hamper = 0
    ∧ (let t : Team := { loadedOne with hamper := 0x20000010000 }
       let s : State := { releasing with sched := { releasing.sched with teams := [t] } }
       s.releaseCheck (s.rd 1) = none ∧ s.releasable (s.releaseList ((s.rd 1).toNat % 2 ^ 63)) = some t ∧ s.team t.id = some t ∧ t.hamper ≠ 0)
    ∧ (imaging 1).ctxsCheck ((imaging 1).rd 1) ((imaging 1).rd 2) = none
    ∧ (imaging 0).ctxrCheck ((imaging 0).rd 1) ((imaging 0).rd 2) = none ∧ isStoker (regs 0 0).me = false := by decide +kernel

/-- A cell that stands before a bundle of ADD s3, s1, s2 of type 7 in SA, with RPT 0. -/
def fetching : State := { running with cores := [(0, { idle with imem := mapSetAll 0 [] [(0, 0xA0400000), (1, 0x0106084E)], s := [(1, 5)], ebal := 0 })]
                                       power := { running.power with powered := true, kmin := [] } }

/-- StepRunsDecoded: the turn of a running cell whose bundle nothing holds or stops, and words at the pc that decode. -/
theorem witness_StepRunsDecoded :
    let i : Instr := .addSr 3 1 2 7
    let t : State := { fetching with turn := 1 }
    let ops : List PendOp := [⟨1, false, i⟩]
    let e : Execution := ⟨ops, [1], []⟩
    let u := (t.startHeads 0).scalarsFirst t 0 e
    let p := u.prepare t 0 [1].contains (carriesEret ops)
    (fetching.agenda = [] ∧ fetching.ident.booted = true ∧ fetching.power.powered = true ∧ fetching.nextCore = some 0
      ∧ fetching.boundary 0 = none ∧ (fetching.core 0).st = .run ∧ t.throttled 0 = false ∧ (t.core 0).lateFrozen = false
      ∧ (t.startHeads 0).execution 0 = .inr e ∧ p.holdBefore 0 ops = 0 ∧ p.issueCauses ops = [] ∧ p.holdAfter t 0 ops = 0)
    ∧ ((fetching.core 0).rptLeft = 0 ∧ fetching.codeWord 0 0 / 2 ^ 28 = 10 ∧ fetching.codeWord 0 0 / 2 ^ 21 % 2 ^ 7 = 2 ^ 1
      ∧ fetching.codeWord 0 0 % 2 ^ 12 = 0 ∧ 0 + 1 + slotWords 1 ≤ codeLimit 0 ∧ fetching.codeUe 0 0 (1 + slotWords 1) = false
      ∧ daggered 1 (payloadOpcode 1 (fetching.codeWord 0 1)) = false ∧ decode (slotFormat 1) (fetching.codeWord 0 1) = .ok i
      ∧ i ≠ .eret) := by decide +kernel

/-- AgendaStepsRun: a step on the agenda of a powered module that leaves no operations, and an unpowered module. -/
theorem witness_AgendaStepsRun :
    let s : State := { running with agenda := [.keySlotUpdate] }
    Leads .keySlotUpdate { s with agenda := [] } { s with agenda := [] } ∧ s.agenda = .keySlotUpdate :: [] ∧ s.power.powered = true
    ∧ s.ops = [] ∧ s.owed.cycle = false
    ∧ ({ running with power := { running.power with powered := false } } : State).power.powered = false
    ∧ Instr.keySlotUpdate ≠ .powerOnReset ∧ Instr.keySlotUpdate ≠ .inputPowerLoss := ⟨rfl, by decide⟩

/-- MemoryStaysCanonical: a memory of two bytes in canonical form, and a step from it. -/
theorem witness_MemoryStaysCanonical :
    Memory.wf ({ fetching with mem := [(3, 7), (9, 1)] } : State).mem = true
    ∧ (match step { fetching with mem := [(3, 7), (9, 1)] } with
      | .next t => Memory.wf t.mem
      | _ => false) = true := by decide +kernel

/-- MemoryIsCanonicalData: the last address of each view. -/
theorem witness_MemoryIsCanonicalData : Memory.wf [(3, 7), (9, 1)] = true ∧ canonical 0x1FFFFFFFFFF = 0xFFFFFFFFFF
    ∧ canonical 0x10000000000 = 0 ∧ canonical 0x10000001000 = 0x1000 ∧ canonical 0x20000000000 = 0x20000000000 := by decide

/-- CellIdentifiers: the last die, cluster and cell. -/
theorem witness_CellIdentifiers : 7 * 128 + 15 * 8 + 7 = 1023 ∧ dieOf 1023 = 7 ∧ clusterOf 1023 = 127 := by decide

/-- CellLoadsAndStores, CellAtomics: the last aligned doubleword of the cell's own scratchpad, and of another's by .gl, with nothing in
the way. -/
theorem witness_CellAddr :
    (let s := regs 0x3FFFF8 0x7FFFF8
     CellAddr s false (s.rd 1) 8 (spKey 0 0x3FFFF8) ∧ CellAddr s true (s.rd 2) 8 (spKey 1 0x3FFFF8) ∧ spCell (spKey 0 0x3FFFF8) = s.me
     ∧ spCell (spKey 1 0x3FFFF8) ≠ s.me ∧ s.Settled s.me ∧ s.ueIn (spKey 0 0x3FFFF8) 8 = false ∧ isStoker s.me = false)
    ∧ (8 : BitVec 4).toNat < 9 ∧ (62 : BitVec 6).toNat % 2 = 0 ∧ (4 : BitVec 3).toNat ≤ 4 :=
  ⟨⟨⟨0, by decide⟩, ⟨1, by decide⟩, by decide, by decide, ⟨⟨rfl, rfl, rfl, rfl, rfl⟩, rfl, rfl⟩, by decide, by decide⟩, by decide⟩

/-- StokerMemory: the last doubleword of a stoker's local memory, and a doubleword of HBM4. -/
theorem witness_StokerMemory :
    let s := stoker { idle with s := mapSetAll 0 [] [(1, 0x3FFF8), (2, 0x8000000000000008)] }
    isStoker s.me = true ∧ s.ceMem = [] ∧ StokerAddr s (s.rd 1) 8 (localKey 1024 0x3FFF8) ∧ StokerAddr s (s.rd 2) 8 8 ∧ s.ueIn 8 8 = false
    ∧ regionOf 8 ≠ .scratch :=
  ⟨by decide, rfl, ⟨by decide, .inl (by decide)⟩, ⟨by decide, .inr (by decide)⟩, by decide, by decide⟩

/-- A store of one byte on its way, and a load and an atomic that have not performed. -/
def storing (p : Place) : PendWrite := ⟨5, 4, 0, 0, p, [(spKey 1 8, 7)], none, 1, 3, none, none, none, 5, 0⟩
/-- A load, or an atomic, of another cell's scratchpad. -/
def loading (k : ReadKind) (remote : Bool) : PendRead := ⟨5, 4, 0, spKey 1 8, k, none, 0, 0, 3, 1, 3, remote⟩

/-- AccessesPerform: a write one place from home, one in its queue, and the reads of each kind. -/
theorem witness_AccessesPerform :
    (let s : State := { cell idle with writes := [storing .die] }
     s.writes = [storing .die] ∧ s.reads = [] ∧ s.fences = [] ∧ (storing .die).hold = none ∧ (storing .die).key = none ∧ s.sched.migs = []
     ∧ s.hostUp = true ∧ s.ueMem = [] ∧ s.ceMem = [] ∧ (s.core (storing .die).cid).queue = [] ∧ s.mat = [])
    ∧ (storing .die).nextPlace = none ∧ ({ storing .queue with bytes := [(spKey 1023 8, 7)] } : PendWrite).nextPlace = some .cluster
    ∧ (loading (.load 8 true) true).remote = true ∧ (loading (.amo 8 8 1) true).kind = .amo 8 8 1
    ∧ (loading (.cas 8 1 2) true).kind = .cas 8 1 2 ∧ (loading (.load 1 false) false).remote = false
    ∧ (loading (.load 1 false) false).hold = none := by decide

/-- AccessesPerform, TransferEvents: no link of a state built on the running module has lost its training. -/
theorem witness_links : ∀ d, (cell idle).dieLinkLost d = false := links_trained

/-- MemoryAndEngineChecksStop: a CID that the team does not hold, a misaligned address, one past the scratchpad; VA fields that are
refused; no producer at the distance; and formats, kernels and ranges of the MAT slot. -/
theorem witness_MemoryAndEngineChecksStop :
    (let s := regs 0xC00001 0x3FFFFC
     s.target s.me ((s.rd 1).toNat / 2 ^ 22 % 2 ^ 10) = none ∧ s.target s.me s.me = some 0 ∧ (s.rd 1).toNat % 2 ^ 22 % 8 ≠ 0
     ∧ (s.rd 2).toNat % 2 ^ 22 % 4 = 0 ∧ (s.core 0).spcap < 0x3FFFFC + 8 ∧ s.ctx.checked = false)
    ∧ va.chs = 0 ∧ ({ va with chs := 3 } : FieldsVA).chs = 3 ∧ ({ va with c := 1 } : FieldsVA).c ≠ 0
    ∧ ({ va with t := 7 } : FieldsVA).t.toNat ∈ [2, 3, 7, 11, 12, 13, 14, 15]
    ∧ (WellFormed (.vadd { va with chs := 1 }) = true ∧ (cell idle).cur.cyc < ({ va with chs := 1 } : FieldsVA).distance
      ∧ (cell { idle with cyc := 20 }).cur.issuedAt (20 - 1) = none)
    ∧ 3 < fmtMa (cell { idle with fmt := 0x40 }).cur.fmt ∧ (unfoldOf (cell idle).cur.unf0 (cell idle).cur.unf1).kh = 0
    ∧ fmtMa (cell { idle with fmt := 0 }).cur.fmt = (unfoldOf idle.unf0 idle.unf1).ef
    ∧ (idle.spcap < 64 * (0xFFFF : BitVec 16).toNat + 98304) ∧ 3 < (4 : BitVec 4).toNat ∧ isStoker (stoker idle).me = true := by decide

/-- StokerSignalsAndTags: a signal's place, a key found once, a key in no entry, and an index out of range. -/
theorem witness_StokerSignalsAndTags :
    (let s := stoker { idle with s := mapSetAll 0 [] [(1, 0x8000000000000020)] }
     (s.rd 1).toNat = 2 ^ 63 + 0x20 ∧ (0x20 : Nat) % 32 = 0 ∧ s.isHole 0x20 = false ∧ (60 : BitVec 6).toNat % 4 = 0)
    ∧ (let s := cell { idle with s := mapSetAll 0 [] [(1, 9), (2, 1024)], tags := [(1023, some 9)] }
       mapWf none s.cur.tags = true ∧ mapGet none s.cur.tags 1023 = some ((s.rd 1).truncate 52) ∧ (s.rd 1).toNat < 1024
       ∧ 1024 ≤ (s.rd 2).toNat ∧ s.rd 2 ≠ BitVec.allOnes 64 ∧ s.cur.ueTags = [])
    ∧ (cell { idle with ueTags := [5] }).cur.ueTags ≠ [] := by decide

/-- SystemReads: a register of the column, TAGKEY of an entry that holds and of one that does not, an event count, and a number that no
column lists. -/
theorem witness_SystemReads :
    (regs 0 0).readReg 0 0x040 = some 0x40110 ∧ (regs 0 0).readReg 0 0x051 = some 0
    ∧ (regs 0 0).cur.tagidx.toNat % 2 ^ 10 ∉ (regs 0 0).cur.ueTags
    ∧ (cell { idle with ueTags := [5], tagidx := 5 }).cur.tagidx.toNat % 2 ^ 10 ∈ (cell { idle with ueTags := [5], tagidx := 5 }).cur.ueTags
    ∧ ({ regs 0 0 with ctx := ⟨0, 1, 7, 0, false, false, [7]⟩ } : State).ctx.counts[0x078 - 0x078]? = some 7
    ∧ (regs 0 0).readReg 0 0x7FF = none := by decide

/-- SystemWrites: scale factors that are accepted. -/
theorem witness_SystemWrites : scalesOk ((regs 0x3F803F803F803F80 0).rd 1) = true ∧ (0x045 : BitVec 11).toNat = 0x042 + 3
    ∧ (0x7FF : BitVec 11).toNat ≥ 0x087
    ∧ (let s : State := { stoker idle with owed := ⟨true, true, 9, 0, false, none, true⟩ }
      s.owed.cycle = true ∧ s.owed.trip = true) ∧ isStoker (stoker idle).me = true := by decide

/-- ConfigWrites: an accepted swizzle, a free donor entry, a cached record, and pending writes. -/
theorem witness_ConfigWrites :
    swizzleOk ((0xA5B : BitVec 13).toNat % 8) ((0xA5B : BitVec 13).toNat / 8 % 64) ((0xA5B : BitVec 13).toNat / 512 % 8) = true
    ∧ (cell idle).bindCheck 15 0 = none ∧ (∀ x ∈ (cell idle).cur.shadow, x.target ≠ 9)
    ∧ ({ idle with shadow := [⟨1, 4, 5⟩] } : Core).shadow = [⟨1, 4, 5⟩] := by decide

/-- A VEC operation of cell 0 that starts at once, with lanes of v1 and v2. -/
def vec (x y : Lane) : State := inSlot (cell { idle with v := mapSetAll 0 [] [(128, x), (129, 7), (256, y), (383, 0x80)] }) 3

theorem vec_ready : VecReady (vec 3 5) := by
  refine ⟨rfl, rfl, ?_, by decide, by decide, .inl (by decide), by decide⟩
  intro w h
  cases h

/-- VectorIntegers: formats of 8 and 32 bits, and VCMP with its last condition. -/
theorem witness_VectorIntegers : VecReady (vec 3 5) ∧ Plain (.vadd { va with t := 4 }) { va with t := 4 } (vec 3 5) 4
    ∧ Plain (.vmul { va with t := 10 }) { va with t := 10 } (vec 3 5) 10
    ∧ Plain (.vcmp { va with t := 6, c := 9 }) { va with t := 6, c := 9 } (vec 3 5) 6 :=
  ⟨vec_ready, ⟨by decide, rfl, rfl⟩, ⟨by decide, rfl, rfl⟩, ⟨by decide, rfl, rfl⟩⟩

/-- VectorBitsAndMoves: a bit format, one without a format field, and a broadcast. -/
theorem witness_VectorBitsAndMoves : VecReady (vec 3 5) ∧ Plain (.vand { va with t := 14 }) { va with t := 14 } (vec 3 5) 14
    ∧ Plain (.vmov ⟨3, 1, 0, 0, 0, 0, 0, 0, 0, 0⟩) ⟨3, 1, 0, 0, 0, 0, 0, 0, 0, 0⟩ (vec 3 5) 0
    ∧ Plain (.vbcst ⟨7, 0, 9, 0, 0, 0, 1, 1, 0, 0⟩) ⟨7, 0, 9, 0, 0, 0, 1, 1, 0, 0⟩ (vec 3 5) 1 :=
  ⟨vec_ready, ⟨by decide, rfl, rfl⟩, ⟨by decide, rfl, rfl⟩, ⟨by decide, rfl, rfl⟩⟩

/-- VectorFloats: both float formats, by T and by FMT. -/
theorem witness_VectorFloats : VecReady (vec 3 5) ∧ Plain (.vadd va) va (vec 3 5) 0 ∧ Plain (.vadd { va with t := 1 }) { va with t := 1 } (vec 3 5) 1
    ∧ Plain (.vfma { va with c := 9, td := 0 }) { va with c := 9, td := 0 } (vec 3 5) 0 ∧ Plain (.vcmp { va with c := 5 }) { va with c := 5 } (vec 3 5) 0 :=
  ⟨vec_ready, ⟨by decide, rfl, rfl⟩, ⟨by decide, rfl, rfl⟩, ⟨by decide, rfl, rfl⟩, ⟨by decide, rfl, rfl⟩⟩

/-- VectorReductionsAndConversions: an integer and a float sum, a block maximum, a conversion, and a quantisation. -/
theorem witness_VectorReductionsAndConversions :
    Plain (.vred ⟨6, 5, 0, 0, 0, 2, 1, 6, 0, 0⟩) ⟨6, 5, 0, 0, 0, 2, 1, 6, 0, 0⟩ (vec 3 5) 6
    ∧ Plain (.vred ⟨6, 5, 0, 0, 0, 2, 1, 0, 0, 0⟩) ⟨6, 5, 0, 0, 0, 2, 1, 0, 0, 0⟩ (vec 3 5) 0
    ∧ Plain (.vamax ⟨5, 4, 0, 0, 0, 0, 1, 1, 0, 0⟩) ⟨5, 4, 0, 0, 0, 0, 1, 1, 0, 0⟩ (vec 3 5) 1
    ∧ Plain (.vcvt ⟨5, 6, 1, 0, 0, 0, 1, 14, 0, 0⟩) ⟨5, 6, 1, 0, 0, 0, 1, 14, 0, 0⟩ (vec 3 5) 14
    ∧ Plain (.vcvt ⟨5, 6, 1, 3, 0, 0, 1, 0, 0, 0⟩) ⟨5, 6, 1, 3, 0, 0, 1, 0, 0, 0⟩ (vec 3 5) 0
    ∧ Plain (.vqnt ⟨4, 3, 15, 0, 0, 0, 1, 3, 0, 0⟩) ⟨4, 3, 15, 0, 0, 0, 1, 3, 0, 0⟩ (vec 3 5) 3 ∧ (vec 3 5).cur.fmt.toNat % 16 ≤ 1 :=
  ⟨⟨by decide, rfl, rfl⟩, ⟨by decide, rfl, rfl⟩, ⟨by decide, rfl, rfl⟩, ⟨by decide, rfl, rfl⟩, ⟨by decide, rfl, rfl⟩, ⟨by decide, rfl, rfl⟩, by decide⟩

/-- A vector result of cell 0 on its last cycle. -/
def landing : Flight := { (vec 3 5).newFlight (.vadd va) 2 (.vector 3) 0 with lanes := List.replicate 128 ⟨9, true, flagNone, false, true, false, false, false, false, 0, 7, dyadZero, 0, false, []⟩ }

/-- VectorResultsLand. -/
theorem witness_VectorResultsLand :
    let s := cell { idle with flights := [landing] }
    (s.core landing.eng).flights = [landing] ∧ landing.dest = .vector 3 ∧ landing.kind ≠ 3 ∧ landing.fault = none ∧ landing.rem = 0
    ∧ landing.open_ = false ∧ landing.eph = false ∧ landing.landed = false ∧ landing.skewl = 0 ∧ landing.lanes.length = 128
    ∧ arDetail (landing.allFlags &&& trapMask landing.fmt) = none ∧ landing.tok = 0 ∧ landing.cnt = .none
    ∧ (s.core landing.eng).queue = [] := by decide +kernel

/-- FloatSpecialCases, RoundsToNeighbours: a signalling NaN, a magnitude that is not zero, and one below 2^128. -/
theorem witness_Floats : (floatValue 0 0x7F800001).isNaN = true ∧ (floatValue 0 0x7F800001).isSignalling = true ∧ (1 : Nat) ≠ 0
    ∧ (3 : Nat) < 2 ^ 128 * 7 ∧ (0 : Nat) < 3 := by decide

/-- The fields of a lane load or store at s1 + 64 × 1, and of a gather at s1 plus lanes of v2. -/
def vm (w : BitVec 2) : FieldsVM := ⟨5, 0, w, 0, 0, 1, 1, 0, ⟨3, 0, 0, 0⟩⟩
/-- The same for layout VG. -/
def vg : FieldsVG := ⟨5, 1, 0, 0, 0, 1, 2, noTokens⟩
/-- Cell 0 with s1 = 0x100, and predicate 1 with its first lane alone. -/
def lanes : State := inSlot (cell { idle with s := [(1, 0x100)], p := [(1, 1)] }) 3

/-- VectorMemory: a run that ends inside the scratchpad, and a gather of one lane. -/
theorem witness_VectorMemory :
    VecReady lanes ∧ lanes.engine lanes.me 3 = lanes.me ∧ lanes.cur.banks = [] ∧ lanes.taken = [] ∧ lanes.Quiet ∧ lanes.mat = [] ∧ lanes.ueMem = [] ∧ lanes.ceMem = [] ∧ lanes.ctx.reissue = false
    ∧ lanes.cur.waitsOn (vm 0).tok = []
    ∧ (let off : Nat := (((lanes.rd 1).toNat % 2 ^ 32 : Int) + 64 * (vm 0).ofs.toInt).toNat % 2 ^ 22
       off % 64 = 0 ∧ off + 128 * 4 ≤ lanes.cur.spcap)
    ∧ WellFormed (.vld (vm 0)) = true ∧ WellFormed (.vst (vm 2)) = true ∧ WellFormed (.vgth vg) = true ∧ WellFormed (.vsct vg) = true
    ∧ lanes.vact 1 0 = true
    ∧ (∀ l ∈ (List.range 128).filter (lanes.vact vg.p),
        ((lanes.rd vg.a).toNat + (lanes.vlane vg.b l).toNat) % 2 ^ 32 % 2 ^ 22 % 4 = 0 ∧ ((lanes.rd vg.a).toNat + (lanes.vlane vg.b l).toNat) % 2 ^ 32 % 2 ^ 22 + 4 ≤ lanes.cur.spcap)
    ∧ extraRows (((List.range 128).filter (lanes.vact vg.p)).map (fun l => ((lanes.rd vg.a).toNat + (lanes.vlane vg.b l).toNat) % 2 ^ 32 % 2 ^ 22)) = 0 := by
  refine ⟨⟨rfl, rfl, ?_, by decide, by decide, .inl (by decide), by decide⟩, rfl, rfl, rfl, ⟨rfl, rfl, rfl, rfl, rfl⟩, rfl, rfl, rfl, rfl, rfl, by decide, by decide, by decide, by decide,
    by decide, by decide, by decide +kernel, by decide +kernel⟩
  intro w h
  cases h

/-- The same cell in a team with cell 1, s1 naming a block of cell 1's scratchpad. -/
def afar : State := { inSlot (cell { idle with s := [(1, 0x400100)], p := [(1, 1)] }) 3 with
  cores := [(0, { idle with s := [(1, 0x400100)], p := [(1, 1)] }), (1, idle)]
  sched := { running.sched with teams := [pair] } }

/-- VectorMemory: the same by global addresses of the cell itself and of another cell of its team. -/
theorem witness_VectorMemory_global :
    VecReady afar ∧ afar.engine afar.me 3 = afar.me ∧ afar.cur.banks = [] ∧ afar.Quiet ∧ afar.target afar.me 1 = some 1 ∧ (1 : Nat) ≠ afar.me
    ∧ (let sum : Int := ((afar.rd 1).toNat % 2 ^ 32 : Int) + 64 * (vm 0).ofs.toInt
       sum.toNat / 2 ^ 22 = 1 ∧ sum.toNat % 2 ^ 22 % 64 = 0 ∧ sum.toNat % 2 ^ 22 + 128 * 4 ≤ (afar.core 1).spcap)
    ∧ WellFormed (.vld { vm 0 with g := 1 }) = true ∧ WellFormed (.vst { vm 2 with g := 1 }) = true
    ∧ (∀ l ∈ (List.range 128).filter (afar.vact vg.p),
        let sum := ((afar.rd vg.a).toNat + (afar.vlane vg.b l).toNat) % 2 ^ 32
        afar.target afar.me (sum / 2 ^ 22) = some 1 ∧ sum % 2 ^ 22 % 4 = 0 ∧ sum % 2 ^ 22 + 4 ≤ (afar.core 1).spcap)
    ∧ afar.vact vg.p 0 = true
    ∧ (let sum : Int := ((lanes.rd 1).toNat % 2 ^ 32 : Int) + 64 * (vm 0).ofs.toInt
       sum.toNat / 2 ^ 22 = lanes.me) := by
  refine ⟨⟨rfl, rfl, ?_, by decide, by decide, .inl (by decide), by decide⟩, by decide, rfl, ⟨rfl, rfl, rfl, rfl, rfl⟩, by decide, by decide, by decide, by decide, by decide,
    by decide +kernel, by decide, by decide⟩
  intro w h
  cases h

/-- A MAT operation of cell 0 that is accepted at once, its unfolding unit set for a kernel of one element in FP32. -/
def mat : State := inSlot (cell { idle with fmt := 0, unf0 := 0x0001000100000000, unf1 := 0x11111100001 }) 4
/-- An MMA of one step. -/
def mx : FieldsMX := ⟨1, 0, 1, 0x1000, 0, noTokens⟩
/-- An MMA under way. -/
def matOp (op : Instr) : MatOp :=
  ⟨9, 0, 0, op, 7, 1, 0x40000, 0, 0, ⟨0, 0, 0, 0, 0, 0, 0x0001000100000000, 0x11111100001⟩, true, 0, 0, 0, 0, [], [], [], [], 0, flagNone, 0, 0, 0, 0, [],
    none⟩

theorem mat_ready : MatReady mat noTokens := by
  refine ⟨⟨rfl, rfl, ?_, by decide, by decide, .inl (by decide), by decide⟩, by decide, rfl, by decide⟩
  intro w h
  cases h

/-- MatrixInstructions: each instruction accepted; MABORT of an operation of its own cell; operations about to begin; and one K-step
about to be written. -/
theorem witness_MatrixInstructions :
    (matCheck (.mma mx) mat = none ∧ matCheck (.mmas mx) mat = none ∧ matCheck (.mldacc ⟨1, 0, 0x1000, 0, noTokens⟩) mat = none
      ∧ matCheck (.mstacc ⟨1, 1, 0x1000, 0, noTokens⟩) mat = none ∧ (3 : BitVec 4).toNat ≤ 3)
    ∧ (let m := matOp (.mma mx)
      let s : State := { mat with mat := [m] }
      s.matRoom (s.engine s.me 4) = true ∧ m.onArray = true ∧ m.begun = true ∧ m.held = 0 ∧ m.eng = s.engine s.me 4
        ∧ s.engine s.me 4 = s.me ∧ m.owner = s.me ∧ m.tile = (1 : BitVec 2).toNat ∧ m.done = 0)
    ∧ (let m := { matOp (.mma mx) with begun := false }
      m.held = 0 ∧ m.fault = none ∧ m.begun = false ∧ m.len = 0 ∧ m.op = .mma mx ∧ m.step = 0 ∧ m.opA = [] ∧ m.opB = [] ∧ mat.ueMem = [])
    ∧ (let m := { matOp (.mma mx) with left := [(0, 0)], opA := [(0, [])], opB := [(0, [])] }
      m.onArray = true ∧ m.begun = true ∧ m.left = [(0, 0)] ∧ m.opA = [(0, [])] ∧ m.opB = [(0, [])] ∧ m.tile < 4
        ∧ mapWf accZero (mat.core m.eng).a = true) := by decide +kernel

/-- The XFR slot of cell 0, with a ring header at offset 0x1000: slots of 256 bytes at 0x2000, four of them, RES 3 or as given, and the pointers given. -/
def xfr (wptr rptr : Byte) (res : Byte := 3) : State := { inSlot (cell idle) 5 with
  mem := mapSetAll 0 [] [(spKey 0 0x1001, 0x20), (spKey 0 0x1004, 8), (spKey 0 0x1005, 2), (spKey 0 0x1008, res), (spKey 0 0x100C, wptr), (spKey 0 0x1010, rptr)] }
/-- A live copy from offset 0x100 to 0x200 of cell 0's scratchpad, of one row of 64 bytes, in slot 1 of its engine. -/
def copy : Xfer := { Xfer.idle with busy := true, started := true, rec_ := [0x200, 0x100, 0x200, 0x0001000100000040, 0, 0, 0, 0], sched := [(0, 0)], stage := 1 }
/-- The same into the ring. -/
def ringCopy : Xfer := { copy with rec_ := [0x300, 0x100, 0x1000, 0x0001000100000040, 0, 0, 0, 0] }
/-- A move of the copy with all of it left. -/
def aMove : Move := ⟨0, 1, 0, 64, none, 0x100, 0x200, false, [], 0⟩
/-- The state with one transfer in slot 1. -/
def with1 (s : State) (x : Xfer) : State := { s with xfers := [(1, x)] }

/-- TransferInstructions: an idle slot, a transfer that XSTEP, XKILL reach, a ring with enough to free and one without. -/
theorem witness_TransferInstructions :
    SlotReady (xfr 2 1) 5 ∧ (xfr 2 1).ctx.reissue = false ∧ (xfr 2 1).ceMem = [] ∧ (xfr 2 1).cur.waitsOn noTokens = []
    ∧ (xfr 2 1).slotFree (xfr 2 1).me ((xfr 2 1).engine (xfr 2 1).me 5) 1 = true
    ∧ (xfr 2 1).clusterPending (xfr 2 1).me = false
    ∧ (let x := (with1 (xfr 2 1) copy).xferAt ((with1 (xfr 2 1) copy).slotKey ((xfr 2 1).engine (xfr 2 1).me 5) (1 : BitVec 3).toNat)
      x.busy = true ∧ x.kind = .copy ∧ x.started = true ∧ x.killed = false ∧ x.fault = none ∧ x.nsched ≠ 0)
    ∧ ((xfr 2 1).xferAt 1).busy = false ∧ ((xfr 2 1).xferAt 1).killed = false ∧ ((xfr 2 1).xferAt 1).fault = none
    ∧ (xfr 2 1).slotKey 0 1 = 1 ∧ (with1 (xfr 2 1) { Xfer.idle with killed := true }).slotKey 0 1 = 1
    ∧ (xfr 2 1).ringAt ((xfr 2 1).engine (xfr 2 1).me 5) (64 * (0x40 : BitVec 16).toNat) = some ⟨spKey 0 0x1000, 0, 0x2000, 8, 2, 3, 2, 1⟩
    ∧ (xfr 2 1).ueMem = [] ∧ (xfr 2 1).reads = [] ∧ (xfr 2 1).cur.queue = [] ∧ (xfr 2 1).mat = [] ∧ (0 : BitVec 8).toNat + 1 ≤ ringDiff 2 1 ∧ ringDiff 2 2 < (0 : BitVec 8).toNat + 1 := by
  refine ⟨⟨rfl, rfl, ?_, by decide, by decide, .inl (by decide), by decide⟩, by decide +kernel⟩
  intro w h
  cases h

/-- RingWaitsAndInvalidations: the same ring, an offset with no header, counts on both sides of the number of slots, and the runs that
INVR takes and refuses. -/
theorem witness_RingWaitsAndInvalidations :
    isStoker (xfr 2 1).me = false ∧ (xfr 2 1).ueMem = [] ∧ (xfr 2 1).ringAt 0 0x1000 = some ⟨spKey 0 0x1000, 0, 0x2000, 8, 2, 3, 2, 1⟩
    ∧ (3 : BitVec 8).toNat < 2 ^ 2 ∧ 2 ^ 2 ≤ (4 : BitVec 8).toNat ∧ (xfr 2 1).ctx.checked = false ∧ (xfr 2 1).ringAt 0 0x1040 = none
    ∧ (let s := stoker { idle with s := mapSetAll 0 [] [(21, 5), (22, 0x1FFFFFFFFFFF000), (23, 0x1000), (24, 0x2000)] }
      isStoker s.me = true ∧ s.owed.rpt = 0 ∧ WellFormed (.invr 20 21 22 23) = true
        ∧ ((s.rd 22).toNat < 2 ^ 57 ∧ (s.rd 22).toNat % 4096 = 0 ∧ (s.rd 23).toNat % 4096 = 0 ∧ (s.rd 22).toNat + (s.rd 23).toNat ≤ 2 ^ 57)
        ∧ s.ctx.checked = false ∧ 2 ^ 57 < (s.rd 22).toNat + (s.rd 24).toNat ∧ (s.rd 21).toNat % 4096 ≠ 0) := by decide +kernel

/-- TransferEvents: a move that is due, accesses whose read and whose write end, runs that resolve and that fail, and a finished
transfer. -/
theorem witness_TransferEvents :
    (let s := with1 (xfr 2 1) copy
      let x := s.xferAt 1
      x.live = true ∧ x.kind = .copy ∧ x.ring = false ∧ x.toks = [] ∧ x.sched.getD x.mstart (0, 0) = (0, 0) ∧ x.mstart < x.released
        ∧ x.ringw = false)
    ∧ (let a : Access := ⟨4, 0, 0, [spKey 0 0x100], none, 0, 64, [], none⟩
      let s := with1 (xfr 2 1) { copy with mstart := 1, moves := [aMove], acc := [a] }
      let x := s.xferAt 1
      x.live = true ∧ x.kind = .copy ∧ x.exp = false ∧ a.move = aMove.j ∧ a.host = none ∧ s.ueMem = [] ∧ s.hostUp = true ∧ s.sched.migs = []
        ∧ a.phase = 0 ∧ s.writes = [] ∧ aMove.left = a.len ∧ aMove.ring = none)
    ∧ (let s := with1 (xfr 2 1) { copy with mstart := 1, moves := [aMove] }
      let x := s.xferAt 1
      aMove.zero = false ∧ s.nextWrite 0 = none ∧ s.inFlight 0 < 64 ∧ s.nextMove 0 = some (1, aMove) ∧ s.engineAffords x.owner x.sk = true
        ∧ s.xferFenced x.owner x.sbun false = false
        ∧ (match s.resolve x x.sk x.srec ((x.nextRun aMove).map (x.srcOffset aMove)) false true with
          | (.at_ l none none, 0) => l == (List.range 64).map (fun i => spKey 0 0x100 + i)
          | _ => false) = true)
    ∧ (let m := { aMove with sb := 0x3FFFFE0 }
      let s := with1 (xfr 2 1) { copy with mstart := 1, moves := [m] }
      let x := s.xferAt 1
      s.nextMove 0 = some (1, m) ∧ ((match s.resolve x x.sk x.srec ((x.nextRun m).map (x.srcOffset m)) false true with
        | (.trap _, _) => true
        | _ => false) = true))
    ∧ (let x := { copy with mstart := 1, mdone := 1 }
      x.busy = true ∧ x.started = true ∧ x.acc = [] ∧ x.moves = [] ∧ x.kind = .copy ∧ x.steps = [] ∧ x.killed = false ∧ x.fault = none
        ∧ x.mdone = x.total ∧ 8 * x.side + 1 % 8 = 1) := by decide +kernel

/-- TransferEvents, RingEvents: a killed transfer, and a ring that has room, that is full, and whose next count a finished move holds. -/
theorem witness_RingEvents :
    (let x := { copy with killed := true }
     x.busy = true ∧ x.acc = [] ∧ x.moves = [] ∧ x.kind = .copy ∧ x.steps = [] ∧ x.killed = true ∧ x.fault = none)
    ∧ (let s := with1 (xfr 2 1) { ringCopy with ringw := true }
      (s.xferAt 1).live = true ∧ (s.xferAt 1).ring = true ∧ (s.xferAt 1).kind = .copy ∧ s.sched.migs = []
        ∧ s.ringOf (s.xferAt 1) = .inr ⟨spKey 0 0x1000, 0, 0x2000, 8, 2, 3, 2, 1⟩ ∧ ringDiff 3 1 ≠ 2 ^ 2)
    ∧ (let s := with1 (xfr 2 1 5) { ringCopy with ringw := true }
      (s.xferAt 1).live = true ∧ s.ringOf (s.xferAt 1) = .inr ⟨spKey 0 0x1000, 0, 0x2000, 8, 2, 5, 2, 1⟩ ∧ ringDiff 5 1 = 2 ^ 2 ∧ s.ceMem = [])
    ∧ (let m := { aMove with left := 0, ring := some 2 }
      let s := with1 (xfr 2 1) { ringCopy with mstart := 1, moves := [m] }
      (s.xferAt 1).live = true ∧ (s.xferAt 1).ring = true ∧ (s.xferAt 1).moves = [m] ∧ m.left = 0 ∧ m.ring = some 2) := by decide +kernel

/-- TransferEvents: the engines have nothing to issue beside that full ring. -/
theorem witness_fullRing : ∀ h, (with1 (xfr 2 1 5) { ringCopy with ringw := true }).pumpOne h false = none := by
  intro h
  cases h <;> rfl

/-- Cells 0 and 1 of the team, each with a part of one collective: group 3, a sum of two 32-bit integers. -/
def part (lid seq : Nat) : Collect :=
  ⟨lid, lid, lid, 1, lid, seq, 0, 0, none, 0x40, [2 * 2 ^ 32 + 3 * 2 ^ 16 + 10 * 2 ^ 5, 0x100 + 0x200 * 2 ^ 32, 0x300 + 2 * 2 ^ 32, 0], [0, 1], [], 0, 4, 0, [],
    true, none, false, none⟩
/-- An invalidation of one page of context 5 that has not reached cell 0. -/
def inval : Invr := ⟨1024, 6, 5, 0x1000, 0x1000, [0], [], 0, 0, false⟩
/-- Cell 0 holds a translation of that page. -/
def caching : State := { cell idle with
  invrs := [inval], tcache := [(0, [⟨5, 0x1000, 0x1FFF, 0x8000, true, false, 0, 0x1000, 0x1FFF⟩])] }

/-- CollectiveAndInvalidationEvents: a first and a last arrival, result writes that are over; a translation that INVR drops, and
holders that have all answered. -/
theorem witness_CollectiveAndInvalidationEvents :
    (let n := part 0 5
      let s : State := { cell idle with collects := [n] }
      n.started = true ∧ n.arrived = none ∧ n.toks = [] ∧ s.fences = [] ∧ s.sched.migs = [] ∧ s.ueMem = [] ∧ s.ceMem = [] ∧ n.ef = 10
        ∧ mapGet 0 s.roundEnd n.endKey = 0 ∧ n.table.all entryLocal = true
        ∧ (∃ e ∈ n.table, e % 1024 ≠ n.lid)
        ∧ (∀ e ∈ n.table, e % 1024 ≠ n.lid → s.absent n (e % 1024) = false
          ∧ mapGet 0 s.rounds ((1024 * n.team + e % 1024) * 65536 + n.gid) ≤ n.round))
    ∧ (let m := { part 0 5 with arrived := some 3, data := [1, 2] }
      let n := part 1 6
      m.seq ≠ n.seq ∧ m.like n = true ∧ m.joins n = true ∧ m.lid ≠ n.lid ∧ n.table = [m.lid, n.lid] ∧ n.cop = 0 ∧ n.red = 0 ∧ 0 < n.count
        ∧ n.count ≤ 64)
    ∧ (let x := { Xfer.idle with kind := .collect, busy := true, started := true }
      x.acc = [] ∧ x.steps = [] ∧ x.mdone = 0 ∧ x.killed = false ∧ x.fault = none ∧ (∀ g ∈ caching.ending, 5 ∉ g.left))
    ∧ (0 ∈ inval.reach ∧ caching.ident.fenced.contains (holderDie 0) = false ∧ (caching.cached 0).any inval.removes = true
      ∧ caching.underDropped 0 ((caching.cached 0).filter inval.removes) = [])
    ∧ (let q := { inval with reach := [], wait := [(0, [(7, 0)])] }
      0 ∉ q.reach ∧ q.wait = [(0, [(7, 0)])] ∧ [(7, 0)].any caching.stillFlying = false)
    ∧ (let q := { inval with reach := [] }
      q.reach = [] ∧ q.wait = []) := by decide +kernel

/-- What a bundle of the fetching cell issues. -/
def issuing : List PendOp := [⟨1, false, .addSr 3 1 2 7⟩]

/-- CyclesOfACore: a core that issues, one that a pending register holds, one that stops, one whose hold is over, and one that waits with
its counters fallen and not. -/
theorem witness_CyclesOfACore :
    (let e : Execution := ⟨issuing, [1], []⟩
     let p := (fetching.scalarsFirst fetching 0 e).prepare fetching 0 [1].contains (carriesEret issuing)
     (fetching.core 0).queue = [] ∧ (fetching.core 0).replay = 0 ∧ fetching.throttled 0 = false ∧ fetching.execution 0 = .inr e
        ∧ (fetching.core 0).st = .run ∧ p.holdBefore 0 issuing = 0 ∧ p.bundleCauses issuing [] = [] ∧ p.holdAfter fetching 0 issuing = 0)
    ∧ (let s := fetching.modCore 0 (fun k => { k with flights := [{ landing with sb := true, dest := .scalar 1 }] })
      let e : Execution := ⟨issuing, [1], []⟩
      s.execution 0 = .inr e ∧ s.throttled 0 = false
        ∧ ((s.scalarsFirst s 0 e).prepare s 0 [1].contains (carriesEret issuing)).holdBefore 0 issuing = 5
        ∧ ((s.scalarsFirst s 0 e).prepare s 0 [1].contains (carriesEret issuing)).decodeCauses issuing [] = [])
    ∧ (let s := fetching.modCore 0 (fun k => { k with imem := mapSetAll 0 [] [(0, 0xA0400000), (1, 0x01060846)] })
      let ill : List PendOp := [⟨1, false, .addSr 3 1 2 3⟩]
      let e : Execution := ⟨ill, [1], []⟩
      let p := (s.scalarsFirst s 0 e).prepare s 0 [1].contains (carriesEret ill)
      s.execution 0 = .inr e ∧ s.throttled 0 = false ∧ p.holdBefore 0 ill = 0 ∧ (s.core 0).late = [] ∧ (p.bundleCauses ill []).length = 1)
    ∧ (let s := fetching.modCore 0 (fun k => { k with st := .hold, waitk := 5 })
      let r := s.modCore 0 (fun k => { k with st := .run, waitk := 0 })
      let e : Execution := ⟨issuing, [1], []⟩
      let p := (r.scalarsFirst r 0 e).prepare r 0 [1].contains (carriesEret issuing)
      (s.core 0).st = .hold ∧ (s.core 0).landing = false ∧ issuing ≠ [] ∧ r.execution 0 = .inr e ∧ p.holdBefore 0 issuing = 0
        ∧ p.bundleCauses issuing [] = [] ∧ p.holdAfter r 0 issuing = 0)
    ∧ (let k := { idle with st := .wait, waits := { Waits.none with op := some (.wait 15 15 0 15) } }
      ((cell k).core 0).st = .wait ∧ ((cell k).core 0).rptLeft = 0 ∧ ((cell k).core 0).waits = { Waits.none with op := some (.wait 15 15 0 15) }
        ∧ ((cell k).core 0).counter .cp ≤ (0 : BitVec 4).toNat
        ∧ ¬ ((cell { k with outcnt := [(2, 1)] }).core 0).counter .cp ≤ (0 : BitVec 4).toNat) := by decide +kernel

/-- A state whose cell 0 is stopped, halted or free, with one device result about to land. -/
def resting (st : RunState) : State := cell { idle with st := st, flights := [{ landing with kind := 3, dest := .scalar 4, free := true, sval := 9, lanes := [] }] }
/-- An XKILL of slot 1 in the XFR buffer of cell 0, late beyond its slack. -/
def lateKill : Waiting := ⟨9, 5, .xkill 1, 7, 0, idle.capture, 0, 0, 0, 0, 1, 0, 0, 0, 0, [], none, 0, [], 0, 0, none, false⟩

/-- StepsBesideIssue: a device result at a stopped cell, a late operation, a lane to decide, a barrier of two cells that is complete and one
that is not, and a step to be formed again. -/
theorem witness_StepsBesideIssue :
    (let f : Flight := { landing with kind := 3, dest := .scalar 4, free := true, sval := 9, lanes := [] }
     ((resting .stopped).core 0).st = .stopped ∧ ((resting .stopped).core 0).flights = [f] ∧ f.free = true ∧ f.landed = false ∧ f.rem = 0
       ∧ f.open_ = false ∧ f.kind = 3 ∧ f.eph = false ∧ f.fault = none ∧ f.dest = .scalar 4 ∧ f.skewl = 0)
    ∧ (let s := cell { idle with queue := [lateKill] }
      (s.core 0).queue = [lateKill] ∧ (s.core 0).flights = [] ∧ s.mat = [] ∧ lateKill.due = 0 ∧ lateKill.way = 0 ∧ lateKill.held = false
        ∧ lateKill.slack < lateKill.late ∧ s.slotKey lateKill.eng (1 : BitVec 3).toNat = 1 ∧ lateKill.eng = 0
        ∧ (∀ p ∈ s.cores, p.1 ≠ 0 → ∀ v ∈ p.2.queue, v.slot = 5 → v.eng ≠ 0))
    ∧ (let x : LaneRes := ⟨0, true, flagNone, false, false, false, false, false, true, 0, 7, dyadZero, 0, false, []⟩
      let p := { landing with seq := 3, eph := true, cutc := false, chain := none, lanes := [x] }
      let q := { landing with seq := 4, cutc := true, chain := some 3 }
      let s := cell { idle with flights := [p, q] }
      (s.core 0).flights = [p, q] ∧ (s.core 0).hand.held = [] ∧ p.seq ≠ q.seq ∧ q.landed = false ∧ p.lanes[0]? = some x ∧ x.act = true
        ∧ x.dec = false ∧ x.at_ ≤ q.readsDigit (s.core 0).cyc)
    ∧ (let w : Waits := { Waits.none with op := some (.bar 2) }
      let k := { idle with st := .wait, waits := w, arrived := mapSet false [] 2 true }
      let s : State := { cell k with cores := [(0, k), (1, k)] }
      let t : State := { cell k with cores := [(0, k), (1, idle)] }
      s.images = [] ∧ (s.barrierGroup 0 2).any (fun q => mapGet false (s.core q).arrived 2) = true ∧ (s.barrierGroup 0 2).all (fun q => s.hasArrived q 2) = true
        ∧ (t.barrierGroup 0 2).all (fun q => t.hasArrived q 2) = false ∧ (s.barrierGroup 0 2).length = 2)
    ∧ (let s (n : Nat) : State := { inSlot (cell { idle with skew := 0x020202 }) n with ctx := { (inSlot (cell idle) n).ctx with checked := true } }
      ∀ n, n ∈ [3, 4, 5] → isStoker (s n).me = false ∧ (s n).ctx.checked = true ∧ (s n).ctx.slot = n ∧ (s n).cur.queue = []
        ∧ (s n).cur.skewOf n ≠ 0)
    ∧ (let m := { matOp (.mma mx) with left := [(0, 3)], opA := [(0, [])], opB := [(0, [])] }
      m.eng = 0 ∧ m.inProgress = true) := by decide +kernel

/-- The running module with its power state changed. -/
def powered (f : Power → Power) : State := { running with power := f running.power }

/-- PowerEvents: a rail below its goal, a signature in the table, a pre-throttle on its last cycle, a die to gate, one to ungate, and one
ramping. -/
theorem witness_PowerEvents :
    (let s := powered (fun p => { p with lc := 9, goalLc := 10, lf := 9, goalLf := 9 })
     toward s.power.lc s.power.goalLc ≠ s.power.lc)
    ∧ mapWf Core.reset running.cores = true
    ∧ (let s := powered (fun p => { p with droops := [⟨3, p.signature 3 0, 0, 0⟩] })
      s.power.droopMatch 3 = true)
    ∧ mapGet 0 (powered (fun p => { p with pre := [(3, 1)] })).power.pre 3 = 1
    ∧ (let s := powered (fun p => { p with grade := 1 })
      s.power.ramp = none ∧ s.gates (s.power.gatePlace 0) = true)
    ∧ (let s : State := { powered (fun p => { p with grade := 1 }) with ident := { running.ident with gated := 0x80 } }
      s.gates (s.power.gatePlace 0) = false ∧ s.gates (s.power.gatePlace 1) = true)
    ∧ (let s := powered (fun p => { p with gatedBy := [3], needed := [3] })
      s.power.ramp = none ∧ s.power.gatedBy = [3] ∧ s.power.needed.contains 3 = true ∧ s.power.hot.contains 3 = false)
    ∧ (let s := powered (fun p => { p with ramp := some (3, true), rampAt := 1 })
      s.power.ramp = some (3, true) ∧ s.now < s.power.rampAt + 150000)
    ∧ (let s : State := { powered (fun p => { p with ramp := some (3, true), rampAt := 1 }) with time := 150001 * nsUnit }
      s.power.ramp = some (3, true) ∧ s.power.rampAt + 150000 ≤ s.now) := by decide +kernel

/-- PowerOnAndOff: before and after the boot; samples below the limit, at it and at the trip; and an emergency save long below. -/
theorem witness_PowerOnAndOff :
    State.reset.ident.booted = false ∧ running.ident.booted = true ∧ running.power.powered = true
    ∧ (let s : State := { running with sched := { running.sched with thmig := 95 } }
      419 < 4 * s.power.thsave ∧ (419 : Nat) < 460 ∧ bit s.sched.thmig 8 = false)
    ∧ 4 * running.power.thsave ≤ 420 ∧ running.power.hot.contains (5 / 128) = false
    ∧ (let s : State := { powered (fun p => { p with saving := true, below := 1 }) with time := 10000001 * nsUnit }
      s.power.saving = true ∧ s.power.below ≠ 0 ∧ s.power.below + 10000000 ≤ s.now) := by decide +kernel

/-- A curve of two points. -/
def aCurve : Curve := ⟨0, 100, 900, 0, 0, 0, 6000, [(100, 5000), (500, 4000)]⟩
/-- The running module at a time in ns, with its power state changed. -/
def atTime (ns : Nat) (f : Power → Power) : State := { powered f with time := ns * nsUnit }

/-- CurvesAndDamper: no submission and one; a pending curve before and after its start; a curve at its first and second points and past its
end. -/
theorem witness_CurvesAndDamper :
    running.acting 0 = true ∧ running.power.curveSub = none ∧ (powered (fun p => { p with curveSub := some 64 })).power.curveSub = some 64
    ∧ (let s := atTime 99 (fun p => { p with pending := some aCurve })
      s.power.pending = some aCurve ∧ s.utc < aCurve.notBefore)
    ∧ ((aCurve.notBefore : Int) ≤ (atTime 100 (fun p => { p with pending := some aCurve })).utc)
    ∧ (let s := atTime 500 (fun p => { p with curve := some aCurve, passed := 1 })
      let n := aCurve.points.countP (fun p => decide ((p.1 : Int) ≤ s.utc))
      n ≠ s.power.passed ∧ s.utc < aCurve.notAfter)
    ∧ (let s := atTime 900 (fun p => { p with curve := some aCurve, passed := 1 })
      let n := aCurve.points.countP (fun p => decide ((p.1 : Int) ≤ s.utc))
      n ≠ s.power.passed ∧ (aCurve.notAfter : Int) ≤ s.utc)
    ∧ running.power.curve = none ∧ (running.hbmBytes 0x40 3596).isSome = true ∧ running.hbmBytes (2 ^ 41) 3596 = none := by decide +kernel

/-- The running module with one team, and a context 5: range entry 0 maps the page at 0x1000 to 0x8000, and layout record 0 is that page. -/
def mapped (t : Team) : State := { cell idle with
  mem := mapSetAll 0 [] [(0x20000, 7), (0x20001, 0x10), (0x20009, 0x10), (0x20011, 0x80), (0x20018, 5), (0x30001, 0x10), (0x30009, 0x10)]
  sched := { running.sched with teams := [t], nextId := 2, cx := mapSetAll 0 [] [(0, 0x100010005), (2, 0x0010000000020000), (3, 0x30000)] } }

/-- ParkEvents: no team; a park asked for long ago and one just asked for, with cells that run, have halted, have stopped, and move; a team that
has yielded and one out of its cells without a hamper, in a park and in an emergency for which the park tier has room and has none; and
parked teams with a hamper, without records and with one that lies in HBM4. -/
theorem witness_ParkEvents :
    running.team 1 = none
    ∧ (let t := { pair with state := .leaving, dep := .park, asked := 1 }
     let s : State := { mapped t with time := 50001 * nsUnit, cores := [(0, idle), (1, { idle with st := .stopped })] }
     s.team 1 = some t ∧ t.asked + 50000 ≤ s.now ∧ (mapped t).now < t.asked + 50000 ∧ 0 ∈ t.workers ∧ 1 ∈ t.workers ∧ 2 ∉ t.workers
       ∧ (s.core 0).st ≠ .halted ∧ (s.core 0).st ≠ .stopped ∧ (s.core 1).st = .stopped ∧ s.movingCell 1 = false
       ∧ ({ s with sched := { s.sched with migs := [⟨1, 1, 3, 0⟩] } } : State).movingCell 1 = true ∧ s.hamperDue t = false)
    ∧ (let t := { pair with state := .leaving, dep := .emergency, asked := 1 }
      let s : State := { mapped t with cores := [(0, { idle with st := .stopped }), (1, { idle with st := .halted })] }
      s.team 1 = some t ∧ s.hasYielded t = true ∧ s.hamperDue t = true ∧ s.isHole (0x20000010000 + 0x1000) = true
        ∧ ({ s with ident := { s.ident with parksize := 1 } } : State).isHole (0x20000010000 + 0x1000) = false)
    ∧ (let t := { pair with state := .out, dep := .park, cells := [] }
      (mapped t).team 1 = some t ∧ t.hamper = 0 ∧ (mapped t).hamperDue t = true ∧ (mapped t).hamperKey = none)
    ∧ (let t := { pair with state := .out, dep := .park, cells := [], hamper := 0xF000000000, recs := [0] }
      let s := mapped t
      let x : Transl := ⟨5, 0x1000, 0x1FFF, 0x8000, true, true, 7, 0x1000, 0x1FFF⟩
      s.team 1 = some t ∧ t.hamper ≠ 0 ∧ t.recs = [0] ∧ s.layoutRecord t.asid 0 = some [0x1000, 0x1000, 0, 0]
        ∧ s.firmTransl t.asid 0x1000 = .inr x ∧ regionOf x.pa = .hbm ∧ ({ t with recs := [] } : Team).recs = []) := by decide +kernel

/-- A waiting launch of one cell, pinned to cell 3. -/
def pinned : Team := { pair with cells := [], pins := [3], size := 1, state := .waiting, desc := 0x4000100 :: List.replicate 19 0 }
/-- The running module in minor frame 1, ready, with its roles served, cell 3 sampled, and one team. -/
def framing (t : Team) : State := { running with
  time := 1000 * nsUnit, power := { running.power with sampled := [3] }, sched := { running.sched with teams := [t], nextId := 2 } }
/-- The cells of the team stand before their first cycle. -/
def unbegun : Core := { idle with st := .free, rcyc := 0 }
/-- A team's state with cells 0 and 1 alike. -/
def both (t : Team) (k : Core) (ns : Nat) : State := { mapped t with cores := [(0, k), (1, k)], time := ns * nsUnit }

/-- TeamEvents: an image read and one refused, a team about to begin, one whose cells have halted, one whose cells wait for their WSWAP, one
that another launch wants to follow, and one asked long ago. -/
theorem witness_TeamEvents :
    (let t := { pair with state := .loading, cells := [0], size := 1, desc := [0, 0x1000, 1] ++ List.replicate 17 0 }
     (mapped t).team 1 = some t ∧ t.saved = [] ∧ (match (mapped t).readImage t with
       | .inr _ => true
       | .inl _ => false) = true ∧ (match ({ mapped t with sched := { (mapped t).sched with cx := [] } } : State).readImage t with
       | .inr _ => false
       | .inl _ => true) = true ∧ t.dep = .none ∧ t.started = 0 ∧ ((mapped t).core 0).ctxt = 0
       ∧ (((mapped t).modCore 0 (fun k => { k with ctxt := 6 })).core 0).ctxt ≠ t.asid)
    ∧ (let s := both pair unbegun 400
      s.team 1 = some pair ∧ pair.state = .resident ∧ pair.cells.any (fun c => (s.core c).st == .free) = true ∧ pair.placed + pair.loadTime + 360 ≤ s.now
        ∧ (∀ c ∈ pair.workers, (s.core c).yreq = false)
        ∧ (∀ c ∈ pair.cells, (s.core c).st = .free ∧ (s.core c).waits = Waits.none ∧ (s.core c).waitk = 0 ∧ (s.core c).rptLeft = 0)
        ∧ ((s.modCore 1 (fun k => { k with st := .halted })).core 1).st ≠ .free)
    ∧ (both pair { idle with st := .halted } 400).allHalted pair = true
    ∧ (let t := { pair with state := .ending }
      (both t { idle with st := .halted } 400).team 1 = some t ∧ t.fault = none ∧ (both t { idle with st := .halted } 400).atRest t = true)
    ∧ (let s := both pair { idle with st := .wait, wswap := 1, waitCyc := 1024, waits := { Waits.none with op := some .waitpred } } 400
      s.swapDue pair = true ∧ s.sched.migs = [] ∧ (∀ c ∈ pair.cells, s.drained c = true ∧ (s.core c).quiet = true))
    ∧ (let u := { pinned with id := 2, asked := 1, pins := [0] }
      let s : State := { both pair idle 100000 with
        sched := { running.sched with teams := [pair, u], nextId := 3 }, power := { running.power with sampled := [0, 1] } }
      s.team 1 = some pair ∧ s.beforeFirst pair = false
        ∧ pair.placed + pair.loadTime + max (1000 * max 16 (s.sched.slice % 2 ^ 16)) (2 * pair.loadTime) ≤ s.now ∧ s.wanted pair = true)
    ∧ (let t := { pair with state := .leaving, dep := .slice, asked := 1 }
      let s := both t idle 60000
      s.team 1 = some t ∧ t.asked + 1000 * max 1 (s.sched.slice / 2 ^ 16 % 2 ^ 16) ≤ s.now ∧ (∃ c ∈ t.workers, (s.core c).st = .run)) := by decide +kernel

/-- MinorFrames: a launch whose pinned cell is free, a loaded one, one that is over with a signal and without; the other minor frames. -/
theorem witness_MinorFrames :
    (let s := framing pinned
     s.serves = true ∧ s.minorOf = 1 ∧ s.tooHot = false ∧ s.sched.qctl = none ∧ s.sched.bells = [] ∧ s.sched.polls = [] ∧ s.sched.graphs = [] ∧ pinned.hasPred = false ∧ pinned.id ∉ s.sched.tried ∧ pinned.dep ≠ .variant
       ∧ pinned.graph = none ∧ s.power.grade = 0 ∧ s.choose pinned = some [3]
       ∧ (s.core 3).ctxt = 0 ∧ ((s.modCore 3 (fun k => { k with ctxt := 6 })).core 3).ctxt ≠ pinned.asid)
    ∧ (let t := { pair with state := .ended, sigAddr := 0x1020, cells := [] }
      let s : State := { framing t with mem := (mapped t).mem, sched := { (mapped t).sched with teams := [t] } }
      s.serves = true ∧ s.writes = [] ∧ regionOf 0x8020 ≠ .host ∧ 0x8020 % 32 = 0 ∧ s.firmRun t.asid t.sigAddr 32 true = .inr [(0x8020, 32)] ∧ t.hasPred = false)
    ∧ loadedOne.hamper = 0 ∧ loadedOne.state = .loaded ∧ pair.sigAddr = 0
    ∧ (let s : State := { framing pinned with ident := { running.ident with ready := false }, time := 15000 * nsUnit }
      s.serves = false ∧ s.minorOf = 15 ∧ s.ident.booted = true)
    ∧ (let s : State := { framing pinned with ident := { running.ident with ready := false } }
      s.serves = false ∧ s.minorOf ≠ 15) := by decide +kernel

/-- The running module whose queue table lies at 0x40000, with queue 2 in the state given, and a command. -/
def commanding (st : Byte) (q : Option Nat) : State := { running with
  mem := mapSetAll 0 [] [(0x40046, 0x40), (0x40054, st)], sched := { running.sched with qtbase := 0x40000, qctl := q, cx := [(0, 0x10005)] } }

/-- QueueCommands: each command, for a queue that is active and one that is not, a code of 0 and another; and a queue destroyed with all of
its launches closed. -/
theorem witness_QueueCommands :
    (commanding 0 none).sched.qtbase % 64 = 0 ∧ (commanding 0 none).serves = true
    ∧ ({ commanding 0 none with ident := { running.ident with ready := false } } : State).serves = false ∧ (commanding 0 (some (2 + 4096))).enableCode 2 = 0 ∧ (commanding 1 (some (2 + 4096))).enableCode 2 ≠ 0
    ∧ (commanding 0 (some (2 + 4096 * 2))).queueState 2 ≠ 1 ∧ (commanding 1 (some (2 + 4096 * 2))).queueState 2 = 1
    ∧ (let t := { pinned with queue := 2 }
      t.started = 0 ∧ t.flags = 0 ∧ t.state = .waiting)
    ∧ (let s : State := { commanding 2 (some (2 + 4096 * 2)) with
        sched := { (commanding 2 (some (2 + 4096 * 2))).sched with destroying := [2], teams := [{ pair with queue := 2, state := .closed }] } }
      2 ∈ s.sched.destroying ∧ s.allClosed 2 = true ∧ s.sched.awaits 2 = false
        ∧ ({ s.sched with qctl := none, qdone := false } : Sched).awaits 2 = true) := by decide +kernel

/-- CommandsAndKeys: a cell that takes a request and one that does not, one that takes an image, and keys staged for a slot in use and not. -/
theorem witness_CommandsAndKeys :
    (cell idle).takesRequest 0 = true ∧ ((cell idle).core 0).st ≠ .stopped ∧ (cell idle).takesRequest 3 = false
    ∧ (let s : State := { cell { idle with st := .stopped } with sched := { running.sched with teams := [pair], migs := [⟨1, 0, 3, 0⟩] } }
      s.takesRequest 0 = true ∧ s.movingCell 0 = true)
    ∧ (cell { idle with st := .stopped }).takesImage 0 = true ∧ (cell idle).takesImage 0 = false
    ∧ (let s : State := { cell idle with sched := { running.sched with keyctl := some (5 + 256) } }
      s.keyInUse 5 = false ∧ s.sched.keyctl = some (5 + 256))
    ∧ ({ cell idle with sched := { running.sched with keyctl := some (5 + 512) } } : State).sched.keyctl = some (5 + 512)
    ∧ (with1 (xfr 2 1) { copy with srec := [0, 0, 5 * 16 + 8, 0] }).keyInUse 5 = true := by decide +kernel

/-- RegisterWindows: no queue active and one; an order of all dies and one of none; a host that reaches HBM4 and does not reach a hole. -/
theorem witness_RegisterWindows :
    running.anyActive = false ∧ gateOrderOk 0x053977 = true ∧ gateOrderOk 0 = false ∧ running.hostUp = true ∧ running.hostReaches 0x1000 8 = true
    ∧ running.hostReaches (2 ^ 46) 8 = false
    ∧ ({ running with links := [(18, { Link.reset with up := false })] } : State).hostUp = false := by decide +kernel
/-- RegisterWindows: a table with an active queue. -/
theorem witness_activeQueue : (commanding 1 none).anyActive = true := by decide +kernel

/-- A fault of a class that waits for a boundary, and the record of one. -/
def aCause (cls : Nat) : Cause := lateCause 3 0 9 2 .nopS (trapOf cls 0) true
def aRecord : FaultRec := ((cell idle).record 0 (aCause 1) 0)

/-- StopEvents: a forced stop, faults that no handler takes and one that the handler takes, a hold past its limit, a halted and a stopped
cell with a fault, and a team with a fault, before and after its cells rest. -/
theorem witness_StopEvents :
    (let s := cell { idle with stopReq := some 2 }
     (s.core 0).stopReq = some 2 ∧ (s.core 0).stoppable = true ∧ (s.core 0).late = [] ∧ s.begun 0 = true ∧ isStoker 0 = false)
    ∧ (let s := fetching.modCore 0 (fun k => { k with stopReq := some 2 })
      (s.core 0).stoppable = true ∧ s.begun 0 = true ∧ s.failing 0 = none)
    ∧ (let s := fetching.modCore 0 (fun k => { k with stopReq := some 2, imem := mapSetAll 0 [] [(0, 0xA0400000), (1, 0x01060846)] })
      (s.core 0).stopReq = some 2 ∧ (s.core 0).stoppable = true ∧ (s.core 0).late = [] ∧ s.begun 0 = true ∧ (s.core 0).st ≠ .wait
        ∧ (s.core 0).landing = false ∧ (s.failing 0).isSome = true)
    ∧ (let s := cell { idle with late := [aCause 1] }
      (s.core 0).late = [aCause 1] ∧ (s.core 0).dueMore = 0 ∧ (s.core 0).handles (aCause 1).cls = false ∧ s.teamOf 0 = some pair ∧ pair.fault = none ∧ s.team pair.id = some pair)
    ∧ (cell { idle with late := [aCause 7], hand := { idle.hand with hvec := 0x10040 } } |>.core 0 |>.handles (aCause 7).cls) = true
    ∧ (let s := cell { idle with holdCyc := 16777216, st := .hold }
      16777216 ≤ (s.core 0).holdCyc ∧ (s.core 0).stoppable = true ∧ (s.core 0).handles 0x0B = false)
    ∧ ((cell { idle with late := [aCause 1], st := .halted }).core 0).st = .halted
    ∧ ((cell { idle with late := [aCause 1], st := .stopped, rec_ := some aRecord }).core 0).rec_ = some aRecord
    ∧ (let t := { pair with fault := some aRecord }
      (mapped t).team 1 = some t ∧ t.state = .resident ∧ (mapped t).collects = [] ∧ (∃ w ∈ t.workers, ((mapped t).core w).st ≠ .halted))
    ∧ (let t := { pair with fault := some aRecord, state := .ending }
      let s := both t { idle with st := .stopped } 0
      s.team 1 = some t ∧ s.atRest t = true ∧ s.dumpPlace t.asid = none) := by decide +kernel

/-- A cell before a bundle with IB = 1. -/
def before : Core := { idle with imem := mapSetAll 0 [] [(0, 0xA0001000)] }

/-- DepartureEvents: a yield that is due, with and without a forced epilogue; a landed one; a cell that may move, and one moved; images that
a stoker waits for; and a cell to clear. -/
theorem witness_DepartureEvents :
    (let s := cell { before with yreq := true }
     s.yieldDue 0 = true ∧ (s.core 0).landing = false ∧ (s.core 0).forcesEpilogue = false)
    ∧ (let s : State := { cell idle with cores := [(3, { before with yreq := true, landing := true, st := .hold })] }
      (s.core 3).landing = true ∧ (s.core 3).quiet = true ∧ s.drained 3 = true ∧ s.teamOf 3 = none ∧ bit (s.core 3).ystat.toNat 33 = false)
    ∧ (let s := cell { before with yreq := true, ycfg := 0x100000040, loops := [⟨2, 5, 0, 9⟩] }
      s.yieldDue 0 = true ∧ (s.core 0).ycfg.toNat / 2 ^ 32 % 8 = 1 ∧ 1 ≤ (s.core 0).loops.length ∧ (s.core 0).loops.reverse[1 - 1]? = some ⟨2, 5, 0, 9⟩)
    ∧ (let s : State := { cell { before with migReq := some 3, bind := 0xFFF } with power := { running.power with sampled := [3] } }
      (s.core 0).migReq = some 3 ∧ s.teamOf 0 = some pair ∧ s.atIb 0 = true ∧ s.movable pair 0 = true ∧ s.cellIdle 3 = true
        ∧ (s.core 0).spcap ≤ (s.core 3).spcap)
    ∧ (let m : Migration := ⟨1, 0, 3, 0⟩
      let s : State := { cell { before with st := .stopped } with
        sched := { running.sched with teams := [pair], migs := [m] }, time := 10000000 * nsUnit }
      s.sched.migs = [m] ∧ m.source = 0 ∧ 0 ≠ m.target ∧ s.team m.team = some pair ∧ m.since * nsUnit + s.moveTime 0 ≤ s.time ∧ s.writes = []
        ∧ s.reads = [])
    ∧ (let s : State := { running with cores := [(1024, { idle with st := .wait, waits := { Waits.none with op := some (.ctxs 1 2), arg := 3 } })] }
      (s.core 1024).waits = { Waits.none with op := some (.ctxs 1 2), arg := 3 } ∧ 3 % 2 ^ 64 % 2 ^ 10 = 3 ∧ 3 % 2 ^ 20 / 2 ^ 16 = 0 ∧ s.mayLeave 3 = true)
    ∧ ({ Waits.none with op := some (.ctxr 1 2), arg := 3 } : Waits).arg = 3
    ∧ 3 ∈ ({ running.sched with clearing := [3] } : Sched).clearing := by decide +kernel

/-- The running module with its firmware changed. -/
def firmware (f : Firm → Firm) : State := { running with firm := f running.firm }
/-- A hand-over of role 1 to stoker 3. -/
def handover (phase : Nat) : Handover := ⟨1, 0x40, phase, 3, 1, 4096, Image.none, Image.none, 0⟩

/-- FirmwareEvents: no hand-over and one in each phase, with a standby and without, heartbeats of all roles and of two, a role that moves,
and quotes. -/
theorem witness_FirmwareEvents :
    running.firm.fbusy = false ∧ (5 : Nat) % 4 ≠ 3 ∧ (firmware (fun f => { f with fbusy := true })).firm.fbusy = true
    ∧ (firmware (fun f => { f with fwsub := some (handover 1) })).standbys.head? = some 3
    ∧ (firmware (fun f => { f with fwsub := some (handover 1), dead := [3, 4, 5] })).standbys.head? = none
    ∧ (handover 5).hbs = 4096 ∧ ({ handover 5 with hbs := 9 } : Handover).hbs < 4096 ∧ bit running.firm.evring 0 = false
    ∧ (firmware (fun f => { f with fallback := some (handover 5) })).firm.fallback = some (handover 5)
    ∧ (let s := firmware (fun f => { f with beat := [(0, true), (1, true), (2, true)] })
      s.ident.booted = true ∧ s.ident.bootfail = false ∧ s.firm.fwsub = none ∧ s.firm.moving = [] ∧ s.firm.fallback = none
        ∧ s.firm.fresh = [] ∧ ∀ r, r < 3 → mapGet false s.firm.beat r = true)
    ∧ (let s := firmware (fun f => { f with beat := [(0, true), (2, true)], missed := [(1, 1)] })
      (∀ q, q < 3 → mapGet false s.firm.beat q = (q != 1)) ∧ mapGet 0 s.firm.missed 1 = 1 ∧ s.standbys.head? = some 3)
    ∧ (firmware (fun f => { f with beat := [(0, true), (2, true)], missed := [(1, 1)], dead := [3, 4, 5] })).standbys.head? = none
    ∧ (firmware (fun f => { f with moving := [(1, some 3)] })).firm.moving = [(1, some 3)]
    ∧ (firmware (fun f => { f with quote := some 0x1000 })).firm.quote = some 0x1000 ∧ running.firm.quote = none ∧ running.acting 0 = true
    ∧ (firmware (fun f => { f with quote := some 0x1000, sigLeft := 0 })).firm.sigLeft = 0 ∧ running.firm.sigLeft ≠ 0 ∧ 0x1000 % 4096 = 0 := by decide +kernel
/-- FirmwareEvents: the quote's bytes lie in HBM4. -/
theorem witness_quotePlace : (List.range 5364).all (fun i => !running.isHole (0x1000 + i)) = true := by decide +kernel

/-- The running module with link 20 as given. -/
def linked (l : Link) : State := { running with links := [(20, l)] }
/-- A link that is up. -/
def upLink : Link := { Link.reset with up := true }

/-- LinkEvents: watches, a host that is away with an access too old, flits that are good and bad, one that the sender has sent too often, a
link that retrains, spare lanes, and a die to isolate. -/
theorem witness_LinkEvents :
    running.signalDone 0x20 = false ∧ ({ running with mem := [(0x3C, 1)] } : State).signalDone 0x20 = true ∧ running.hostUp = true
    ∧ (let a : Access := ⟨4, 0, 0, [], none, 0, 64, [], some 0⟩
      let s : State := { with1 (cell idle) { copy with acc := [a] } with links := [], time := 10000000 * nsUnit }
      s.hostUp = false ∧ (s.xferAt 1).busy = true ∧ (s.xferAt 1).fault = none ∧ a ∈ (s.xferAt 1).acc ∧ a.host = some 0
        ∧ max 0 (mapGet Link.reset s.links 18).since + 10000000 ≤ s.now)
    ∧ (upLink.up = true ∧ upLink.held = [] ∧ upLink.awaited = [] ∧ 0x4000 % 4096 = upLink.nextIn ∧ 0x4000 / 2 ^ 14 % 2 = 1 ∧ 0x8000 / 2 ^ 14 % 2 = 0
      ∧ 0x4000 / 2 ^ 15 % 2 = 0 ∧ 0xC000 / 2 ^ 15 % 2 = 1 ∧ 0x60004000 / 2 ^ 28 % 16 ≤ 6 ∧ 6 < 0x70004000 / 2 ^ 28 % 16)
    ∧ (let f : Flit := ⟨7, 0, 0, 3⟩
      let l := { upLink with window := [f] }
      l.sentFlits.find? (fun f => f.seq == 7 % 4096) = some f ∧ f.sent < (linked l).retryLimit ∧ (linked l).retryLimit ≤ 8)
    ∧ (let s : State := { running with links := [] }
      s.retrains 18 = true ∧ s.firm.sigHeld = [])
    ∧ (linked Link.reset).retrains 20 = true ∧ (linked upLink).retrains 20 = false
    ∧ upLink.half = false ∧ upLink.repair = none ∧ upLink.spare < spareLanes 20 ∧ (∀ f ∈ upLink.sentFlits, f.sent = 0)
    ∧ (let l := { upLink with errs := [(3, 1025)] }
      (linked l).laneOver 20 (linked l).repairLimit = some 3 ∧ ((linked l).laneOver 20 (linked l).dropLimit).isSome = true
        ∧ (linked upLink).laneOver 20 (linked upLink).repairLimit = none ∧ (linked upLink).laneOver 20 (linked upLink).dropLimit = none)
    ∧ ({ upLink with repair := some [7], failing := some 3 } : Link).failing = some 3
    ∧ (∃ f ∈ ({ upLink with window := [⟨7, 0, 0, 3⟩] } : Link).sentFlits, f.sent ≠ 0)
    ∧ (∀ f ∈ ({ upLink with repair := some [7], window := [⟨8, 0, 0, 0⟩] } : Link).window, f.seq ∉ [7])
    ∧ bit running.ident.dieok 3 = true ∧ 3 ∉ running.ident.fenced ∧ running.writes = [] ∧ running.collects = []
    ∧ 3 ∈ ({ running.ident with fenced := [3] } : Ident).fenced ∧ (∃ c ∈ pair.cells, dieOf c = 0) := by decide +kernel

/-! ## Worked examples of the spec -/

/-- The BX8 group of 04_formats.md: SIDX 2, GAP 4, RNE; its header, its first codes, codes 32 and 33, and INX, UNF and SCU. -/
theorem test_bx8_group :
    let xs := [0x40A00000, 0xBF400000, 0x3DD00000, 0x3E99999A, 0xBA83126F] ++ List.replicate 27 0 ++ [0x2B800000, 0xAB000000] ++ List.replicate 94 0
    let q := quantise 2 2 4 [0x3F803F803F803F80, 0x3F803F803F803F80, 0x3F803F803F803F80, 0x3F803F803F803F80] .rne (xs.map (floatValue 0))
    q.1 = 0x85D02 ∧ q.2.1.take 6 = [0xA8, 0xC6, 0x0D, 0x26, 0x40, 0] ∧ (q.2.1.drop 32).take 2 = [0, 0x40] ∧ q.2.2 = 0x58 := by decide +kernel

/-- The K-step of 03_digits.md: products that sum to 2^(−30) leave an entry at 1.0, inexact; products that sum to 2^(−28) set its last digit. -/
theorem test_k_step :
    let one := floatValue 0 0x3F800000
    let entry : AccEntry := BitVec.ofNat 48 (129 * 2 ^ 40 + 2 ^ 35)
    kStepEntry .rne entry [(floatValue 0 0x30800000, one)] = (entry, flagInx)
    ∧ kStepEntry .rne entry [(floatValue 0 0x31800000, one)] = (entry ||| 1, 0) := by decide +kernel

/-- The scalar result that an instruction puts in flight on cell 0, whose registers 1 and 2 hold x and y. -/
def result (i : Instr) (x y : Word) : Word :=
  match exec i (regs x y) with
  | .next t => ((t.core 0).flights.getLast?.map Flight.sval).getD 0
  | _ => 0

/-- MULH of 16_ref_mabort_mzero.md: (−2^63) × 4 gives −2 in i64, 2^63 × 4 gives 2 in n64. -/
theorem test_mulh : result (.mulh 7 1 2 7) 0x8000000000000000 4 = BitVec.ofInt 64 (-2)
    ∧ result (.mulh 7 1 2 11) 0x8000000000000000 4 = 2 := by decide +kernel

/-- R333: by zero the quotient is all ones and the remainder the dividend; −7 by 2 truncates; an i8 gives its sign to the upper bits. -/
theorem test_divide : result (.div 3 1 2 7) 9 0 = BitVec.allOnes 64 ∧ result (.rem 3 1 2 7) 9 0 = 9
    ∧ result (.div 3 1 2 7) (BitVec.ofInt 64 (-7)) 2 = BitVec.ofInt 64 (-3) ∧ result (.rem 3 1 2 7) (BitVec.ofInt 64 (-7)) 2 = BitVec.ofInt 64 (-1)
    ∧ result (.div 3 1 2 4) 0x80 0xFF = 0xFFFFFFFFFFFFFF80 := by decide +kernel

/-- R383, R385: a count of the width clears; SRA fills with the sign. -/
theorem test_shifts : result (.shlSr 3 1 2 10) 1 32 = 0 ∧ result (.shlSr 3 1 2 10) 1 31 = 0x80000000
    ∧ result (.sraSr 3 1 2 7) 0x8000000000000000 64 = BitVec.allOnes 64 := by decide +kernel

/-- R29: a step of the fetching cell runs its ADD, whose result is in flight, and the PC passes the bundle's two words. -/
theorem test_step_add : (match step fetching with
    | .next t => (t.core 0).pc == 2 && ((t.core 0).flights.map (fun f => (f.dest, f.sval)) == [(.scalar 3, 5)])
    | _ => false) = true := by decide +kernel

/-- R168: behind an older write that has not performed, a store joins the held release of its cell to the same bytes; one to other bytes does
not. -/
theorem test_merge :
    let x : PendWrite := { storing .cluster with seq := 3, bytes := [(spKey 9 0, 1)] }
    let r : PendWrite := { storing .queue with seq := 4, bytes := [(spKey 9 8, 1)], hold := some 4 }
    let w : PendWrite := { storing .queue with seq := 5, bytes := [(spKey 9 8, 2)], slot := 1 }
    let v : PendWrite := { w with bytes := [(spKey 9 9, 2)] }
    let s (l : List PendWrite) : State := { cell idle with writes := l }
    (match exec (.writeAdvance 5) (s [x, r, w]) with
      | .next t => t.writes.map PendWrite.bytes == [[(spKey 9 0, 1)], [(spKey 9 8, 2)], []]
      | _ => false) = true
    ∧ (s [x, r, v]).mergePartner v = none := by decide +kernel

/-- R94, R345: a VLD of offsets 320 to 831 finds a bank taken by a scalar access at 2,368 (bank 5), by a remote one at 832 not, and by a
scalar access to its own bytes not. -/
theorem test_banks :
    let w : Waiting := lanes.waitingOp (.vld (vm 0)) (word (lanes.vmAddr (vm 0))) 0 0 noTokens none 0
    let s (l : List (Nat × Nat)) : State := { lanes with taken := l }
    (s [(spKey 0 2368, 8)]).banksFree 0 w = false ∧ (s [(spKey 0 832, 0)]).banksFree 0 w = true
    ∧ (s [(spKey 0 328, 8)]).banksFree 0 w = true ∧ (s [(spKey 0 328, 0)]).banksFree 0 w = false := by decide +kernel

end Sys2Proof.Tests
end

/-! ## The identifiers of cells (R15)

The model has no function that builds a CID: it keeps the number and reads its parts by `dieOf`, `clusterOf` and `bits`. The three
bit fields of any number are tied to these first, and then each part of `die × 128 + cluster × 8 + cell` is read back. -/
namespace Sys2Proof.Machine

/-- Bits 9:7 hold the die of any number, modulo the eight dies. -/
theorem bits_9_7_eq_dieOf_mod (n : Nat) : bits n 9 7 = dieOf n % 8 := by
  simp [bits, dieOf]

/-- Bits 6:3 hold the cluster's number within its die. -/
theorem bits_6_3_eq_clusterOf_mod (n : Nat) : bits n 6 3 = clusterOf n % 16 := by
  simp [bits, clusterOf]

/-- Bits 2:0 hold the cell's number within its cluster. -/
theorem bits_2_0_eq_mod (n : Nat) : bits n 2 0 = n % 8 := by
  simp [bits]

/-- Every number is put together again from its die, its cluster in the die and its cell in the cluster. -/
theorem dieOf_clusterOf_cell_recompose (n : Nat) : n = dieOf n * 128 + clusterOf n % 16 * 8 + n % 8 := by
  unfold dieOf clusterOf
  omega

theorem dieOf_lt_of_lt {n : Nat} (hn : n < 1024) : dieOf n < 8 :=
  Nat.div_lt_of_lt_mul hn

theorem dieOf_cid {d c k : Nat} (hc : c < 16) (hk : k < 8) : dieOf (d * 128 + c * 8 + k) = d := by
  unfold dieOf
  omega

theorem clusterOf_cid {d c k : Nat} (hk : k < 8) : clusterOf (d * 128 + c * 8 + k) = 16 * d + c := by
  unfold clusterOf
  omega

/-- CELLID, register 0x006, reads the core's own number, in every state and from every reader. -/
@[simp] theorem cellReg_cellid (s : State) (c : Nat) (self : Bool) : s.cellReg c 0x006 self = some (BitVec.ofNat 64 c) := by
  simp [State.cellReg, word]

/-- Settles O23: each part of a CID is read back by the model's accessors, and every number below 1,024 is put together from its parts. -/
theorem cellIdentifiers : Obligations.CellIdentifiers := by
  unfold Obligations.CellIdentifiers
  refine ⟨fun d c k hd hc hk => ?_, fun n hn => ?_, by decide⟩
  · have hdie : dieOf (d * 128 + c * 8 + k) = d := dieOf_cid hc hk
    have hcluster : clusterOf (d * 128 + c * 8 + k) = 16 * d + c := clusterOf_cid hk
    refine ⟨by omega, hdie, hcluster, ?_, ?_, ?_, fun s => cellReg_cellid s _ true⟩
    · rw [bits_9_7_eq_dieOf_mod, hdie, Nat.mod_eq_of_lt hd]
    · rw [bits_6_3_eq_clusterOf_mod, hcluster, Nat.mul_add_mod, Nat.mod_eq_of_lt hc]
    · rw [bits_2_0_eq_mod]
      omega
  · exact ⟨dieOf n, clusterOf n % 16, n % 8, dieOf_lt_of_lt hn, Nat.mod_lt _ (by decide), Nat.mod_lt _ (by decide),
      dieOf_clusterOf_cell_recompose n⟩

end Sys2Proof.Machine

/-! ## Integer formats: the model's bit patterns and the statements' exact integers (R74, R75)

The machine works on patterns (`lowBits`, `signedOf`, `wrapInt`, `extendTo`), the statements on integers (`valueIn`, `inType`); the two
readings agree for every type. -/
namespace Sys2Proof.Machine

theorem formatWidth_pos (t : Nat) : 0 < formatWidth t := by
  unfold formatWidth
  split <;> decide

theorem isSigned_iff (t : Nat) : isSigned t = true ↔ 4 ≤ t ∧ t ≤ 7 := by
  simp only [isSigned, Bool.and_eq_true, decide_eq_true_eq]

theorem natCast_wrapInt (w : Nat) (x : Int) : (wrapInt w x : Int) = x % ((2 ^ w : Nat) : Int) :=
  Int.toNat_of_nonneg (Int.emod_nonneg x (Int.natCast_ne_zero.mpr (Nat.ne_of_gt (Nat.two_pow_pos w))))

theorem wrapInt_natCast (w x : Nat) : wrapInt w x = lowBits w x := by
  apply Int.natCast_inj.mp
  rw [natCast_wrapInt, lowBits, Int.natCast_emod]

/-- A pattern read as two's complement is the balanced residue. -/
theorem signedOf_eq_bmod (w x : Nat) (hw : 0 < w) : signedOf w x = (x : Int).bmod (2 ^ w) := by
  have hdouble : 2 ^ w = 2 * 2 ^ (w - 1) := by rw [Nat.mul_comm, Nat.two_pow_pred_mul_two hw]
  unfold signedOf
  rw [Int.bmod_def, ← Int.natCast_emod]
  generalize x % 2 ^ w = r
  rw [hdouble]
  split <;> split <;> omega

/-- Wrapping an integer to a pattern does not change its balanced residue. -/
theorem signedOf_wrapInt (w : Nat) (x : Int) (hw : 0 < w) : signedOf w (wrapInt w x) = x.bmod (2 ^ w) := by
  rw [signedOf_eq_bmod w _ hw, natCast_wrapInt, Int.emod_bmod]

theorem lowBits_wrapInt (w : Nat) (x : Int) : lowBits w (wrapInt w x) = wrapInt w x := by
  apply Int.natCast_inj.mp
  rw [lowBits, Int.natCast_emod, natCast_wrapInt, Int.emod_emod]

theorem lowBits_lowBits (w x : Nat) : lowBits w (lowBits w x) = lowBits w x := Nat.mod_mod x _

theorem word_eq_ofInt (x : Nat) : word x = BitVec.ofInt 64 x := (BitVec.ofInt_natCast 64 x).symm

theorem word_wrapInt (x : Int) : word (wrapInt 64 x) = BitVec.ofInt 64 x := by
  rw [word_eq_ofInt, natCast_wrapInt]
  apply BitVec.eq_of_toInt_eq
  rw [BitVec.toInt_ofInt, BitVec.toInt_ofInt, Int.emod_bmod]

/-- The value of a pattern in a type is the statements' value of the register it is cut from. -/
theorem intValue_lowBits (t : BitVec 4) (x : Word) : intValue t.toNat (lowBits (formatWidth t.toNat) x.toNat) = valueIn t x := by
  unfold intValue valueIn
  simp only [isSigned_iff]
  split
  · rw [← wrapInt_natCast, signedOf_wrapInt _ _ (formatWidth_pos _)]
  · rw [lowBits_lowBits]
    rfl

/-- An integer wrapped to a type's width and extended to a register (R75) is the integer in that type. -/
theorem word_extendTo_wrapInt (t : BitVec 4) (x : Int) : word (extendTo 64 t.toNat (wrapInt (formatWidth t.toNat) x)) = inType t x := by
  unfold extendTo inType
  simp only [isSigned_iff]
  split
  · rw [signedOf_wrapInt _ _ (formatWidth_pos _), word_wrapInt]
  · rw [lowBits_wrapInt, word_eq_ofInt, natCast_wrapInt]

/-- The value in a type has the register's own low bits. -/
theorem wrapInt_valueIn (t : BitVec 4) (x : Word) : wrapInt (formatWidth t.toNat) (valueIn t x) = lowBits (formatWidth t.toNat) x.toNat := by
  apply Int.natCast_inj.mp
  rw [natCast_wrapInt, lowBits, Int.natCast_emod, valueIn]
  split
  · exact Int.bmod_emod
  · rw [Int.natCast_emod, Int.emod_emod]

/-- All ones of a width is −1 wrapped to it. -/
theorem wrapInt_neg_one (w : Nat) : wrapInt w (-1) = 2 ^ w - 1 := by
  have hpos : 0 < 2 ^ w := Nat.two_pow_pos w
  apply Int.natCast_inj.mp
  rw [natCast_wrapInt, ← Int.add_emod_right, Int.emod_eq_of_lt] <;> omega

end Sys2Proof.Machine

/-! ## Scalar results leave the rest of the machine alone (R32, R47) -/
namespace Sys2Proof.Machine

/-- No system register of a core shows its latches, its results in flight or the issue number. -/
theorem State.cellReg_of_latches_flights (s t : State) (c n : Nat) (latches : SMap Latch) (flights : List Flight)
    (honly : t = { s with cores := t.cores, seq := t.seq })
    (hcore : t.core c = { s.core c with latches := latches, flights := flights }) :
    t.cellReg c n true = s.cellReg c n true := by
  have hcore' : State.core { s with cores := t.cores, seq := t.seq } c = _ := hcore
  rw [honly]
  unfold State.cellReg
  rw [hcore']
  rfl

/-- A core that changes in its latches and its results in flight alone keeps all that a frame speaks of. -/
theorem frame_of_latches_flights (s t : State) (c : Nat) (latches : SMap Latch) (flights : List Flight)
    (honly : t = { s with cores := t.cores, seq := t.seq })
    (hcore : t.core c = { s.core c with latches := latches, flights := flights }) (hothers : SameOthers c s t) :
    Frame noneOf c s t := by
  refine ⟨fun a => ?_, ?_, hothers, fun n _ => State.cellReg_of_latches_flights s t c n latches flights honly hcore⟩
  · rw [honly]
    rfl
  · rw [hcore]
    exact ⟨fun _ => rfl, fun _ _ => rfl, fun _ => rfl, fun _ _ _ => rfl, rfl⟩

/-- A latch set changes the cores alone. -/
theorem State.latchOp_only (s : State) (i : Instr) (addr k0 row0 : Nat) :
    s.latchOp i addr k0 row0 = { s with cores := (s.latchOp i addr k0 row0).cores } := by
  obtain ⟨-, h⟩ | ⟨-, h⟩ := s.latchOp_cases i addr k0 row0
  · rw [h]
  · rw [h]
    rfl

/-- The latch of an operation is set and its result joins those in flight: what every instruction with one scalar result leaves
unchanged. -/
theorem State.launch_latchOp_frame (s : State) (i : Instr) (addr k0 row0 : Nat) (f : Flight) :
    Frame noneOf s.me s ((s.latchOp i addr k0 row0).launch s.me f) := by
  apply frame_of_latches_flights
  · rw [State.launch_only, State.latchOp_only]
  · rw [State.launch_core_same, State.me, State.latchOp_core_same]
  · intro d hd
    rw [State.launch_core_ne _ _ _ _ hd, State.latchOp_core_ne _ _ _ _ _ _ hd]

end Sys2Proof.Machine

/-! ## DIV and REM (R332, R333) -/
namespace Sys2Proof.Machine

/-- A function on patterns that answers an integer wrapped to the width gives, widened to a register, that integer in the type. -/
theorem extSR_eq_inType {t : BitVec 4} {f : Nat → Nat → Nat → Nat} {a b : Word} {x : Int}
    (h : f (formatWidth t.toNat) (lowBits (formatWidth t.toNat) a.toNat) (lowBits (formatWidth t.toNat) b.toNat)
      = wrapInt (formatWidth t.toNat) x) : extSR t f a b = inType t x := by
  rw [← word_extendTo_wrapInt, ← h]
  rfl

theorem extSR_divBits (t : BitVec 4) (a b : Word) (hb : valueIn t b ≠ 0) :
    extSR t (divBits t.toNat) a b = inType t ((valueIn t a).tdiv (valueIn t b)) := by
  apply extSR_eq_inType
  rw [divBits, intValue_lowBits, intValue_lowBits, if_neg hb]

theorem extSR_remBits (t : BitVec 4) (a b : Word) (hb : valueIn t b ≠ 0) :
    extSR t (remBits t.toNat) a b = inType t ((valueIn t a).tmod (valueIn t b)) := by
  apply extSR_eq_inType
  rw [remBits, intValue_lowBits, intValue_lowBits, if_neg hb]

theorem extSR_divBits_zero (t : BitVec 4) (a b : Word) (hb : valueIn t b = 0) : extSR t (divBits t.toNat) a b = inType t (-1) := by
  apply extSR_eq_inType
  rw [divBits, intValue_lowBits, if_pos hb, wrapInt_neg_one]

theorem extSR_remBits_zero (t : BitVec 4) (a b : Word) (hb : valueIn t b = 0) :
    extSR t (remBits t.toNat) a b = inType t (valueIn t a) := by
  apply extSR_eq_inType
  rw [remBits, intValue_lowBits, if_pos hb, wrapInt_valueIn]

/-- The model's latency is the row of R332 for the type's width. -/
theorem divLatency_of_width {t : BitVec 4} {lat : Nat} (h : (formatWidth t.toNat, lat) ∈ [(8, 6), (16, 10), (32, 18), (64, 34)]) :
    divLatency t = lat := by
  simp only [List.mem_cons, Prod.mk.injEq, List.not_mem_nil, or_false] at h
  unfold divLatency
  obtain ⟨hw, rfl⟩ | ⟨hw, rfl⟩ | ⟨hw, rfl⟩ | ⟨hw, rfl⟩ := h <;> simp only [hw]

theorem typeCheck_arithType {t : BitVec 4} (h : ArithType t) : typeCheck (arithType t) = none := by
  obtain ⟨hlow, hhigh⟩ := h
  simp only [typeCheck, arithType, hlow, hhigh, decide_true, Bool.and_self, if_true]

/-- What the division mould does behind its checks: the scoreboarded result joins, and nothing else that a frame speaks of changes. -/
theorem scalarPending_latchOp_joins_frame (s : State) (i : Instr) (d : BitVec 6) (lat : Nat) (v : Word) :
    ScalarJoins s ((s.latchOp i 0 0 0).scalarPending i d lat v) d lat true v
      ∧ Frame noneOf s.me s ((s.latchOp i 0 0 0).scalarPending i d lat v) := by
  have hjoin := (s.latchOp i 0 0 0).scalarPending_flights i d lat v
  rw [State.latchOp_ctx, State.latchOp_core_same] at hjoin
  constructor
  · refine ⟨_, hjoin, rfl, rfl, rfl, rfl, rfl, rfl, ?_⟩
    rw [State.newFlight, State.latchOp_seq]
  · rw [State.scalarPending, State.latchOp_ctx]
    exact State.launch_latchOp_frame s i 0 0 0 _

/-- An instruction of the division mould whose type is accepted completes with the mould's value after the latency of the width. -/
theorem givesScalar_of_divMould {i : Instr} {s : State} {d : BitVec 6} {t : BitVec 4} {v : Word}
    (hexec : exec i s = s.divMould i d t v) (hcheck : scalarCheck i = none) : GivesScalar i s d (divLatency t) true v := by
  refine ⟨_, ?_, scalarPending_latchOp_joins_frame s i d (divLatency t) v⟩
  rw [hexec, State.divMould, hcheck, State.guarded_none]

theorem div_givesScalar (d a b : BitVec 6) {t : BitVec 4} (s : State) (ht : ArithType t) :
    GivesScalar (.div d a b t) s d (divLatency t) true (extSR t (divBits t.toNat) (s.rd a) (s.rd b)) :=
  givesScalar_of_divMould (by rw [exec_div, execDiv]) (typeCheck_arithType ht)

theorem rem_givesScalar (d a b : BitVec 6) {t : BitVec 4} (s : State) (ht : ArithType t) :
    GivesScalar (.rem d a b t) s d (divLatency t) true (extSR t (remBits t.toNat) (s.rd a) (s.rd b)) :=
  givesScalar_of_divMould (by rw [exec_rem, execRem]) (typeCheck_arithType ht)

/-- Settles O5: both are the division mould's one scalar result, and on each side of the zero divisor the pattern that it computes is
the exact quotient or remainder reduced to the type. -/
theorem divideResults : Obligations.DivideResults := by
  unfold Obligations.DivideResults
  intro d a b t s ht lat hlat
  have hdiv := div_givesScalar d a b s ht
  have hrem := rem_givesScalar d a b s ht
  rw [divLatency_of_width hlat] at hdiv hrem
  refine ⟨fun hb => ?_, fun hb => ?_⟩
  · rw [extSR_divBits t _ _ hb] at hdiv
    rw [extSR_remBits t _ _ hb] at hrem
    exact ⟨hdiv, hrem⟩
  · rw [extSR_divBits_zero t _ _ hb] at hdiv
    rw [extSR_remBits_zero t _ _ hb] at hrem
    exact ⟨hdiv, hrem⟩

end Sys2Proof.Machine
